-- ==== Sys2Proof/Word.lean ====
section
/-! DEFINITION. The word types of the model and the one sparse map that every memory, register file and table uses. -/
namespace Sys2Proof

/-- One byte; byte 0 of a multi-byte value holds bits [7:0] (R11). -/
abbrev Byte := BitVec 8

/-- A completion status code of R395. -/
abbrev Status := BitVec 8

/-- One 128-bit pattern word (R206). -/
abbrev PWord := BitVec 128

/-- A map from a number to a value, as plain data: keys strictly rising, and no entry equal to what an unlisted key
reads as. The operations that keep this form are in Machine/Ops.lean. -/
abbrev Sparse (α : Type) := List (Nat × α)

/-- Bytes by address: the cells that differ from what unwritten memory reads as. -/
abbrev Mem := List Host.Cell

end Sys2Proof
end

