-- ==== Sys2Proof/Config.lean ====
section
/-! DEFINITION. The values the manual leaves open: constants with no body, so that no proof can see what they are.
Each is applied to the operands it depends on, or to a counter held in State (`freeCtr`, log entry 7). -/
namespace Sys2Proof.Config

/-- A 64-bit value drawn from the entropy source (R73, R434): rounding keys. -/
opaque entropy : Nat → BitVec 64

/-- The unit that owns the rounding lane of a number (R73 says only that lane numbers are unique within the bolt). -/
opaque laneUnit : Nat → Nat

/-- Which of unit `u`'s rounding lanes rounds element `i` of an output, in the order of their numbers. -/
opaque laneIndex : Nat → Nat → Nat

/-- Which representable value within the bound of R80 a function returns: how many tally units it lies from the value
the model computes, for function code `f` on the operand with tally bits `a`. The model limits it to the bound. -/
opaque ulpPick : Nat → BitVec 24 → Int

/-- The same for a division, on the tally bits of its two operands. -/
opaque divPick : BitVec 24 → BitVec 24 → Int

/-- How far a matrix unit has ramped down when an instruction cancels its ramp-down (R96), in eight-cycle steps, by run and
issue number. -/
opaque rampReached : Nat → Nat → Nat

/-- Whether the last output row of the instruction that runs on a matrix unit has been handed off while the instruction has
not completed (R93, R96), by free-value number and unit of the module. -/
opaque rowsDone : Nat → Nat → Bool

/-- Whether the sequencer stalls the instruction that runs on a matrix unit (R96) in the time that passes, by free-value number
and unit of the module. -/
opaque stalls : Nat → Nat → Bool

/-- The embedding row that the `i`-th replaced row of a patch's darned embedding layer stands for (R133, R134: no rule says which
rows a patch replaces), by patch, layer and `i`. -/
opaque darnRow : Nat → Nat → Nat → Nat

/-- A handle firmware would issue (patch, pattern, key, base): the manual does not say how handles are numbered. -/
opaque handlePick : Nat → Nat

/-- The device-physical page of a 64 KiB page outside the sleeves' spaces, by area and page: a table page, a base slot's, a
patch region's or a lane's. -/
opaque areaPage : Nat → Nat → BitVec 25

/-- The page that holds the table to which an entry of a sleeve's tables points, by sleeve, level and index (R247). -/
opaque tablePage : Nat → Nat → Nat → BitVec 25

/-- Which 64 KiB page of its area an uncorrectable line lies in where the event does not name the line, by free-value
number. -/
opaque badPage : Nat → Nat

/-- The integrity tag of a line's payload, device-physical address, SEAL, OWNER and KEYGEN (R238): its cipher is not given. -/
opaque integrityTag : List Byte → Nat → BitVec 16 → Nat → Nat → BitVec 64

/-- The six check symbols over the other 138 bytes of a line (R238): the payload, then ITAG and SEAL. -/
opaque checkSymbols : List Byte → BitVec 80 → BitVec 48

/-- The device-physical page that firmware takes for a mapping (R246, R247 fix the entry's form, not the choice). -/
opaque dpaPick : Nat → BitVec 25

/-- Key material: the owner key that ML-KEM and HKDF give for a ciphertext (R430), or a key drawn by the security
engine (R435, R443). -/
opaque keyMaterial : Nat → List Byte → BitVec 256

/-- Byte `i` of the encapsulation key of a session key pair (R430). -/
opaque encapsulationKey : Nat → Nat → BitVec 8

/-- Whether an energy model's total for a die and stitch lies more than 10 % from the energy measured there (R470). -/
opaque modelDeviates : Nat → Nat → Bool

/-- A random BOOT_ID or IMAGE_ID (R427, R443). -/
opaque randomId : Nat → BitVec 128

/-- The fused coefficient of the energy model for one activity count (R469), in nanojoules at 1 V squared. -/
opaque energyCoefficient : Nat → Nat

/-- The quota, in 1/256 of a port's payload rate, that the manager gives a channel of a port (R275). -/
opaque quotaOf : Nat → Nat → Nat

/-- The quota that the other end of a port offers a group's channel (R406). -/
opaque peerOffer : Nat → Nat → Nat

/-- Which of its ports a plan gives a ring or tree of a channel toward another member (R299), by plan, channel, and ring and
node. -/
opaque ringPort : Nat → Nat → Nat → Nat

/-- The snapshot registers that hold amounts of time or of work in flight (cycles to the latch, requests queued, lines
outstanding, tiles, flits and segments in flight: R493 to R496), which the model does not carry: by free-value number and
BAR0 offset. -/
opaque snapTiming : Nat → Nat → BitVec 32

/-- An amount of time that the model, which has no clock, does not carry (log entry 10): measured beads, stretched cycles,
waits, exit instants. -/
opaque elapsed : Nat → Nat

/-- The new epoch's tick parent and routes are the manager's plan (R319): which node it names for a joining node. -/
opaque tickParentOf : Nat → Nat → Nat

/-- The node of a domain's standby, by domain (R331 shows it, no rule says who names it). -/
opaque standbyNode : Nat → Nat

/-- Whether the plan of a number routes a membership's traffic over a port of a node (R317, R281). -/
opaque planUses : Nat → Nat → Nat → Nat → Bool

/-- Whether the plan of a number routes traffic of others through a node (R317, R474). -/
opaque planRelays : Nat → Nat → Bool

/-- Whether the manager adds a port in STANDBY to its plans at an edge (R271: at an edge of the manager's choosing), by
free-value number and port. -/
opaque planAdds : Nat → Nat → Bool

/-- Whether a message released over the Seam has been acknowledged end to end by the next hem (R282), by free-value number and
place among those released. -/
opaque acknowledged : Nat → Nat → Bool

/-- Whether a released message went over a port that is lost and is not acknowledged (R282), by free-value number and place. -/
opaque overLostPort : Nat → Nat → Bool

/-- The module with the fewest hops to this one that holds a base handle READY (R339), by plan and handle. -/
opaque nearestPeer : Nat → Nat → Nat

/-- How many of a hem's commands whose records are not out yet have their commit record written when a commit write fails
(R47), by free-value number. -/
opaque recordsWritten : Nat → Nat

/-- The port on which the plan of a number has a node relay segments to another (R279). -/
opaque routePort : Nat → Nat → Nat → Nat

/-- How many of a hem's commands commit before the edge beside the drain of a sleeve reset (R51), by free-value number. -/
opaque hemFits : Nat → Nat

/-- Whether a member has become adrift (R322), as a manager knows it in a hem, by free-value number and node. -/
opaque memberAdrift : Nat → Nat → Bool

/-- Members of a collective in this module's subtree of the tick tree of a plan (R319, R326). -/
opaque subtreeMembers : Nat → Nat → Nat

/-- The price in beads of firmware's update pattern (R389 says that firmware supplies it, no rule what it costs). -/
opaque updateBeads : Nat → Nat

/-- The tag under which an update's hand-offs of a kind count (R190 counts them, no rule names their tag); kind 16 stands
for the two-ply masters. -/
opaque updateTag : Nat → BitVec 16

/-- Byte `i` of a sealed image that the module makes (R443): ciphertext, tags, wrapped key and hash. -/
opaque sealedByte : Nat → Nat → Byte

/-- The signature, by free-value number, of a certificate or quote that the ME returns (R429). -/
opaque signature : Nat → List Byte

end Sys2Proof.Config
end

