-- ==== Sys2Proof/Syntax.lean ====
section
/-! DEFINITION. The commands of the block: one constructor of Instr for each row of spec/opcode_table.json, with the
row's operands. Data the module reads from outside (host memory, peers' words, sensors, results of cryptographic
checks) is an operand (log entry 5). -/
namespace Sys2Proof

/-- Whose queues a command belongs to: the admin session or sleeve n. -/
inductive Owner where
  | admin
  | sleeve (n : Nat)
deriving DecidableEq, Repr

/-- A mailbox request: MBX_ADMIN_DB (R379) and the command header (R382). `reserved` says that a reserved byte of the
header or payload is not 0 (R14). -/
structure MbxHdr where
  seq : BitVec 16
  irq : Bool
  sleeve : Nat
  reserved : Bool
deriving DecidableEq, Repr

/-- A predecessor or KILL target reference (R386). -/
structure PredRef where
  queue : Nat
  slot : Nat
  seq : BitVec 16
deriving DecidableEq, Repr

/-- An address field of a descriptor (R385): space 0 names nothing, 1 device-virtual, 2 host window. -/
structure Addr where
  space : Nat
  addr : Nat
deriving DecidableEq, Repr

/-- The descriptor header of an accepted descriptor (R384), with the queue and slot it came from. -/
structure QHdr where
  owner : Owner
  queue : Nat
  slot : Nat
  seq : BitVec 16
  tag : BitVec 16
  cls : Bool
  watch : BitVec 2
  gradMode : Nat
  deadline : Nat
  bolts : BitVec 16
  base : Nat
  pattern : Nat
  preds : List PredRef
  oppt : Option Nat
  args : Addr
  argsLen : Nat
  statsAddr : Addr
  statsLen : Nat
  reserved : Bool
deriving DecidableEq, Repr

/-- One cursor override of an argument block (R387). -/
structure CurOverride where
  cursor : Nat
  base : Nat
  sbase : Nat
deriving DecidableEq, Repr

/-- The argument block as firmware copied it (R387). -/
structure ArgBlock where
  scalars : List (BitVec 32)
  novr : Nat
  overrides : List CurOverride
  reserved : Bool
deriving DecidableEq, Repr

/-- One darned-layer entry (R133). -/
structure Darn where
  rows : Nat
  slot : Nat
  kind : Nat
  layer : Nat
  reserved : Bool
deriving DecidableEq, Repr

/-- A patch descriptor (R110) with its target-layer and darned-layer lists. -/
structure PatchDesc where
  tenant : Nat
  base : Nat
  rankCode : Nat
  train : Bool
  scale : BitVec 16
  layers : List Nat
  imageLen : Nat
  darns : List Darn
  /-- the darned-layer list's address -/
  darnsAddr : Nat
  reserved : Bool
deriving DecidableEq, Repr

/-- A sealed patch image (R441) as the ingest path finds it: its clear fields, the results of the cryptographic checks
and the plaintext they give. -/
structure SealedImage where
  version : Nat
  tenant : Nat
  plainBytes : Nat
  unwrapOk : Bool
  tagsOk : Bool
  hashOk : Bool
  plain : List Byte
  /-- tensor scale bytes of the plain-format tensors, in the order of the plaintext -/
  scales : List (BitVec 8)
deriving DecidableEq, Repr

/-- The update parameter block (R170). -/
structure UpdateBlock where
  kind : Nat
  decayDarn : Bool
  clipEn : Bool
  step : Nat
  lr : BitVec 16
  omb1 : BitVec 16
  omb2 : BitVec 16
  eps : BitVec 16
  decay : BitVec 16
  gscale : BitVec 16
  clip : BitVec 16
  reserved : Bool
deriving DecidableEq, Repr

/-- The group parameter block (R290) with its member list. -/
structure GroupBlock where
  group : Nat
  format : Nat
  headroom : Nat
  schedule : Nat
  keyId : Nat
  width : Nat
  members : List Nat
  reserved : Bool
deriving DecidableEq, Repr

/-- The body of a queue command (R389). -/
inductive QBody where
  | run (args : ArgBlock)
  | update (block : UpdateBlock) (patches : List Nat)
  | kill (target : PredRef)
  | fence
  | regTenant (tenant key : Nat)
  | deregTenant (tenant : Nat)
  | regPatch (desc : PatchDesc) (image : SealedImage)
  | deregPatch (patch : Nat)
  | exportPatch (patch : Nat) (dest : Addr) (destLen : Nat)
  | loadPattern (image : List Byte) (imageLen : Nat)
  | freePattern (handle : Nat)
  | setRecipe (cls : Bool) (kind : Nat) (entry : BitVec 64)
  | configStack (bolt lane size : Nat)
  | map (base len page : Nat) (writable : Bool) (node : Nat)
  | unmap (base len : Nat)
  | setWindow (window : Nat) (r w : Bool) (pasid base len : Nat)
  | clearWindow (window : Nat)
  | createGroup (block : GroupBlock)
  | destroyGroup (group : Nat)
  | snapshot (snapId : BitVec 16) (target offset : Nat)
  | snapshotDomain (snapId : BitVec 16) (target offset : Nat)
  | telemetry (kind : Nat) (dest : Addr) (destLen : Nat)
  | setStitch (code : Nat)
  | setFloor (floor : Nat)
  | openIngest (pasid base len : Nat)
deriving DecidableEq, Repr

/-- What the Reckoner reads from host memory with a descriptor: the argument block's bytes, the lists and images that
the body points to, and whether the host granted every page the command needs (R251). -/
structure HostAux where
  args : List Byte
  list : List Byte
  list2 : List Byte
  image : SealedImage
  bytes : List Byte
  pagesGranted : Bool
deriving DecidableEq, Repr

/-- A verified firmware bundle (R422): its SVN, the SHA-256 of its manifest and the contract versions it serves. -/
structure FwBundle where
  svn : Nat
  measure : BitVec 256
  major : BitVec 8
  minor : BitVec 8
  oldest : BitVec 8
deriving DecidableEq, Repr

/-- The units of a bolt that hold a queue (R221). -/
inductive UnitId where
  | matrix (array : Nat)
  | rail
  | vector
  | rotation
  | streamer
  | stack
  | seam
deriving DecidableEq, Repr

/-- What an uncorrectable line holds (R260, R478); of a stack frame, the line's number in the frame that a POP would read. -/
inductive LineHolds where
  | sleeveData (sleeve dva : Nat)
  | tableLine (sleeve dva level : Nat)
  | baseLine (slot offset : Nat) (peer : Bool)
  | patchState (patch : Nat)
  | stackFrame (bolt lane line : Nat)
  | bastedLine
  | commitWrite
  | pocket (bolt patch : Nat) (memoryCopyOk : Bool)
deriving DecidableEq, Repr

/-- H2D snoops that the host line cache answers (R358). -/
inductive SnoopKind where
  | inv
  | data
  | cur
deriving DecidableEq, Repr

/-- The events that are a conventional host reset (R373). -/
inductive HostResetCause where
  | perst
  | hotReset
  | dlDown
  | flr
  | viral
  | holdOverflow
deriving DecidableEq, Repr

/-- A flit as its two codewords leave it (R264, R265): the header word, the payload, the CRC-32 that came with them, and what
FEC says: how many bytes it corrected, or that it could not. -/
structure Flit where
  header : BitVec 32
  payload : List Byte
  crc : BitVec 32
  /-- the bytes that FEC corrected, none where it could not -/
  fec : Option Nat
deriving DecidableEq, Repr

/-- Whether FEC could correct a flit. -/
def Flit.fecOk (f : Flit) : Bool := f.fec.isSome

/-- The bytes that FEC corrected in a flit. -/
def Flit.corrected (f : Flit) : Nat := f.fec.getD 0

/-- A segment header (R278). -/
structure Segment where
  keyId : Nat
  src : Nat
  dst : Nat
  vc : Nat
  last : Bool
  counter : Nat
  length : Nat
  msgId : BitVec 32
  /-- what the data of an accepted segment of a span store says: address, bytes, line tag (R342) -/
  store : Option (Nat × List Byte × BitVec 16) := none
deriving DecidableEq, Repr

/-- What the two ends of a port find and agree in training (R268, R269): the measured quality of the lanes, the tick
round trip, the peer and whether its chain verifies. -/
structure TrainResult where
  ok : Bool
  /-- for each lane, its pre-FEC bit error rates at 56, 112 and 224 Gb/s in units of 10^-9 -/
  ber : List (List Nat)
  peerConfig : Nat
  rtt : Nat
  peerNode : Nat
  peerPort : Nat
  /-- the identity that the peer's chain attests -/
  peerIdentity : Nat
  chainOk : Bool
  keyOk : Bool
deriving DecidableEq, Repr

/-- Why a port goes down, coded as in the PORT_DOWN event (R400). -/
inductive DownCause where
  | signal
  | replay
  | tick
  | peer
deriving DecidableEq, Repr

/-- An entry of a post's shape list (R291). -/
inductive ShapeEntry where
  | patch (tenant rank layer elements : Nat)
  | blocks (n : Nat)
deriving DecidableEq, Repr

/-- What reaches a reduction engine from another member: a block's byte of the exponent pass (R294), a member's shape list,
which travels with that pass (R291), a BSR16 block (R286), or a member's E1 block (R311). -/
inductive RedBlock where
  | exponent (byte : Byte)
  | shape (rank : Nat) (entries : List ShapeEntry)
  | bsr (bytes : List Byte)
  | e1 (rank : Nat) (bytes : List Byte)
deriving DecidableEq, Repr

/-- The fields of a BSR16 block (R286). -/
structure Bsr16 where
  mant : List Int
  exp : BitVec 8
  residue : Nat
  esc : Nat
  nonfin : Bool
  ovf : Bool
  contrib : Nat
deriving DecidableEq, Repr

/-- One layer-table entry of a base image (R333). -/
structure LayerEntry where
  layer : Nat
  kind : Nat
  fmt : Nat
  rot : Nat
  k : Nat
  n : Nat
  experts : Nat
  scale : BitVec 8
  shard : Nat
  offset : Nat
  soffset : Nat
deriving DecidableEq, Repr

/-- A load operation (R335): the image's clear header (R332) and the layer table that its chunk 0 begins with (R333), the seeds,
the span's members in order and their job key (R433), the slot, and whether a module lacks the pages. As the manager passes it
on it carries the handle and the span channel that it assigned (R336, R341). -/
structure LoadOp where
  header : List Byte
  layers : List LayerEntry
  seeds : List Nat
  members : List Nat
  jobKey : Nat
  slot : Nat
  lackPages : Bool
  assigned : Option (Nat × Nat)
deriving DecidableEq, Repr

/-- A retirement (R338): the handle, and whether another module answers that it is in use there. -/
structure RetireOp where
  handle : Nat
  inUse : Bool
deriving DecidableEq, Repr

/-- A management operation's envelope (R446): its sequence number and whether its signature verifies under a key the
anchor has certified. -/
structure MgmtHdr where
  seq : Nat
  sigOk : Bool
deriving DecidableEq, Repr

/-- Roles of a module (R316). -/
inductive Role where
  | worker
  | standby
  | manager
  | topManager
deriving DecidableEq, Repr

/-- One roster entry (R318, R440): node, attested identity and the BOOT_ID the manager verified. -/
structure RosterEntry where
  node : Nat
  identity : Nat
  bootId : Option (BitVec 128)
deriving DecidableEq, Repr

/-- A domain profile (R316, R511). -/
structure Profile where
  domain : Nat
  index : Nat
  role : Role
  managerIdentity : Nat
  rosterGen : Nat
  roster : List RosterEntry
deriving DecidableEq, Repr

/-- Frames that the management port serves (R524). -/
inductive NetFrame where
  | arp
  | ndp
  | echo
  | udp (port : Nat)
  | other
deriving DecidableEq, Repr

/-- Results of phase 3 of bring-up (R507, R509, R513). -/
structure MemTrainResult where
  storedOk : Bool
  coldOk : Bool
  dieLinksOk : Bool
  selfTestOk : Bool
  entropyOk : Bool
  capacityOk : Bool
deriving DecidableEq, Repr

/-- The measured values of one 1 us power sample (R460). -/
structure PowerSample where
  inputMw : Nat
  inputMv : Nat
  linksW : Nat
  memoryW : Nat
  iodW : Nat
  computeW : Nat
deriving DecidableEq, Repr

/-- A collective as the manager tracks it (R324 to R326, R307): the lists it has, its number, its stitch and its outcome. -/
structure MgrColl where
  membership : Nat
  seqNo : Nat
  lists : List (Nat × List Nat) := []
  /-- the latest arrival cycle that a member reported at each BARRIER OP 1 (R326) -/
  arrivals : List Nat := []
  /-- barriers released so far, and whether every member has arrived at the completion barrier (R307) -/
  released : Nat := 0
  complete : Bool := false
  number : Option (BitVec 16) := none
  place : Option Nat := none
  decided : Option Bool := none
  /-- placed again after a member's unravel: the shift of the coming edge leaves it (R328) -/
  again : Bool := false
deriving DecidableEq, Repr

/-- A base image in the domain as its manager keeps it (R335, R336, R341): its handle, slot and keys, the span's channel (0 without
one), the modules that hold it in member order, and whether it is READY on all of them. -/
structure Holding where
  handle : Nat
  imageId : Nat
  slot : Nat
  keyId : Nat
  jobKey : Nat
  channel : Nat
  nodes : List Nat
  ready : Bool := false
deriving DecidableEq, Repr

/-- The standby's copy of the manager's state (R329). -/
structure Mirror where
  rosterGen : Nat
  roster : List RosterEntry
  aliasMap : Sparse Nat
  holdings : List Holding
  epoch : BitVec 2
  colls : List MgrColl
  /-- the plan of trees and routes in force, and the tick parents by it -/
  plan : Nat
  parents : List (Nat × Nat)
  /-- the next collective number, and the numbers in use with their stitches (R324) -/
  nextColl : BitVec 16
  numbers : List (BitVec 16 × Nat)
deriving DecidableEq, Repr

/-- A placement (R325, R326): the stitch, and the latest arrival cycle of any member at each BARRIER OP 1. -/
structure Placing where
  stitch : Nat
  arrivals : List Nat
deriving DecidableEq, Repr

/-- The collective that a member ended, by its number or before it has one, and whether a failed segment ended it (R279, R309). -/
structure CollRef where
  number : Option (BitVec 16)
  membership : Nat
  seqNo : Nat
  auth : Bool
deriving DecidableEq, Repr

/-- The commands, in the table's order. -/
inductive Instr where
  -- host register and doorbell accesses
  | sqDoorbell (page width : Nat) (value : BitVec 64)
  | shadowLowWordRead (bar off width : Nat)
  | registerWrite (bar off width : Nat) (value : BitVec 64)
  | evqEnable (value : BitVec 32)
  | snapshotRelease (value : BitVec 32)
  | msixUnmask (vector : Nat)
  -- mailbox commands
  | openSession (h : MbxHdr) (major pasid : Nat)
  | closeSession (h : MbxHdr)
  | createSleeve (h : MbxHdr) (bolts : BitVec 16) (memGib cxl seam power : Nat)
  | destroySleeve (h : MbxHdr)
  | resetSleeve (h : MbxHdr)
  | bindPasid (h : MbxHdr) (pasid : Nat)
  | unbindPasid (h : MbxHdr) (pasid : Nat)
  | createCq (h : MbxHdr) (cq vector pasid base slots head : Nat)
  | createSq (h : MbxHdr) (queue cq : Nat) (seq0 : BitVec 16) (pasid base slots : Nat)
  | deleteQueue (h : MbxHdr) (isCq : Bool) (number : Nat)
  | restartSq (h : MbxHdr) (queue : Nat) (seq0 : BitVec 16) (ci : Nat)
  | kemGet (h : MbxHdr)
  | keyEstablish (h : MbxHdr) (kind : Nat) (ciphertext : List Byte)
  | fwWrite (h : MbxHdr) (offset : Nat) (data : List Byte)
  | fwActivate (h : MbxHdr) (verdict : Option FwBundle)
  -- the Reckoner's reading
  | descriptorRead (o : Owner) (queue : Nat) (bytes : List Byte) (aux : HostAux)
  | descriptorReread (o : Owner) (queue : Nat) (bytes : List Byte) (aux : HostAux)
  -- queue commands
  | run (h : QHdr) (args : ArgBlock)
  | update (h : QHdr) (block : UpdateBlock) (patches : List Nat)
  | kill (h : QHdr) (target : PredRef)
  | fence (h : QHdr)
  | regTenant (h : QHdr) (tenant key : Nat)
  | deregTenant (h : QHdr) (tenant : Nat)
  | regPatch (h : QHdr) (desc : PatchDesc) (image : SealedImage)
  | deregPatch (h : QHdr) (patch : Nat)
  | exportPatch (h : QHdr) (patch : Nat) (dest : Addr) (destLen : Nat)
  | loadPattern (h : QHdr) (image : List Byte) (imageLen : Nat)
  | freePattern (h : QHdr) (handle : Nat)
  | setRecipe (h : QHdr) (cls : Bool) (kind : Nat) (entry : BitVec 64)
  | configStack (h : QHdr) (bolt lane size : Nat)
  | map (h : QHdr) (base len page : Nat) (writable : Bool) (node : Nat)
  | unmap (h : QHdr) (base len : Nat)
  | setWindow (h : QHdr) (window : Nat) (r w : Bool) (pasid base len : Nat)
  | clearWindow (h : QHdr) (window : Nat)
  | createGroup (h : QHdr) (block : GroupBlock)
  | destroyGroup (h : QHdr) (group : Nat)
  | snapshot (h : QHdr) (snapId : BitVec 16) (target offset : Nat)
  | snapshotDomain (h : QHdr) (snapId : BitVec 16) (target offset : Nat)
  | telemetryLink (h : QHdr) (dest : Addr) (destLen : Nat)
  | telemetryDomain (h : QHdr) (dest : Addr) (destLen : Nat)
  | telemetrySlowdown (h : QHdr) (dest : Addr) (destLen : Nat)
  | telemetryErrorLog (h : QHdr) (dest : Addr) (destLen : Nat)
  | telemetryPower (h : QHdr) (dest : Addr) (destLen : Nat)
  | setStitch (h : QHdr) (code : Nat)
  | setFloor (h : QHdr) (floor : Nat)
  | openIngest (h : QHdr) (pasid base len : Nat)
  -- the stitch clock and the answers to commit writes
  | stitchEdge
  | hemStart
  | hostWriteGo
  | hostWriteGoErr
  -- pattern words: the bolt's sequencer issues the word at its word address
  | matrixPlain (bolt : Nat)
  | matrixBackward (bolt : Nat)
  | matrixConvolution (bolt : Nat)
  | railForward (bolt : Nat)
  | railBackward (bolt : Nat)
  | vectorCopy (bolt : Nat)
  | vectorAdd (bolt : Nat)
  | vectorSubtract (bolt : Nat)
  | vectorMultiply (bolt : Nat)
  | vectorFma (bolt : Nat)
  | vectorMinimum (bolt : Nat)
  | vectorMaximum (bolt : Nat)
  | vectorAbsoluteValue (bolt : Nat)
  | vectorNegate (bolt : Nat)
  | vectorLessThan (bolt : Nat)
  | vectorEqual (bolt : Nat)
  | vectorReciprocal (bolt : Nat)
  | vectorSquareRoot (bolt : Nat)
  | vectorReciprocalSquareRoot (bolt : Nat)
  | vectorExp2 (bolt : Nat)
  | vectorLog2 (bolt : Nat)
  | vectorExp (bolt : Nat)
  | vectorNaturalLog (bolt : Nat)
  | vectorTanh (bolt : Nat)
  | vectorSigmoid (bolt : Nat)
  | vectorGelu (bolt : Nat)
  | vectorSilu (bolt : Nat)
  | vectorDivision (bolt : Nat)
  | vectorRowSum (bolt : Nat)
  | vectorRowMaximum (bolt : Nat)
  | twoPlyAdd (bolt : Nat)
  | rotate (bolt : Nat)
  | streamLoad (bolt : Nat) (host : List Byte)
  | streamStore (bolt : Nat)
  | streamTload (bolt : Nat)
  | stackPush (bolt : Nat)
  | stackPop (bolt : Nat)
  | stackPushT (bolt : Nat)
  | stackPopT (bolt : Nat)
  | stat (bolt : Nat)
  | reduceGradient (bolt : Nat)
  | reduceTensor (bolt : Nat)
  | barrierBolts (bolt : Nat)
  | barrierCollective (bolt : Nat)
  | wait (bolt : Nat)
  | drain (bolt : Nat)
  | snap (bolt : Nat)
  | loop (bolt : Nat)
  | branchAlways (bolt : Nat)
  | branchEq (bolt : Nat)
  | branchNe (bolt : Nat)
  | branchLt (bolt : Nat)
  | branchGe (bolt : Nat)
  | branchLast (bolt : Nat)
  | branchEnd (bolt : Nat)
  -- sequencer, matrix-unit, pocket and droop events
  | primitiveComplete (bolt : Nat) (unit : UnitId)
  | waitRelease (bolt : Nat)
  | barrierRelease (bolt : Nat)
  | beadMeterOverrun (bolt : Nat)
  | matrixUnitCold (bolt array : Nat)
  | keeperStallTimeout (bolt array : Nat)
  | boltStartSlot (bolt : Nat)
  | pocketFill (bolt patch layer : Nat)
  | droopDetect (bolt stretch : Nat)
  | droopRecover (bolt : Nat)
  | droopSlackExhausted (bolt : Nat)
  -- memory, translation and the host link
  | lineUncorrectable (holds : LineHolds) (die : Nat) (integrity : Bool)
  | pageRetire (area dva : Nat)
  | patrolScrub (corrected : List (Nat × Nat))
  | lineSettle (area line : Nat)
  | translationWalk (bolt dva : Nat)
  | basePageRefetch (slot page : Nat) (data : List Byte)
  | hostReadPoison (bolt addr : Nat)
  | hostTranslationFault (bolt addr : Nat)
  | atsTranslationCompletion (pasid page size : Nat) (r w : Bool) (phys : Nat)
  | atsInvalidation (pasid : Nat) (page size : Nat)
  | pageRequestResponse (group : Nat) (success : Bool)
  | pageRequestTimeout (group : Nat)
  | snoop (kind : SnoopKind) (line : Nat)
  | linkRecoveryEnter
  | linkL0Return (width rate : Nat)
  | d3hotEnter
  | d0Return
  | conventionalHostReset (cause : HostResetCause)
  | teardownDone
  | cqHeadPoll (o : Owner) (cq : Nat) (head : BitVec 64)
  -- Seam ports and the tick lane
  | portSignalDetect (port : Nat)
  | portTrainingComplete (port : Nat) (res : TrainResult)
  | portTrainingRetry (port : Nat)
  | portDown (port : Nat) (cause : DownCause)
  | flitData (port : Nat) (header : BitVec 32) (payload : List Byte) (crc : BitVec 32) (fec : Option Nat)
  | flitIdle (port : Nat) (flit : Flit)
  | flitLink (port : Nat) (flit : Flit) (credits : List (Nat × Nat)) (nak : Bool)
  | segmentReceive (port : Nat) (seg : Segment) (tagOk : Bool)
  | edgeWord (port : Nat) (word : BitVec 56) (phaseErr : Int)
  | edgeMissed
  | adrift
  | tickRttMeasure (port rtt : Nat)
  | barrierArrive (port : Nat) (word : BitVec 56)
  | barrierReleaseWord (word : BitVec 56)
  | decideRelease (word : BitVec 56)
  | decideAbort (word : BitVec 56)
  | triggerWord (word : BitVec 56)
  | snapshotTimedTrigger
  -- the manager and its members
  | rosterUpdate (gen : Nat) (roster : List RosterEntry)
  | collectiveCandidates (node membership seqNo : Nat) (stitches : List Nat) (arrivals : List Nat)
  | collectivePlacement (membership seqNo : Nat) (coll : BitVec 16) (outcome : Option Placing) (status : Status)
  | portLossReport (node port : Nat)
  | unravelReport (node : Nat)
  | arrivalMismatchReport (node : Nat) (coll : BitVec 16)
  | leaveNotice (node : Nat)
  | leaveAck
  | latencyRequirement (us : Option Nat)
  | standbyMirror (mirror : Mirror)
  | keyDelivery (handle kind : Nat) (material : BitVec 256)
  | stitchLengthAnnounce (stitch code : Nat)
  | moduleJoinReport (node : Nat)
  | tickParentAssign (node : Nat)
  | managerTakeover
  -- reduction and base transfer
  | reductionBlockArrive (group index : Nat) (block : RedBlock)
  | reductionPassEnd (group : Nat)
  | baseChunkReceive (slot index : Nat) (host : Bool) (plain : Option (List Byte))
  | baseLoadReport (node handle : Nat)
  -- pins and bring-up
  | modEnRise (lowMs inputMv : Nat)
  | powerGood (mgrEn : Bool) (domainSel : BitVec 4) (bootSlot : Bool)
  | lampTestEnd
  | firmwareVerified (slotA slotB : Option FwBundle) (selfTestOk : Bool)
  | perstDeassert
  | cxlIoReady (cache : Bool) (width rate : Nat)
  | memTrainComplete (res : MemTrainResult)
  | seamTrainEnd
  | modEnFall
  | mrstAssert
  | mrstRelease
  -- power and thermal
  | powerSample (p : PowerSample)
  | supplyWarning (inputMv : Nat)
  | supplyRecovery
  | inputReset
  | overcurrentTrip
  | overvoltageShutoff
  | thermalThrottle (sensor celsius : Nat)
  | thermalEmergency (sensor celsius : Nat)
  | thermalTrip (sensor celsius : Nat)
  | thermalActionEnd (sensor celsius : Nat)
  | spreadHoldEnter (temps : List (Nat × Nat))
  | spreadEmergency (temps : List (Nat × Nat))
  | spreadHoldEnd (temps : List (Nat × Nat))
  | boltExitComplete (bolt : Nat)
  -- reliability, security engine, front panel
  | unravel (die source : Nat)
  | fatalError (die source : Nat)
  | entropyHealthFail
  | entropyRecovery
  | drbgReseed
  | faultLedTimeout
  | identifyTimeout
  | attnPress (ms : Nat)
  | removalWindowExpiry
  | removalSafe
  -- the management engine
  | anchorInstall (key : Nat)
  | i3cStatusRead
  | i3cIdentityRead
  | mgmtNetworkFrame (frame : NetFrame)
  | mgmtSetProfile (m : MgmtHdr) (index : Nat) (profile : Option Profile)
  | mgmtRoster (m : MgmtHdr) (roster : List RosterEntry)
  | mgmtRoleMove (m : MgmtHdr) (edge : Nat)
  | baseLoad (m : MgmtHdr) (header : List Byte) (layers : List LayerEntry) (seeds members : List Nat) (jobKey slot : Nat)
      (lackPages : Bool) (assigned : Option (Nat × Nat))
  | baseSwitch (m : MgmtHdr) (name handle stitch : Nat)
  | baseRetire (m : MgmtHdr) (op : RetireOp)
  | mgmtDomainKill (m : MgmtHdr) (coll : BitVec 16)
  | mgmtPortDisable (m : MgmtHdr) (port : Nat)
  | mgmtFwWrite (m : MgmtHdr) (offset : Nat) (data : List Byte)
  | mgmtSvnRaise (m : MgmtHdr) (svn : Nat)
  | mgmtQuote (m : MgmtHdr) (nonce : List Byte)
  | mgmtCertificate (m : MgmtHdr) (which : Nat)
  | mgmtDomainSnapshot (m : MgmtHdr) (snapId : BitVec 16) (target offset : Nat)
  | mgmtSetCap (m : MgmtHdr) (watts : Nat) (order : List Nat)
  | mgmtReset (m : MgmtHdr)
  | mgmtIdentify (m : MgmtHdr) (seconds : Nat)
  | mgmtAnchorReplace (m : MgmtHdr) (key : Nat)
  | mgmtDecommission (m : MgmtHdr)
  | mgmtRemovalCancel (m : MgmtHdr)
  | mgmtSetSgmii (m : MgmtHdr)
  | tickWordCorrupted (port : Nat)
  | opticalEngineBelowRetrainLimit (bay : Nat)
  | groupBlockPresented (node : Nat) (block : GroupBlock)
  | collectiveSquashNotice (node : Nat) (coll : CollRef)
deriving DecidableEq, Repr

end Sys2Proof
end

