-- ==== Sys2Proof/Machine/State.lean ====
section
/-! DEFINITION. The state of the block as plain data: everything the manual gives the module, the queue of waiting
commands, the outputs it has made, its value right after a module reset, and the reasons a step can stop. A default
value of a field is its value at reset; INVENTORY.md names the rule or the log entry behind each. -/
namespace Sys2Proof.Machine

/-- A numeric value: NaN, an infinity, or `m * 2^e` with a sign; both zeros are kept apart (R61, R62). -/
inductive Num where
  | nan
  | inf (neg : Bool)
  | fin (neg : Bool) (m : Nat) (e : Int)
deriving DecidableEq, Repr

/-- Responses to a snoop (R358). -/
inductive SnoopResp where
  | rspIHitSE
  | rspSHitSE
  | rspIHitI
deriving DecidableEq, Repr

/-- The fields of a completion record (R393), before it is laid out in bytes. -/
structure CompRec where
  tag : BitVec 16
  status : Status
  watch : BitVec 8
  committed : Bool
  late : Nat
  lateCause : BitVec 8
  queue : Nat
  submit : Nat
  slot : Nat
  delta : Nat
  cost : Nat
  measured : Nat
  handle : Nat
  bolt : Nat
  detail : BitVec 56
deriving DecidableEq, Repr

/-- An event record (R399): type, sleeve (0xFF for none), stitch, the 16 detail bytes as one number. -/
structure EventRec where
  type : Nat
  sleeve : Nat
  stitch : Nat
  detail : BitVec 128
deriving DecidableEq, Repr

/-- Control messages on virtual channel 0 that the manual names. -/
inductive Msg0 where
  | portLoss (port : Nat)
  | unravelling
  | arrivalMismatch (coll : BitVec 16)
  | squash (coll : CollRef)
  | leaveNotice
  | leaveAck (node : Nat)
  | joinReport
  | tickParent (node parent : Nat)
  | roster (gen : Nat) (entries : List RosterEntry)
  /-- a plan of the domain's routes, as (node, destination, port), and of its groups' rings, as (group, nodes in rank order) -/
  | plan (number : Nat) (routes : List (Nat × Nat × Nat)) (rings : List (Nat × List Nat))
  | candidates (membership seqNo : Nat) (stitches arrivals : List Nat)
  | placement (membership seqNo : Nat) (coll : BitVec 16) (outcome : Option Placing) (status : Status)
  | groupBlock (block : GroupBlock)
  | groupRefused (node group : Nat)
  | stitchLength (stitch code : Nat)
  | mirror (m : Mirror)
  | mirrorAck
  | load (op : LoadOp)
  | loaded (handle : Nat)
  | ready (handle : Nat)
  | chunkAgain (slot index : Nat)
  | switch (name handle stitch : Nat)
  | retire (handle : Nat)
  | wrappedKey (node handle kind : Nat)
  | latency (node : Nat) (us : Option Nat)
deriving DecidableEq, Repr

/-- What a signed document of the ME carries (R426 to R429); keys and hashes of keys that the security engine alone holds are
left out. -/
inductive SignedDoc where
  | device (serial : BitVec 64) (part : BitVec 16)
  | boot (bootId : BitVec 128) (measure : BitVec 256) (svn : Nat) (slotB : Bool) (leaf : Nat)
  | session (bootId : BitVec 128) (number major ek : Nat)
  | quote (nonce : List Byte) (bootId : BitVec 128) (measure : BitVec 256) (stitch : BitVec 48) (node : Nat) (role : Role) (rosterGen : Nat)
      (ek : Option Nat)
deriving DecidableEq, Repr

/-- What a message on channels 2 and up carries, sealed under a job key (R278): the reduction engine's part of a block (R286, R294,
R311), a store to a span mapping (R342), a base chunk as received (R334). -/
inductive SeamMsg where
  | reduce (group index : Nat) (b : RedBlock)
  | spanStore (dva : Nat) (data : List Byte) (tag : BitVec 16)
  | chunk (slot index : Nat)
deriving DecidableEq, Repr

/-- What leaves the module, in order (log entry 5). A sealed payload names the tenant and tweak it is sealed
under. A record's bytes are those of CompRec.bytes and EventRec.bytes. -/
inductive Output where
  | readData (value : BitVec 64)
  | hostWrite (pasid addr : Nat) (data : List Byte) (sealed : Option (Nat × BitVec 128))
  /-- a read request without a copy kept (R356): PASID and address -/
  | readCurr (pasid addr : Nat)
  /-- one request of a commit to one 64-byte line (R356): all of it (ItoMWr), or the bytes from `addr` on (WOWrInv, whose byte
  enables are theirs) -/
  | lineWrite (whole : Bool) (pasid addr : Nat) (data : List Byte) (sealed : Option (Nat × BitVec 128))
  | compRec (pasid addr : Nat) (phase : Bool) (r : CompRec)
  | eventRec (pasid addr : Nat) (phase : Bool) (r : EventRec)
  | msix (vector : Nat)
  | snoopResp (r : SnoopResp)
  | readShared (line : Nat)
  | cleanEvict (line : Nat)
  | atsRequest (pasid page : Nat)
  | pageRequest (pasid page : Nat) (write : Bool)
  | invalidationDone (pasid page : Nat)
  | tickWord (kind : Nat) (word : BitVec 56)
  | channel0 (m : Msg0)
  /-- DATA flits that leave a port in order: the first one's header word, and how many (R265) -/
  | flits (port : Nat) (header : BitVec 32) (count : Nat)
  | flitIdle (port : Nat) (header : BitVec 32)
  /-- a LINK flit: the credits that it returns, by channel, and whether it is a negative acknowledgement (R265, R266, R276) -/
  | flitLink (port : Nat) (header : BitVec 32) (credits : List (Nat × Nat)) (nak : Bool)
  | flitReplay (port : Nat) (first : BitVec 12)
  /-- a segment whose last flit has left: its header and nonce (R278) -/
  | segment (port : Nat) (header : List Byte) (nonce : Nat)
  /-- a message of this module with the segments that carry it (R278), handed to a port -/
  | seam (port : Nat) (segs : List Segment) (m : SeamMsg)
  /-- chunks that a seed reads from its host through the ingest window (R334, R335): PASID, address, bytes -/
  | ingestRead (pasid addr len : Nat)
  | sealedImage (pasid addr : Nat) (tenant : Nat) (imageId : BitVec 128) (plain : List Byte)
  | i3cInterrupt (code : Nat)
  | i3cData (bytes : List Byte)
  | mgmtReply (accepted : Bool) (data : List Byte)
  | signed (doc : SignedDoc) (signature : List Byte)
  | netReply (f : NetFrame)
  | refetch (slot page peer : Nat)
deriving DecidableEq, Repr

/-- Why the regulators tripped (R505). -/
inductive TripCause where
  | overcurrent
  | overvoltage
  | thermal
deriving DecidableEq, Repr

/-- The input stage (R507 phase 1). -/
inductive PowerStage where
  | off
  | charging
  | on
deriving DecidableEq, Repr

/-- States of a removal request (R517). -/
inductive Removal where
  | idle
  | window
  | preparing
  | safe
deriving DecidableEq, Repr

/-- Pins, straps, input and front panel (chapter 19). -/
structure Board where
  modEn : Bool := true
  perst : Bool := true
  mrst : Bool := false
  pinMgrEn : Bool := false
  pinDomainSel : BitVec 4 := 0
  pinBootSlot : Bool := false
  mgrEn : Bool := false
  domainSel : BitVec 4 := 0
  bootSlot : Bool := false
  stage : PowerStage := .on
  pwrgd : Bool := true
  vinMv : Nat := 36000
  inputMw : Nat := 0
  trip : Option TripCause := none
  lampTest : Bool := false
  classTwoBlink : Bool := false
  identify : Nat := 0
  removal : Removal := .idle
  leaveAcked : Bool := false
  sgmii : Bool := false
deriving DecidableEq, Repr

/-- The holder of the firmware writer lock (R424). -/
inductive Writer where
  | host
  | me
deriving DecidableEq, Repr

/-- A log record (R486). -/
structure LogRec where
  seq : Nat
  stitch : Nat
  cls : Nat
  source : Nat
  loc : Nat
  sleeve : Nat
  status : Status
  k : Nat
  addr : BitVec 64
  info : BitVec 64
deriving DecidableEq, Repr

/-- What survives a module reset: flash, fuses and the regulator latch's neighbours (R422 to R428, R486, R509, R515). -/
structure Store where
  part : BitVec 16 := 0x1536
  serial : BitVec 64 := 0
  imageA : Mem := []
  imageB : Mem := []
  /-- none: blank; some false: slot A; some true: slot B -/
  activation : Option Bool := none
  svnMin : Nat := 0
  topLeaf : Nat := 0
  trained : Bool := false
  fatalRing : List LogRec := []
  profiles : Sparse (Option Profile) := []
  anchor : Option Nat := none
  mgmtSeq : Nat := 0
deriving DecidableEq, Repr

/-- STATE of DEV_STATE (R353). -/
inductive DevPhase where
  | boot
  | memTrain
  | seamTrain
  | tickWait
  | ready
  | failed
deriving DecidableEq, Repr

/-- The running firmware and the device state (R4, R7, R353, R423 to R428). -/
structure Dev where
  phase : DevPhase := .boot
  /-- the phase bring-up has reached while FAILED with cause 0x0B shows (R510) -/
  reached : DevPhase := .boot
  fail : BitVec 8 := 0
  teardown : Bool := false
  admitSuspended : Bool := false
  unravel : Bool := false
  linkDegraded : Bool := false
  fwSlot : Bool := false
  fw : Option FwBundle := none
  writerLock : Option Writer := none
  lowerLeaf : Nat := 1
  bootId : BitVec 128 := 0
  sessionNo : Nat := 0
  bootCert : Bool := false
deriving DecidableEq, Repr

/-- The admin session (R9, R430). -/
structure Session where
  major : Nat
  pasid : Nat
  number : Nat
  /-- the free-value number of the session's key pair -/
  ek : Nat
deriving DecidableEq, Repr

/-- A mailbox request that takes effect in a hem (R378). -/
inductive MbxReq where
  | createSleeve (bolts : BitVec 16) (memGib cxl seam power : Nat)
  | destroySleeve
  | resetSleeve
  | bindPasid (pasid : Nat)
  | unbindPasid (pasid : Nat)
  | createCq (cq vector pasid base slots head : Nat)
  | createSq (queue cq : Nat) (seq0 : BitVec 16) (pasid base slots : Nat)
  | deleteQueue (isCq : Bool) (number : Nat)
  | restartSq (queue : Nat) (seq0 : BitVec 16) (ci : Nat)
  | closeSession
deriving DecidableEq, Repr

/-- The admin mailbox (R379 to R382). -/
structure Mailbox where
  cmd : Mem := []
  resp : Mem := []
  busy : Bool := false
  done : Bool := false
  errBusy : Bool := false
  seq : BitVec 16 := 0
  status : Status := 0
  respLenM1 : BitVec 11 := 0
  irq : Bool := false
  irqDue : Bool := false
  sleeve : Nat := 255
  req : Option MbxReq := none
deriving DecidableEq, Repr

/-- The event queue registers (R397, R398). -/
structure EventQ where
  base : BitVec 64 := 0
  en : Bool := false
  size : BitVec 4 := 0
  mask : BitVec 16 := 0
  head : BitVec 16 := 0
  tail : BitVec 16 := 0
  lost : BitVec 16 := 0
  phase : Bool := true
  waiting : List EventRec := []
  /-- an EVENTS_LOST record is owed -/
  owed : Bool := false
deriving DecidableEq, Repr

/-- The snapshot control block and the latched windows (R489 to R497). -/
structure Snap where
  ctrl : BitVec 32 := 0
  latched : Bool := false
  snapId : BitVec 16 := 0
  source : BitVec 8 := 0
  stitch : BitVec 48 := 0
  missed : BitVec 32 := 0
  /-- BAR0 offset and 32-bit value of every latched register that is not 0 -/
  window : Sparse (BitVec 32) := []
  /-- armed instants: target stitch, cycle offset, SNAP_ID, source -/
  armed : List (Nat × Nat × BitVec 16 × Nat) := []
deriving DecidableEq, Repr

/-- One MSI-X table entry (R355); masked after reset, as PCIe sets. -/
structure MsixEntry where
  addr : BitVec 64 := 0
  data : BitVec 32 := 0
  masked : Bool := true
deriving DecidableEq, Repr

/-- An entry of the address translation cache (R251, R363): PASID, first 4 KiB page, pages, rights, host-physical page. -/
structure AtcEntry where
  pasid : Nat
  page : Nat
  size : Nat
  r : Bool
  w : Bool
  phys : Nat
deriving DecidableEq, Repr

/-- Where a host page that a command waits for stands (R251): its translation is requested, the host reported it absent, or
its page request is out. -/
inductive PageStage where
  | asked
  | absent
  | sent
deriving DecidableEq, Repr

/-- A host page that is waited for (R251, R364), with the run that waits (0: none waits) and, once its page request is out,
the request's group. -/
structure PageReq where
  group : Nat
  sleeve : Nat
  pasid : Nat
  page : Nat
  write : Bool
  run : Nat
  window : Nat := 0
  stage : PageStage := .sent
deriving DecidableEq, Repr

/-- A commit whose host writes are not all answered, or whose record waits (R360, R372, R392): `issued` says that its
writes are out and their GOs awaited, `answered` that each of those has come. -/
structure Commit where
  owner : Owner
  cq : Nat
  issued : Bool
  answered : Bool
  writes : List Output
  record : CompRec
  /-- the record once it is written and its own GO is awaited (R360) -/
  sent : Option Output := none
deriving DecidableEq, Repr

/-- Link states the model tells apart (R372, R374). -/
inductive Link where
  | l0
  | recovery
  | down
deriving DecidableEq, Repr

/-- The host interface on the I/O die (chapter 13). -/
structure HostIf where
  ioReady : Bool := false
  cache : Bool := false
  link : Link := .down
  width : Nat := 16
  rate : Nat := 32
  d3hot : Bool := false
  /-- the high words that low-word reads latched and no high-word read has returned yet: BAR, offset, word (R12) -/
  shadow : List (Nat × Nat × BitVec 32) := []
  /-- configuration words and component registers that the host wrote, by offset, where not at their reset value (R347, R355) -/
  cfg : Sparse (BitVec 32) := []
  comp : Sparse (BitVec 32) := []
  /-- addresses that the host assigned to BAR0, BAR2 and BAR4 (R349) -/
  bars : Sparse (BitVec 64) := []
  msixEnable : Bool := false
  msixMaskAll : Bool := false
  msixTable : Sparse MsixEntry := []
  msixPending : List Nat := []
  msixDue : List Nat := []
  atc : List AtcEntry := []
  pageReqs : List PageReq := []
  heldInv : List (Nat × Nat × Nat) := []
  /-- host lines kept in Shared: partition (sleeve) and host-physical line -/
  lineCache : List (Nat × Nat) := []
  commits : List Commit := []
deriving DecidableEq, Repr

/-- A submission queue (R368 to R370). `published` lists the slots that doorbells have made valid and the Reckoner has
not consumed; `ignored` counts the doorbells of a stopped queue; `retries` the failed reads of the next slot. -/
structure Sq where
  id : Nat
  cq : Nat
  pasid : Nat
  base : Nat
  size : Nat
  d : BitVec 16
  l : BitVec 16
  pi : Nat
  ci : Nat
  stopped : Bool := false
  ignored : Nat := 0
  retries : Nat := 0
  lastSeq : Option (BitVec 16) := none
deriving DecidableEq, Repr

/-- A completion queue (R391, R392). -/
structure Cq where
  id : Nat
  vector : Nat
  pasid : Nat
  base : Nat
  size : Nat
  headAddr : Nat
  head : Nat := 0
  tail : Nat := 0
  phase : Bool := true
  full : Bool := false
  /-- CQ_FULL was posted for this filling -/
  told : Bool := false
deriving DecidableEq, Repr

/-- An accepted descriptor, kept for predecessor references (R386): `status` none while admitted. -/
structure Accepted where
  queue : Nat
  slot : Nat
  seq : BitVec 16
  run : Nat
  status : Option Status
deriving DecidableEq, Repr

/-- A host window (R250). -/
structure Window where
  id : Nat
  pasid : Nat
  base : Nat
  len : Nat
  r : Bool
  w : Bool
deriving DecidableEq, Repr

/-- One mapped page: a leaf entry of R247 with the virtual page it serves (`code` 0 = 64 KiB, 1 = 2 MiB, 2 = 1 GiB) and,
for a span mapping (R342), the member node (0xFFFF for this module). -/
structure Leaf where
  dva : Nat
  code : Nat
  owner : Nat
  keygen : Nat
  addr : BitVec 25
  w : Bool
  node : Nat
  /-- cut from a larger leaf by page retirement (R249) -/
  split : Bool := false
  /-- the page size code of its mapping (R246) -/
  mapped : Nat := 0
deriving DecidableEq, Repr

/-- The history of one tag (R183): newest first, at most 16 entries, none where the step's entry is empty. -/
structure TagHist where
  tag : Nat
  entries : List (Option Int)
deriving DecidableEq, Repr

/-- A cursor entry (R203). -/
structure Cursor where
  base : Nat := 0
  sbase : Nat := 0
  pitch : Nat := 0
  stride : List Int := [0, 0, 0, 0]
  rsel : List Nat := [0, 0, 0, 0]
  fmt : Nat := 0
  space : Nat := 0
  tagged : Bool := false
  scale : BitVec 8 := 0
  tag : Nat := 0
deriving DecidableEq, Repr

/-- A validated pattern image (R232, R233). -/
structure Pattern where
  handle : Nat
  nscalars : Nat
  minBolts : Nat
  maxBolts : Nat
  cursors : List Cursor
  words : List PWord
  bytes : Nat
deriving DecidableEq, Repr

/-- A price that an overrun raised (R45). -/
structure RaisedPrice where
  pattern : Nat
  cls : Bool
  scalars : List (BitVec 32)
  costs : List Nat
deriving DecidableEq, Repr

/-- Where a sleeve stands in a reset or destruction (R415). -/
inductive ResetStage where
  | none
  | drain
  | finish
deriving DecidableEq, Repr

/-- A sleeve (R401 to R414). -/
structure Sleeve where
  id : Nat
  bolts : BitVec 16
  memGib : Nat
  cxl : Nat
  seam : Nat
  power : Nat
  born : Nat
  keygen : Nat
  pasids : List Nat := []
  sqs : List Sq := []
  cqs : List Cq := []
  windows : List Window := []
  /-- windows that commits of the present hem removed or replaced (R250) -/
  swapped : List Nat := []
  leaves : List Leaf := []
  mem : Mem := []
  tags : Sparse (BitVec 16) := []
  poison : List Nat := []
  recTrain : List (BitVec 64) := []
  recServe : List (BitVec 64) := []
  hist : List TagHist := []
  patterns : List Pattern := []
  accepted : List Accepted := []
  raised : List RaisedPrice := []
  /-- E1 error memory of OP 1 posts (R312, R404): group, tag, bytes -/
  e1Posts : List (Nat × Nat × Nat) := []
  latTol : BitVec 24 := 3
  headers : Nat := 0
  stage : ResetStage := .none
  destroying : Bool := false
deriving DecidableEq, Repr

/-- A registered tenant (R108). -/
structure Tenant where
  num : Nat
  sleeve : Nat
  key : Nat
  keygen : Nat
deriving DecidableEq, Repr

/-- A key handle (R431). -/
structure KeyRec where
  handle : Nat
  kind : Nat
  sleeve : Nat
  material : BitVec 256
deriving DecidableEq, Repr

/-- A registered patch with its region (R109, R114, R118, R134, R167, R171). Elements are numbered through the target
layers in list order, A then B, then the darned layers; each map holds one state of R171 by element. -/
structure Patch where
  handle : Nat
  tenant : Nat
  sleeve : Nat
  base : Nat
  rank : Nat
  scale : Num
  layers : List Nat
  darns : List Darn
  train : Bool
  lost : Bool := false
  version : Nat := 0
  adds : Nat := 0
  bytes : Nat := 0
  /-- the committed factors, darned layers, masters and moments as the plaintext of R441 -/
  plain : List Byte := []
  copy : Sparse Num := []
  face : Sparse (BitVec 16) := []
  lining : Sparse (BitVec 16) := []
  mom1 : Sparse Num := []
  mom2 : Sparse Num := []
  hasMom2 : Bool := false
  accFace : Sparse (BitVec 16) := []
  accLining : Sparse (BitVec 16) := []
  grad : Sparse Num := []
  hist : List TagHist := []
deriving DecidableEq, Repr

/-- Statistics of one tag of one command (R190 to R195). -/
structure StatRec where
  tag : Nat
  kind : Nat
  cls : Bool
  fmt : Nat
  rot : Nat := 0
  scale : BitVec 8 := 0
  channels : Nat := 0
  elements : Nat := 0
  zeros : Nat := 0
  saturated : Nat := 0
  nonfinite : Nat := 0
  amax : Num := .fin false 0 0
  /-- largest finite magnitude over all rows, for the history entry (R183) -/
  top : Num := .fin false 0 0
  chmax : Sparse Num := []
  histBase : Option Int := none
  histo : Sparse Nat := []
  tenantRows : Bool := false
  patchOwned : Bool := false
  fixedByTenant : Bool := false
  coveredAny : Bool := false
  satLog : Nat := 0
deriving DecidableEq, Repr

/-- One row of a stack frame: SELVAGE, tokens, whether it is stored raw (bit [31] of LINES), payload bytes (R152, R157). -/
structure FrameRow where
  selvage : BitVec 16
  len : Nat
  raw : Bool
  payload : List Byte
deriving DecidableEq, Repr

/-- A stack frame (R151). -/
structure Frame where
  tag : BitVec 16
  codec : Nat
  srcFmt : Nat
  fmt : Nat
  width : Nat
  tokens : Nat
  scale : BitVec 8
  rows : List FrameRow
  /-- PREV_LINES: lines from the previous frame's start to this frame's -/
  prev : Nat := 0
  lost : Bool := false
deriving DecidableEq, Repr

/-- A stack lane (R144, R145): region size in bytes, its frames, top first, and the top pointer (where the top frame starts)
and the end pointer (where the next PUSH writes) as lines from the region's start. -/
structure Lane where
  size : Nat := 0
  frames : List Frame := []
  top : Nat := 0
  stop : Nat := 0
deriving DecidableEq, Repr

/-- A basted device-memory line (R243): virtual line number, 128 bytes, line tag. -/
structure DevLine where
  line : Nat
  bytes : List Byte
  tag : BitVec 16
  /-- the command wrote all 128 bytes (R249) -/
  whole : Bool
deriving DecidableEq, Repr

/-- A basted host-window line (R254). -/
structure HostLine where
  window : Nat
  off : Nat
  bytes : List Byte
  tag : BitVec 16
deriving DecidableEq, Repr

/-- The uncommitted effects of one command (R145, R183, R192, R243). -/
structure Basting where
  dev : List DevLine := []
  host : List HostLine := []
  /-- lane 4 * bolt + lane as the command leaves it -/
  lanes : List (Nat × Lane) := []
  stats : List StatRec := []
  /-- gradient-region elements: patch, element, value -/
  grads : List (Nat × Nat × Num) := []
  /-- largest magnitudes that a step hands off under a tag of a patch, for its history: patch, tag, magnitude (R183) -/
  tops : List (Nat × Nat × Num) := []
  /-- accumulator elements: patch, element, face, lining -/
  accs : List (Nat × Nat × BitVec 16 × BitVec 16) := []
  /-- error memory of a group: group, element, value -/
  errs : List (Nat × Nat × BitVec 16) := []
  /-- entries of the basting directories outside the sleeve's space: area and line of a lane's region or a patch's (R243) -/
  region : List (Nat × Nat) := []
  /-- entries that lie in spill slots (R243) -/
  spilled : List (Nat × Nat) := []
deriving DecidableEq, Repr

/-- Where an admitted command stands. -/
inductive RunPhase where
  | waiting      -- page requests outstanding (R251)
  | candidate    -- a collective's candidates are reserved (R325)
  | placed
  | running
  | finished
deriving DecidableEq, Repr

/-- Why a command stops with nothing committed: status, DETAIL, bolt (0xFF none). -/
structure Stop where
  status : Status
  detail : BitVec 56
  bolt : Nat
deriving DecidableEq, Repr

/-- The group or span whose members a collective joins (R216): group g is g, span of channel v is 256 + v. -/
abbrev Membership := Nat

/-- An accepted queue command (R38 to R53). -/
structure Run where
  id : Nat
  hdr : QHdr
  body : QBody
  submit : Nat
  place : Nat
  phase : RunPhase
  base : Nat := 0
  costs : Sparse Nat := []
  hostBytes : Nat := 0
  preds : List Nat := []
  stop : Option Stop := none
  cuts : Nat := 0
  overrun : Bool := false
  overOn : List Nat := []
  lateCause : BitVec 8 := 0
  shifts : Nat := 0
  watch : BitVec 8 := 0
  measured : Sparse Nat := []
  largest : Nat := 0
  /-- the largest beads measured on each bolt over all its cut runs (R45) -/
  peak : Sparse Nat := []
  recipes : List (BitVec 64) := []
  patches : List Nat := []
  /-- patches whose accumulator or gradient region the command writes (R168) -/
  regions : List Nat := []
  /-- patches whose gradients the command produces under GRAD_MODE (R167, R168) -/
  grads : List Nat := []
  windows : List Nat := []
  readGran : List Nat := []
  writeGran : List Nat := []
  lanes : List Nat := []
  groups : List Nat := []
  priv : Sparse Nat := []
  ended : List Nat := []
  coll : Option Membership := none
  collSeq : Nat := 0
  collNo : Option (BitVec 16) := none
  candidates : List Nat := []
  /-- costs in each candidate stitch, in the candidates' order; both are kept until the edge after the placement (R325) -/
  candCosts : List (Sparse Nat) := []
  /-- priced arrival cycles at each BARRIER OP 1: this member's, and the latest that any member reported (R325, R326) -/
  ownArrivals : List Nat := []
  arrivals : List Nat := []
  /-- this module has arrived at the completion barrier (R307) -/
  arrived : Bool := false
  /-- this member found an arrival mismatch (R298) -/
  mismatch : Bool := false
  decision : Option Bool := none
  /-- its work of this stitch used a plan that a lost port ended (R281) -/
  replanned : Bool := false
  /-- placed again after a member's unravel (R328): the shift of the coming edge leaves it where it is -/
  again : Bool := false
  reruns : Nat := 0
  handle : Nat := 0
  /-- refresh fills that an UPDATE reserves in the stitch after its own, by bolt in beads (R130) -/
  refresh : Sparse Nat := []
  /-- some row map of the command held a row with PV = 1 (R184) -/
  tenantRows : Bool := false
  baste : Basting := {}
deriving DecidableEq, Repr

/-- What a sequencer is stalled at (R217, R224). -/
inductive Stall where
  | none
  | wait (mask : BitVec 8) (count : Nat) (clear : Bool)
  | drain
  | barrier (id : Nat) (mask : BitVec 16)
  | collective (id : Nat)
  | queueFull
deriving DecidableEq, Repr

/-- A primitive in a unit's queue: the word's address, its issue number on the bolt, and the flag its completion sets. -/
structure Prim where
  addr : Nat
  no : Nat
  setf : Option Nat
  /-- flags that the primitive's other words add to: its RAIL, its epilogue, the earlier words of its chain -/
  also : List Nat := []
deriving DecidableEq, Repr

/-- The rank latch (R119, R121): r_s values for each row, already scaled, and each row's scale byte; `tok` is the
first row's token in the row map. -/
structure RankLatch where
  rows : List (List Num)
  scales : List (BitVec 8)
  tok : Nat
deriving DecidableEq, Repr

/-- The last hand-off of a tag in this command on this bolt (R186, R204). -/
structure TagInfo where
  tag : Nat
  fmt : Nat
  scale : BitVec 8
  rot : Nat
  kind : Nat
deriving DecidableEq, Repr

/-- A held tally (R94); `k` contraction positions have been added into it. -/
structure Held where
  mask : Nat
  m : Nat
  n : Nat
  k : Nat
  out : Nat
  vals : List (List Num)
  /-- the line tags that went into each row so far (R191) -/
  drawn : List (List (BitVec 16))
deriving DecidableEq, Repr

/-- One activity state of a matrix unit (R95, R96): `level` in eighths of 8 rows per 8 cycles, 0 cold. -/
structure MatrixUnit where
  cold : Bool := true
  level : Nat := 0
  queue : List Prim := []
  keeper : Bool := false
  /-- local-store bytes that the last instruction queued on the unit writes -/
  outs : List (Nat × Nat) := []
  /-- the waiting instruction reads outputs of the one that runs (R93) -/
  dependent : Bool := false
  /-- the sequencer stalls the instruction that runs (R96) -/
  stalled : Bool := false
  /-- a stall has outlasted its 64 cycles of full keeper rows (R96) -/
  ramping : Bool := false
deriving DecidableEq, Repr

/-- A pocket (R126): part of a (patch, layer) factor pair at one version. -/
structure Pocket where
  patch : Nat := 0
  layer : Nat := 0
  part : Nat := 0
  version : Nat := 0
  valid : Bool := false
  pinned : Nat := 0
  lastClaim : Nat := 0
  /-- the stitch whose reservation fills the pocket, 0 for none -/
  fillFor : Nat := 0
  filling : Bool := false
deriving DecidableEq, Repr

/-- Gate state of a bolt (R472). -/
inductive Gate where
  | none
  | clock
  | power
deriving DecidableEq, Repr

/-- Units of a bolt other than the matrix units (R221). -/
structure Queues where
  rail : List Prim := []
  vector : List Prim := []
  rotation : List Prim := []
  streamer : List Prim := []
  stack : List Prim := []
  seam : List Prim := []
deriving DecidableEq, Repr

/-- A bolt: what its sequencer, units, clock and rail hold (R20, R200). Clocks are in 100 MHz units. -/
structure Bolt where
  lastOwner : Option Nat := none
  resident : List Nat := []
  run : Option Nat := none
  pattern : List PWord := []
  pc : Nat := 0
  issued : Nat := 0
  rods : Sparse Nat := []
  cursors : Sparse Cursor := []
  scalars : Sparse (BitVec 32) := []
  flags : Sparse Nat := []
  /-- open loops, innermost first: LOOP address, rod, END, count -/
  loops : List (Nat × Nat × Nat × Nat) := []
  stall : Stall := .none
  ended : Bool := false
  rail : Option PWord := none
  mem : Mem := []
  tags : Sparse (BitVec 16) := []
  /-- the store and its tags as the command found them: what a cut, kill or stop of it leaves (R89) -/
  found : Mem := []
  foundTags : Sparse (BitVec 16) := []
  tagInfo : List TagInfo := []
  privTags : List (Nat × Int) := []
  latch : Option RankLatch := none
  /-- patches whose rows RAIL-bearing instructions of the command ran on the bolt (R292) -/
  ran : List Nat := []
  /-- patch and SELVAGE of each row of the last RAIL-bearing instruction (log entry 23) -/
  sideRows : List (Option Nat × BitVec 16) := []
  /-- local-store bytes that a LOAD of the command took from its base image and nothing has written since: address, length,
  offset in the image (R135; log entry 23) -/
  baseRegs : List (Nat × Nat × Nat) := []
  held : List Held := []
  /-- tallies of stage 1 while a chain joined by CONT runs (R123): array mask and rows -/
  railAcc : List (Nat × List (List Num)) := []
  /-- the running tally of a VECTOR chain between its words (R79, R210) -/
  chain : Option (List (List Num)) := none
  /-- the line tags that went into each row of the chain's value (R191, R205) -/
  chainTags : List (List (BitVec 16)) := []
  /-- flags that the chain's words so far add to when the primitive completes (R206) -/
  chainFlags : List Nat := []
  mu : Sparse MatrixUnit := []
  q : Queues := {}
  lanes : Sparse Lane := []
  pockets : Sparse Pocket := []
  meter : Nat := 0
  stretch : Nat := 0
  droops : Nat := 0
  stretching : Bool := false
  bubbleCycles : Nat := 0
  excessMem : Nat := 0
  excessHost : Nat := 0
  excessSeam : Nat := 0
  measured : Nat := 0
  clock : Nat := 8
  staged : Nat := 8
  deferred : Bool := false
  bubble16 : Nat := 0
  gate : Gate := .none
  exitDone : Option Nat := none
  roundKey : BitVec 64 := 0
  draws : Sparse Nat := []
  xlate : List Nat := []
  supplyCut : Bool := false
  /-- beads reserved on the bolt in the present stitch, as its hem found them (R418) -/
  reserved : Nat := 0
deriving DecidableEq, Repr

/-- A memory-side die's counters (R495). -/
structure MemDie where
  corrected : Nat := 0
  uncorrected : Nat := 0
deriving DecidableEq, Repr

/-- The memory-side dies together (R242 to R249). An area is a sleeve's space, a sleeve's tables, a base slot, a patch's region
or a lane's (log entry 96). -/
structure MemSide where
  dies : Sparse MemDie := []
  /-- committed lines not yet settled: area, line -/
  unsettled : List (Nat × Nat) := []
  /-- those of them that lie in spill slots (R243) -/
  spilled : List (Nat × Nat) := []
  /-- corrections: area, 64 KiB page, when in microseconds (R249) -/
  pageCorr : List (Nat × Nat × Nat) := []
  /-- pages with an uncorrectable line that are not retired yet: area, page -/
  pageBad : List (Nat × Nat) := []
  /-- pages copied to a spare page whose entry is switched in this stitch's hem: area, page, device page -/
  retiring : List (Nat × Nat × BitVec 25) := []
  /-- pages outside the sleeves' spaces that a spare page replaced: area, page, device page -/
  moved : List (Nat × Nat × BitVec 25) := []
  spares : Nat := 16384
  sparesReported : Bool := false
  /-- bad table lines: sleeve, level, range (R528) -/
  badTables : List (Nat × Nat × Nat) := []
  keygens : Sparse Nat := []
deriving DecidableEq, Repr

/-- STATE of a Seam port (R271). -/
inductive PortState where
  | disabled
  | down
  | training
  | fenced
  | standby
  | up
deriving DecidableEq, Repr

/-- A Seam port (R262 to R284). -/
structure Port where
  state : PortState := .down
  signal : Bool := false
  widthCode : Nat := 2
  rateCode : Nat := 2
  fecH : Bool := false
  upper : Bool := false
  pair : Nat := 0
  badLanes : BitVec 8 := 0
  peerNode : Nat := 0xFFFF
  peerPort : Nat := 0xFF
  /-- the identity that the peer's chain attests (R268, R270) -/
  peerIdentity : Nat := 0
  tickRtt : Nat := 0
  tickErrors : BitVec 32 := 0
  corrected : BitVec 64 := 0
  uncorrected : BitVec 64 := 0
  crcFail : BitVec 32 := 0
  replays : BitVec 32 := 0
  authFail : BitVec 32 := 0
  losEvents : BitVec 32 := 0
  trainings : BitVec 32 := 0
  upSince : BitVec 48 := 0
  expect : BitVec 12 := 0
  sent : BitVec 12 := 0
  acked : BitVec 12 := 0
  replayFails : Nat := 0
  credits : Sparse Nat := []
  rxUsed : Sparse Nat := []
  quotas : Sparse Nat := []
  /-- segments on their way out with the flits of each that wait for credits or replay room, oldest first (R266, R276) -/
  queue : List (Segment × Nat) := []
  /-- flits of the present windows of 1,024 and 4,096 flits, those of channels 0 and 1 in the first, and those of each channel in
  the second (R274, R275) -/
  ctlWindow : Nat := 0
  ctlSent : Nat := 0
  window : Nat := 0
  served : Sparse Nat := []
  phaseErr : Int := 0
deriving DecidableEq, Repr

/-- The receive window of one (KEY_ID, SRC_NODE, VC) (R279): the highest counter accepted and those accepted within
the window. -/
structure SegWindow where
  keyId : Nat
  src : Nat
  vc : Nat
  high : Nat
  seen : List Nat
deriving DecidableEq, Repr

/-- Passes of a post (R294, R299, R303). -/
inductive Pass where
  | exponent
  | data
  | escalation
  | done
deriving DecidableEq, Repr

/-- A port in an UP state at the edge of a stitch, as pricing uses it in the stitch (R271, R277): payload in bytes a microsecond,
tick round trip, quotas. -/
structure EdgePort where
  port : Nat
  payload : Nat
  rtt : Nat
  quotas : Sparse Nat
deriving DecidableEq, Repr

/-- A posted reduction (R291 to R303): `no` numbers the run's posts to the group, `prim` is the posting primitive's issue
number. `vals` holds the member's values by block; `kept` its packed contribution at ESC 0; `emax` and `work` the exponent and
the block being combined, with `added` arrivals added, `total` when it is final; `e1` the E1 contributions by (block, rank,
signs, SCALE). -/
structure Post where
  run : Nat
  bolt : Nat
  group : Nat
  no : Nat
  prim : Nat
  gradient : Bool
  /-- (patch, first element, elements) in posting order; for OP 1 the tensor as one part of patch 0 -/
  parts : List (Nat × Nat × Nat)
  cursor : Nat
  /-- OP 1: where the tensor lay when the post was made (R293) -/
  source : Nat
  shape : List ShapeEntry
  /-- ranks whose shape lists have come -/
  shapes : List Nat
  /-- the manager's schedule: true for trees (R301) -/
  tree : Bool
  tag : Nat
  blocks : Nat
  vals : List (List Num)
  emax : List (Int × Bool)
  kept : List (List Int)
  work : List Bsr16
  added : List Nat
  total : List Bool
  e1 : List (Nat × Nat × List Bool × BitVec 16)
  pass : Pass
deriving DecidableEq, Repr

/-- A reduction group (R290, R312). -/
structure Group where
  sleeve : Nat
  block : GroupBlock
  ready : Bool
  removed : Bool
  err : Sparse (BitVec 16)
  /-- blocks whose ESC the manager recorded for a re-run (R305) -/
  escs : Sparse Nat
deriving DecidableEq, Repr

/-- Tick state of R331. -/
inductive Tick where
  | unlocked
  | locked
  | holdover
  | adrift
deriving DecidableEq, Repr

/-- The module's place in its domain and, on a manager, the manager's state (R315 to R331). -/
structure Domain where
  node : Nat := 0xFFFF
  role : Role := .worker
  standalone : Bool := false
  manager : Nat := 0xFFFF
  standby : Nat := 0xFFFF
  managerIdentity : Nat := 0
  epoch : BitVec 2 := 0
  tick : Tick := .unlocked
  missedEdges : Nat := 0
  parent : Option Nat := none
  edgeErr : Int := 0
  rosterGen : Nat := 0
  roster : List RosterEntry := []
  announced : Option (Nat × Nat) := none
  shifts : Nat := 0
  takeovers : Nat := 0
  lastShift : Nat := 0
  requirement : Option Nat := none
  resync : Bool := false
  /-- collectives that the module has submitted for each membership, and the (membership, sequence number) pairs that the manager
  refused before this member submitted them (R324, R325) -/
  collSeq : Sparse Nat := []
  usedUp : List (Nat × Nat) := []
  /-- next COUNTER by (KEY_ID, channel), and the next MSG_ID, of the segments that this module sends (R278) -/
  counters : List (Nat × Nat × Nat) := []
  nextMsg : BitVec 32 := 0
  -- manager
  domainKey : Bool := false
  colls : List MgrColl := []
  nextColl : BitVec 16 := 0
  /-- collective numbers given, with their stitches (R324) -/
  numbers : List (BitVec 16 × Nat) := []
  /-- collectives that a lost port ended: they are listed anew for the next stitch on (R281) -/
  soon : List (Membership × Nat) := []
  /-- base images of the domain as the manager keeps them (R335, R336, R341) -/
  holdings : List Holding := []
  barriers : List (BitVec 16 × Nat × Nat) := []
  presented : List (Nat × GroupBlock) := []
  /-- shifts that an edge from a stitch on carries (R328, R330): stitch and K -/
  shiftDue : List (Nat × Nat) := []
  mirrored : Option Mirror := none
  /-- the stitch whose hem's mirror the standby has acknowledged (R329) -/
  mirrorAcked : Option Nat := none
  loadReports : List (Nat × Nat) := []
  /-- nodes under a latency requirement of this manager (R474) -/
  required : List Nat := []
  roleMove : Option Nat := none
  /-- number of the plan of trees, routes and schedules in force (R317), and the stitch whose edge brings a new one (R281) -/
  plan : Nat := 0
  planDue : Option Nat := none
  /-- nodes that reported an unravel, with the stitch in which their bolts resume (R327, R328) -/
  unravelling : List (Nat × Nat) := []
  /-- collectives that a hem aborted: membership, sequence number, stitch (R328) -/
  aborted : List (Membership × Nat × Nat) := []
  /-- what this module's commands sent over the Seam in the present stitch: run, message (R28) -/
  sent : List (Nat × Output) := []
  /-- messages released in a hem, and base chunks forwarded, that are not known to be acknowledged end to end (R282) -/
  released : List Output := []
  /-- those that a lost port carried: they go out again under the next plan (R282) -/
  resend : List Output := []
deriving DecidableEq, Repr

/-- SLOT_STATE (R331). -/
inductive SlotState where
  | free
  | loading
  | ready
  | retiring
deriving DecidableEq, Repr

/-- A base slot (R332 to R340, R482). -/
structure Slot where
  handle : Nat := 0
  state : SlotState := .free
  imageId : Nat := 0
  keyId : Nat := 0
  span : Nat := 1
  spanChannel : Nat := 0
  member : Nat := 0
  /-- the job key of the load operation, and the seeds of its distribution trees (R335, R433) -/
  jobKey : Nat := 0
  seeds : List Nat := []
  /-- the nodes of the span in member order (R340) -/
  spanMembers : List Nat := []
  /-- this module was removed from the span (R308, R322) -/
  spanGone : Bool := false
  plainBytes : Nat := 0
  layers : List LayerEntry := []
  mem : Mem := []
  got : List Nat := []
  failedOnce : List Nat := []
  /-- 64 KiB pages being fetched from a peer, and pages lost for want of one (R339, R482) -/
  refetch : List Nat := []
  lost : List Nat := []
  keygen : Nat := 0
deriving DecidableEq, Repr

/-- Base slots, aliases and the ingest window (R334 to R338). -/
structure Bases where
  slots : Sparse Slot := []
  aliasMap : Sparse Nat := []
  pendingSwitch : List (Nat × Nat × Nat) := []
  pendingRetire : List Nat := []
  ingest : Option (Nat × Nat × Nat) := none
  usedHandles : List Nat := []
deriving DecidableEq, Repr

/-- The part of a power record that one sleeve has (R471). -/
structure SleevePower where
  sleeve : Nat
  overShare : Bool
  fallback : Bool
  powerW : Nat
  energyUj : Nat
  bubbleCycles : Nat
  stretchCycles : Nat
deriving DecidableEq, Repr

/-- A power record of one stitch (R471). -/
structure PowerRec where
  stitch : Nat
  state : BitVec 8
  floor : Nat
  capW : Nat
  inputW : Nat
  peakW : Nat
  mean1s : Nat
  vinMin : Nat
  peakUsed : Nat
  classW : List Nat
  clocks : List Nat
  bubbles : List Nat
  temps : List Nat
  spread : Nat
  droops : Nat
  stretchMax : Nat
  sleeves : List SleevePower
deriving DecidableEq, Repr

/-- A slowdown record of one bolt and stitch (R418). -/
structure SlowRec where
  stitch : Nat
  bolt : Nat
  sleeve : Nat
  measured : Nat
  isolated : Nat
  beads : Nat
  mem : Nat
  host : Nat
  seam : Nat
deriving DecidableEq, Repr

/-- Power states of the module (R472). -/
inductive PState where
  | active
  | lull
  | doze
  | rest
deriving DecidableEq, Repr

/-- The power manager (chapter 17). Temperatures in degrees C by sensor number of R529. -/
structure Power where
  capW : Nat := 1200
  capNext : Option (Nat × List Nat) := none
  /-- class order, 0 links, 1 memory, 2 compute; the last is cut first -/
  order : List Nat := [0, 1, 2]
  rails : List Nat := [600, 600, 600, 600]
  railLift : Bool := false
  temps : Sparse Nat := []
  throttled : List Nat := []
  emergencies : List Nat := []
  spreadHold : List Nat := []
  spreadEmergency : List Nat := []
  linksCut : Bool := false
  memoryCut : Bool := false
  refreshDouble : List Nat := []
  /-- classes that the cap cuts, 0 links, 1 memory, 2 compute (R458) -/
  capCut : List Nat := []
  /-- a supply warning ended in this stitch: its hem fires the trigger (R465) -/
  supplyEnded : Bool := false
  supplyHold : Bool := false
  holdLow : Nat := 0
  resumeAtEdge : Bool := false
  underRange : Bool := false
  /-- bays whose ports an optical emergency took down and that are not below 70 degrees again (R467) -/
  hotBays : List Nat := []
  peakLock : Bool := false
  /-- 1 us samples of the last 200 ms, newest first, in runs of (above 1,320 W, how many) (R460) -/
  window : List (Bool × Nat) := []
  samples : Nat := 0
  sumMw : Nat := 0
  peakMw : Nat := 0
  vinMin : Nat := 0
  classW : List Nat := [0, 0, 0, 0]
  pstate : PState := .active
  restExit : Option Nat := none
  records : List PowerRec := []
  slow : List SlowRec := []
  /-- (sum of samples in mW, samples) of the stitches of the last second, newest first (R460, R471) -/
  lastSecond : List (Nat × Nat) := []
deriving DecidableEq, Repr

/-- The error log and its counters (R485), and the unravel in progress (R480). -/
structure Rel where
  log : List LogRec := []
  total : Nat := 0
  corrected : Nat := 0
  uncorr : Nat := 0
  unravels : Nat := 0
  refetched : Nat := 0
  retired : Nat := 0
  integrity : Nat := 0
  patchesLost : Nat := 0
  framesLost : Nat := 0
  entropy : Nat := 0
  /-- K and the stitch at whose edge the bolts resume -/
  unravel : Option (Nat × Nat) := none
  /-- stitches of the manager's SHIFTs to come that stand for this module's own unravel (R328) -/
  ownShift : Nat := 0
deriving DecidableEq, Repr

/-- Owner keys and the entropy source (R420, R431, R434). -/
structure Sec where
  keys : List KeyRec := []
  entropyFailing : Bool := false
  reseeds : Nat := 0
deriving DecidableEq, Repr

/-- A point of the commit log (R47, R241): what the device-side commits of a hem change, as it stood before the command of
number `run` committed. -/
structure LogPoint where
  run : Nat
  runs : List Run
  sleeves : List Sleeve
  tenants : List Tenant
  patches : List Patch
  groups : List Group
  /-- lanes and pockets of each bolt -/
  bolts : List (Nat × Sparse Lane × Sparse Pocket)
  unsettled : List (Nat × Nat)
  spilled : List (Nat × Nat)
  keys : List KeyRec
  lenNext : Option Nat
  floorNext : Option Nat
  armed : List (Nat × Nat × BitVec 16 × Nat)
  ingest : Option (Nat × Nat × Nat)
deriving DecidableEq, Repr

/-- Stitch time (R23 to R33). -/
structure Time where
  stitch : BitVec 48 := 0
  /-- microseconds of the stitches that have ended since reset -/
  us : Nat := 0
  /-- 0 = 32, 1 = 64, 2 = 128, 3 = 256 us -/
  len : Nat := 1
  lenNext : Option Nat := none
  hem : Bool := false
  /-- f_floor in 100 MHz units -/
  floor : Nat := 12
  floorNext : Option Nat := none
  /-- picoseconds by which the working part is longer or shorter for a phase correction, out of the droop slack (R321) -/
  correction : Int := 0
  headers : Nat := 0
  placed : Nat := 0
  commitsDone : Nat := 0
  /-- supply or thermal emergency work was cut for in this stitch: LATE_CAUSE bits -/
  emergency : BitVec 8 := 0
  /-- the commit log of the present hem, in the order of its commits (R47) -/
  log : List LogPoint := []
deriving DecidableEq, Repr

/-- The machine. -/
structure State where
  pending : List Instr := []
  out : List Output := []
  freeCtr : Nat := 0
  board : Board := {}
  store : Store := {}
  dev : Dev := {}
  hif : HostIf := {}
  mbx : Mailbox := {}
  evq : EventQ := {}
  snap : Snap := {}
  session : Option Session := none
  admSqs : List Sq := []
  admCqs : List Cq := []
  admAccepted : List Accepted := []
  admHeaders : Nat := 0
  sleeves : List Sleeve := []
  time : Time := {}
  runs : List Run := []
  nextRun : Nat := 1
  tenants : List Tenant := []
  patches : List Patch := []
  bolts : Sparse Bolt := []
  memSide : MemSide := {}
  ports : Sparse Port := []
  edgePorts : List EdgePort := []
  segWindows : List SegWindow := []
  groups : List Group := []
  posts : List Post := []
  domain : Domain := {}
  bases : Bases := {}
  power : Power := {}
  rel : Rel := {}
  sec : Sec := {}
deriving DecidableEq, Repr

/-- The machine right after a module reset with its rails up (R505 to R507): STATE reads BOOT, no session, nothing
resident. Every field stands at its default above. -/
def State.reset : State := {}

/-- Why the machine stops. -/
inductive Fault where
  /-- A pattern word forms a local-store address at or past 24 MiB, where R200 and R204 give the store no byte. Raised
  by the pattern-word meanings. Safe: firmware refuses such a trace before it runs (R231). -/
  | localStoreAddress (bolt addr : Nat)
deriving DecidableEq, Repr

/-- Why a command has no meaning. -/
inductive Refusal where
  /-- The command is not modelled; raised by exec's refused arms only. Safe. -/
  | notModelled (mnemonic : String)
deriving DecidableEq, Repr

end Sys2Proof.Machine
end

