-- ==== Sys2Proof/Machine/Numbers.lean ====
section
/-! DEFINITION. Numbers and formats (chapter 03): element encodings, the tally, rounding, hand-off of one element and of
one MX block, the two-ply add, the vector functions and the Hadamard transform. A number is exact until a rule rounds
it. -/
namespace Sys2Proof.Machine
open Sys2Proof

/-! ### Exact values -/

/-- +0. -/
def zero : Num := .fin false 0 0

/-- A zero of either sign. -/
def Num.isZero : Num → Bool
  | .fin _ 0 _ => true
  | _ => false

/-- Neither NaN nor infinite. -/
def Num.isFinite : Num → Bool
  | .fin _ _ _ => true
  | _ => false

/-- NaN. -/
def Num.isNan : Num → Bool
  | .nan => true
  | _ => false

/-- The sign; false for NaN. -/
def Num.isNeg : Num → Bool
  | .nan => false
  | .inf s => s
  | .fin s _ _ => s

/-- The same magnitude with sign `s`. -/
def Num.withSign (s : Bool) : Num → Num
  | .nan => .nan
  | .inf _ => .inf s
  | .fin _ m e => .fin s m e

/-- Negation; NaN stays NaN. -/
def Num.neg : Num → Num
  | .nan => .nan
  | .inf s => .inf (!s)
  | .fin s m e => .fin (!s) m e

/-- The magnitude. -/
def Num.abs (x : Num) : Num := x.withSign false

/-- floor(log2 |x|) of a finite non-zero `m * 2^e`. -/
def floorLog2 (m : Nat) (e : Int) : Int := (m.log2 : Int) + e

/-- floor(log2 |x|), none for a zero or a non-finite value. -/
def Num.log2? : Num → Option Int
  | .fin _ 0 _ => none
  | .fin _ m e => some (floorLog2 m e)
  | _ => none

/-- The value times 2^k, exactly. -/
def Num.scale (k : Int) : Num → Num
  | .fin s m e => .fin s m (e + k)
  | x => x

/-- The integer magnitude of `m * 2^e` in units of 2^q, for q at or below e. -/
def unitsAt (m : Nat) (e q : Int) : Nat := m <<< (e - q).toNat

/-- The signed integer of a finite value in units of 2^q, q at or below its exponent; 0 for others. -/
def Num.signedAt (q : Int) : Num → Int
  | .fin s m e => if s then -(unitsAt m e q : Int) else (unitsAt m e q : Int)
  | _ => 0

/-- A finite value from a signed integer in units of 2^q; an exact 0 is +0. -/
def ofSigned (n q : Int) : Num := .fin (decide (n < 0)) n.natAbs q

/-- The exact sum, with the special values of R67: opposite infinities give NaN, an exact zero is +0 unless both
addends are -0. -/
def Num.add : Num → Num → Num
  | .nan, _ => .nan
  | _, .nan => .nan
  | .inf a, .inf b => if a = b then .inf a else .nan
  | .inf a, .fin _ _ _ => .inf a
  | .fin _ _ _, .inf b => .inf b
  | .fin a ma ea, .fin b mb eb =>
    let q := min ea eb
    let n := (Num.fin a ma ea).signedAt q + (Num.fin b mb eb).signedAt q
    if n = 0 then .fin (a && b && decide (ma = 0) && decide (mb = 0)) 0 0 else ofSigned n q

/-- The exact product; zero times infinity gives NaN (R67). -/
def Num.mul : Num → Num → Num
  | .nan, _ => .nan
  | _, .nan => .nan
  | .inf a, .inf b => .inf (a != b)
  | .inf a, .fin b m _ => if m = 0 then .nan else .inf (a != b)
  | .fin a m _, .inf b => if m = 0 then .nan else .inf (a != b)
  | .fin a ma ea, .fin b mb eb => .fin (a != b) (ma * mb) (ea + eb)

/-- Whether |x| exceeds |y|, for finite values. -/
def magGt (m : Nat) (e : Int) (m' : Nat) (e' : Int) : Bool :=
  let q := min e e'
  decide (unitsAt m e q > unitsAt m' e' q)

/-- The order of two values that are not NaN; both zeros are equal. -/
def Num.lt : Num → Num → Bool
  | .nan, _ => false
  | _, .nan => false
  | .inf a, .inf b => a && !b
  | .inf a, .fin _ _ _ => a
  | .fin _ _ _, .inf b => !b
  | .fin a ma ea, .fin b mb eb =>
    let q := min ea eb
    decide ((Num.fin a ma ea).signedAt q < (Num.fin b mb eb).signedAt q)

/-- The larger magnitude among finite values; non-finite values are passed over. -/
def maxMag (a b : Num) : Num :=
  match a, b with
  | .fin _ ma ea, .fin _ mb eb => if magGt mb eb ma ea then .fin false mb eb else .fin false ma ea
  | .fin _ ma ea, _ => .fin false ma ea
  | _, .fin _ mb eb => .fin false mb eb
  | _, _ => zero

/-- The largest finite magnitude of a list; zero when there is none. -/
def amaxOf (l : List Num) : Num := l.foldl maxMag zero

/-! ### Rounding -/

/-- How a value is rounded: to nearest even (R71), or stochastically with the lane's draw u (R72). -/
inductive RoundMode where
  | nearest
  | stochastic (u : BitVec 16)
deriving DecidableEq, Repr

/-- `m * 2^e` rounded to a multiple of 2^q, as the multiple (R71, R72). -/
def roundTo (mode : RoundMode) (m : Nat) (e q : Int) : Nat :=
  if q ≤ e then unitsAt m e q
  else
    let d := (q - e).toNat
    let n := m >>> d
    let rest := m % 2 ^ d
    match mode with
    | .nearest =>
      let half := 2 ^ (d - 1)
      if rest > half ∨ (rest = half ∧ n % 2 = 1) then n + 1 else n
    | .stochastic u =>
      let top := if d ≤ 16 then rest <<< (16 - d) else rest >>> (d - 16)
      if top + u.toNat ≥ 65536 then n + 1 else n

/-- Rounding to the tally (R62): underflow judged before rounding, overflow after it. -/
def toTally : Num → Num
  | .fin s m e =>
    if m = 0 then .fin s 0 0
    else
      let l := floorLog2 m e
      if l < -126 then .fin s 0 0
      else
        let q := l - 15
        let n := roundTo .nearest m e q
        if floorLog2 n q ≥ 128 then .inf s else .fin s n q
  | x => x

/-- The sum of a list of tally values, rounded at each addition. -/
def tallyAdd (a b : Num) : Num := toTally (a.add b)

/-- A tally value as its 24 bits (R62); NaN as a positive pattern. -/
def tallyBits : Num → BitVec 24
  | .nan => 0x7FC000
  | .inf s => (if s then 0x800000 else 0) ||| 0x7F8000
  | .fin s m e =>
    let sign : Nat := if s then 2 ^ 23 else 0
    if m = 0 then BitVec.ofNat 24 sign
    else
      let l := floorLog2 m e
      let n := roundTo .nearest m e (l - 15)
      BitVec.ofNat 24 (sign + (l + 127).toNat * 2 ^ 15 + (n - 2 ^ 15))

/-! ### Stored formats (R54 to R57) -/

/-- Element width in bits of a format code (R54); two-ply counts as its face. -/
def fmtWidth : Nat → Nat
  | 0 => 16 | 1 => 16 | 2 => 8 | 3 => 8 | 4 => 8 | 5 => 8 | 6 => 6 | 7 => 6 | 8 => 4 | 9 => 8 | 10 => 16
  | _ => 0

/-- MX formats carry a block scale per 32 elements (R54). -/
def isMx (f : Nat) : Bool := decide (4 ≤ f ∧ f ≤ 8)

/-- Plain formats that carry a tensor scale (R60). -/
def isPlain (f : Nat) : Bool := decide (f ≤ 3 ∨ f = 9)

/-- Codes 0xB to 0xF are reserved (R54). -/
def fmtReserved (f : Nat) : Bool := decide (f > 10)

/-- Bits of the exponent and the mantissa, and the bias (R56). -/
structure Layout where
  eb : Nat
  mb : Nat
  bias : Int
deriving DecidableEq, Repr

/-- The layout of a floating-point element format (R56). -/
def layoutOf : Nat → Layout
  | 0 => ⟨8, 7, 127⟩
  | 1 => ⟨5, 10, 15⟩
  | 2 => ⟨4, 3, 7⟩
  | 3 => ⟨5, 2, 15⟩
  | 4 => ⟨4, 3, 7⟩
  | 5 => ⟨5, 2, 15⟩
  | 6 => ⟨3, 2, 3⟩
  | 7 => ⟨2, 3, 1⟩
  | 8 => ⟨2, 1, 1⟩
  | _ => ⟨8, 7, 127⟩

/-- emax of a format's scale rule (R69, R179). -/
def emaxOf : Nat → Int
  | 1 => 15 | 2 => 8 | 3 => 15 | 4 => 8 | 5 => 15 | 6 => 4 | 7 => 2 | 8 => 2 | 9 => 6
  | _ => 0

/-- The largest finite magnitude of a format (R57), as `m * 2^e`. -/
def maxFinite : Nat → Nat × Int
  | 0 => (255, 120)
  | 1 => (2047, 5)
  | 2 => (7, 6)
  | 3 => (7, 13)
  | 4 => (7, 6)
  | 5 => (7, 13)
  | 6 => (7, 2)
  | 7 => (15, -1)
  | 8 => (3, 1)
  | 9 => (127, 0)
  | _ => (255, 120)

/-- The value of an E8M0 byte's exponent (R58); none for 0xFF. -/
def scaleExp (b : Nat) : Option Int := if b % 256 = 255 then none else some (((b % 256 : Nat) : Int) - 127)

/-- The value an element's bits stand for, before its scale (R56, R57, R61). Two-ply reads its face as BF16 (R75). -/
def decodeBits (f : Nat) (bits : Nat) : Num :=
  if f = 9 then
    let n : Int := if bits % 256 ≥ 128 then ((bits % 256 : Nat) : Int) - 256 else ((bits % 256 : Nat) : Int)
    ofSigned n 0
  else
    let l := layoutOf f
    let man : Nat := bits % 2 ^ l.mb
    let exp : Nat := (bits / 2 ^ l.mb) % 2 ^ l.eb
    let neg := decide ((bits / 2 ^ (l.mb + l.eb)) % 2 = 1)
    let ieee := decide (f = 0 ∨ f = 1 ∨ f = 3 ∨ f = 5 ∨ f = 10)
    if ieee && decide (exp = 2 ^ l.eb - 1) then (if man = 0 then .inf neg else .nan)
    else if decide (f = 2 ∨ f = 4) && decide (exp = 15 ∧ man = 7) then .nan
    else if exp = 0 then
      (if f = 0 ∨ f = 10 then .fin neg 0 0 else .fin neg man (1 - l.bias - l.mb))
    else .fin neg (2 ^ l.mb + man) ((exp : Int) - l.bias - l.mb)

/-- A stored element under its scale byte (R58, R60, R61). A two-ply tensor carries no scale. -/
def readElem (f bits scaleByte : Nat) : Num :=
  if f = 10 then decodeBits f bits
  else
    match scaleExp scaleByte with
    | none => .nan
    | some x => (decodeBits f bits).scale x

/-- The class a handed-off element counts in (R70). -/
inductive ElemClass where
  | plain
  | zero
  | saturated
  | nonfinite
deriving DecidableEq, Repr

/-- Bits of a finite magnitude `n * 2^q` that the format represents. -/
def encodeFinite (f : Nat) (neg : Bool) (n : Nat) (q : Int) : Nat :=
  let l := layoutOf f
  let sign := if neg then 2 ^ (l.mb + l.eb) else 0
  if n = 0 then sign
  else
    let e := floorLog2 n q
    if e < 1 - l.bias then sign + unitsAt n q (1 - l.bias - l.mb)
    else sign + (e + l.bias).toNat * 2 ^ l.mb + (roundTo .nearest n q (e - l.mb) - 2 ^ l.mb)

/-- Hand-off of one value already multiplied by 2^(-X) (R68 steps 3 to 5, R70): the element's bits and its class. -/
def handOffElem (f : Nat) (mode : RoundMode) (v : Num) : Nat × ElemClass :=
  match v with
  | .nan =>
    ((match f with | 0 => 0x7FC0 | 1 => 0x7E00 | 2 => 0x7F | 3 => 0x7E | _ => 0), .nonfinite)
  | .inf s =>
    ((match f with
      | 0 => if s then 0xFF80 else 0x7F80
      | 1 => if s then 0xFC00 else 0x7C00
      | 2 => if s then 0xFF else 0x7F
      | 3 => if s then 0xFC else 0x7C
      | _ => 0), .nonfinite)
  | .fin s m e =>
    let mx := maxFinite f
    if magGt m e mx.1 mx.2 then
      ((if f = 9 then (if s then 0x81 else 0x7F) else encodeFinite f s mx.1 mx.2), .saturated)
    else if m = 0 then ((if f = 9 then 0 else encodeFinite f s 0 0), .zero)
    else if f = 9 then
      let n := roundTo mode m e 0
      ((if s then (256 - n) % 256 else n), if n = 0 then .zero else .plain)
    else
      let l := layoutOf f
      let ex := floorLog2 m e
      if f = 0 ∧ ex < -126 then (encodeFinite f s 0 0, .zero)
      else
        let q := if f = 0 then ex - 7 else max (ex - l.mb) (1 - l.bias - l.mb)
        let n := roundTo mode m e q
        (encodeFinite f s n q, if n = 0 then .zero else .plain)

/-- The exponent X clamped to -127 to 127, with whether it was clamped (R69, R182). -/
def clampExp (x : Int) : Int × Bool :=
  if x > 127 then (127, true) else if x < -127 then (-127, true) else (x, false)

/-- A scale byte for an exponent in range. -/
def scaleByte (x : Int) : Nat := (x + 127).toNat

/-- An MX block exponent (R69): the scale byte, and whether it was clamped. -/
def mxBlockScale (f : Nat) (margin : Int) (vals : List Num) : Nat × Bool :=
  if vals.any (fun v => !v.isFinite) then (255, false)
  else
    match (amaxOf vals).log2? with
    | none => (0, false)
    | some l =>
      let c := clampExp (l - emaxOf f + margin)
      (scaleByte c.1, c.2)

/-! ### Packing (R59): element j takes bits [w*j + w - 1 : w*j] of the row, little-endian -/

/-- The bytes of a row of element bits. -/
def packRow (f : Nat) (elems : List Nat) : List Byte :=
  let w := fmtWidth f
  let big := elems.foldr (fun x acc => acc * 2 ^ w + x % 2 ^ w) 0
  (List.range ((elems.length * w + 7) / 8)).map fun i => BitVec.ofNat 8 (big / 2 ^ (8 * i))

/-- A little-endian number from bytes (R11). -/
def leNat (l : List Byte) : Nat := l.foldr (fun b acc => acc * 256 + b.toNat) 0

/-- The low `n` bytes of a number, little-endian (R11). -/
def leBytes (n v : Nat) : List Byte := (List.range n).map fun i => BitVec.ofNat 8 (v / 2 ^ (8 * i))

/-- The element bits of a packed row of `n` elements. -/
def unpackRow (f n : Nat) (row : List Byte) : List Nat :=
  let w := fmtWidth f
  let big := leNat row
  (List.range n).map fun j => (big / 2 ^ (w * j)) % 2 ^ w

/-- Bytes of a packed row of `n` elements. -/
def rowBytes (f n : Nat) : Nat := (n * fmtWidth f + 7) / 8

/-! ### Matrix sums (R64, R67) -/

/-- The leading-bit position of the largest finite non-zero product of a group. -/
def leadOf (ps : List Num) : Option Int :=
  ps.foldl (fun acc p =>
    match acc, p.log2? with
    | some a, some b => some (max a b)
    | none, b => b
    | a, none => a) none

/-- A product with the bits more than 28 places below the leading position dropped, toward zero (R64 step 2). -/
def truncProduct (lead : Int) : Num → Num
  | .fin s m e => if lead - 28 ≤ e then .fin s m e else .fin s (m >>> (lead - 28 - e).toNat) (lead - 28)
  | x => x

/-- The sum of one group of products (R64 step 2), under R67's sign rule: the first product starts the sum. -/
def groupSum (ps : List Num) : Num :=
  let ts := match leadOf ps with
    | none => ps
    | some l => ps.map (fun p => if p.isZero then p else truncProduct l p)
  match ts with
  | [] => zero
  | t :: rest => rest.foldl Num.add t

/-- Groups of 32 consecutive positions. -/
def chunks (n : Nat) (fuel : Nat) (l : List Num) : List (List Num) :=
  match fuel with
  | 0 => []
  | k + 1 => if l.isEmpty then [] else l.take n :: chunks n k (l.drop n)

/-- A running tally: none before the first addition (R64 step 5). -/
def tallyStep (acc : Option Num) (x : Num) : Option Num :=
  match acc with
  | none => some (toTally x)
  | some a => some (tallyAdd a (toTally x))

/-- A tally element: products in groups of 32, added into `acc` (R64). -/
def contractProducts (acc : Option Num) (ps : List Num) : Option Num :=
  ((chunks 32 (ps.length + 1) ps).map groupSum).foldl tallyStep acc

/-- A tally element of two operands' contraction (R64). -/
def contract (acc : Option Num) (xs ws : List Num) : Option Num := contractProducts acc (List.zipWith Num.mul xs ws)

/-- The product of a streamed element and a held one; a zero-filled position gives a +0 product (R67, R105). -/
def fillMul : Option Num → Num → Num
  | none, _ => zero
  | some x, w => x.mul w

/-- A partial K pass filled with +0 products to its 128 positions (R67, R90, R91). -/
def fillPass (ps : List Num) : List Num := ps ++ List.replicate ((128 - ps.length % 128) % 128) zero

/-! ### Two-ply (R75 to R78) -/

/-- A binary32 value as R76 reads it: a zero exponent field is a zero of the sign. -/
def decodeB32 (w : Nat) : Num :=
  let neg := decide ((w / 2 ^ 31) % 2 = 1)
  let exp : Nat := (w / 2 ^ 23) % 256
  let man : Nat := w % 2 ^ 23
  if exp = 255 then (if man = 0 then .inf neg else .nan)
  else if exp = 0 then .fin neg 0 0
  else .fin neg (2 ^ 23 + man) ((exp : Int) - 150)

/-- The two-ply add of one element (R76, R78): the new face and lining, or none where they stay unchanged. -/
def twoPlyAdd (delta : Num) (face lining : BitVec 16) : Option (BitVec 16 × BitVec 16) :=
  let w := decodeB32 (face.toNat * 65536 + lining.toNat)
  if !delta.isFinite || !w.isFinite then none
  else
    match w.add delta with
    | .fin s m e =>
      let out (b : Nat) : BitVec 16 × BitVec 16 := (BitVec.ofNat 16 (b / 65536), BitVec.ofNat 16 b)
      let sign := if s then 2 ^ 31 else 0
      if m = 0 then some (out sign)
      else
        let l := floorLog2 m e
        if l < -126 then some (out sign)
        else
          let n := roundTo .nearest m e (l - 23)
          let l' := floorLog2 n (l - 23)
          if l' ≥ 128 then none
          else some (out (sign + (l' + 127).toNat * 2 ^ 23 + (roundTo .nearest n (l - 23) (l' - 23) - 2 ^ 23)))
    | _ => none

/-! ### Vector functions (R80) -/

/-- A finite value cut to 96 significant bits, toward zero: working precision of the approximations below. -/
def cut96 : Num → Num
  | .fin s m e => if m.log2 < 96 then .fin s m e else .fin s (m >>> (m.log2 - 95)) (e + (m.log2 - 95 : Nat))
  | x => x

/-- a / b to 96 bits, toward zero, for finite values and b not 0. -/
def divApprox (a b : Num) : Num :=
  match a, b with
  | .fin sa ma ea, .fin sb mb eb =>
    if mb = 0 then zero
    else
      let sh := 96 + mb.log2
      .fin (sa != sb) ((ma <<< sh) / mb) (ea - eb - sh)
  | _, _ => zero

/-- Whether a finite value is a tally value. -/
def inTally (x : Num) : Bool :=
  match x with
  | .fin _ m e => decide (m = 0) || (decide (floorLog2 m e ≥ -126) && decide (m % 2 ^ (m.log2 - 15) = 0) &&
      decide (floorLog2 m e < 128))
  | _ => true

/-- The integer square root, by `fuel` halvings of an interval. -/
def isqrt (fuel n lo hi : Nat) : Nat :=
  match fuel with
  | 0 => lo
  | k + 1 =>
    let mid := (lo + hi + 1) / 2
    if mid * mid ≤ n then isqrt k n mid hi else isqrt k n lo (mid - 1)

/-- The square root of a positive finite value to about 96 bits, toward zero, with whether it is exact. -/
def sqrtApprox (m : Nat) (e : Int) : Num × Bool :=
  let odd := decide (e % 2 ≠ 0)
  let m1 := if odd then 2 * m else m
  let e1 := if odd then e - 1 else e
  let n := m1 <<< 192
  let r := isqrt 400 n 0 (2 ^ (n.log2 / 2 + 1))
  (.fin false r ((e1 - 192) / 2), decide (r * r = n))

/-- ln 2 and log2 e, 128 fraction bits, toward zero. -/
def ln2 : Num := .fin false 0xB17217F7D1CF79ABC9E3B39803F2F6AF (-128)
def log2e : Num := .fin false 0x171547652B82FE1777D0FFDA0D23A7D11 (-128)

/-- Terms of the series of e^y for y in [0, 1): `sum` and `term` are integers in units of 2^-128. -/
def expSeries (fuel k y sum term : Nat) : Nat :=
  match fuel with
  | 0 => sum
  | f + 1 =>
    let t := term * y / 2 ^ 128 / k
    expSeries f (k + 1) y (sum + t) t

/-- 2^x to about 120 bits, for a finite x between -2^11 and 2^11. -/
def exp2Approx (x : Num) : Num :=
  match x with
  | .fin s m e =>
    let n : Nat := if e ≥ -128 then m <<< (e + 128).toNat else m >>> (-128 - e).toNat
    let sticky : Bool := decide (e < -128) && decide (m % (2 ^ (-128 - e).toNat : Nat) ≠ 0)
    let v : Int := if s then -(n : Int) - (if sticky then 1 else 0) else n
    let i := v.fdiv (2 ^ 128)
    let f := (v.fmod (2 ^ 128)).toNat
    let y := f * 0xB17217F7D1CF79ABC9E3B39803F2F6AF / 2 ^ 128
    .fin false (expSeries 40 1 y (2 ^ 128) (2 ^ 128)) (i - 128)
  | _ => zero

/-- Binary digits of log2 of y/2^127, y in [2^127, 2^128). -/
def log2Digits (fuel y acc : Nat) : Nat :=
  match fuel with
  | 0 => acc
  | f + 1 =>
    let q := y * y / 2 ^ 127
    if q ≥ 2 ^ 128 then log2Digits f (q / 2) (2 * acc + 1) else log2Digits f q (2 * acc)

/-- log2 of a positive finite value, 80 fraction bits. -/
def log2Approx (m : Nat) (e : Int) : Num :=
  let y := if m.log2 ≤ 127 then m <<< (127 - m.log2) else m >>> (m.log2 - 127)
  let frac := log2Digits 80 y 0
  ofSigned (floorLog2 m e * 2 ^ 80 + frac) (-80)

/-- e^x. -/
def expApprox (x : Num) : Num := exp2Approx (x.mul log2e)

/-- Terms of sum over n of 2^n z^(2n+1) / (2n+1)!!, in units of 2^-400; `z2` is z squared in those units. -/
def erfSeries (fuel n z2 sum term : Nat) : Nat :=
  match fuel with
  | 0 => sum
  | f + 1 =>
    let t := term * 2 * z2 / 2 ^ 400 / (2 * n + 3)
    erfSeries f (n + 1) z2 (sum + t) t

/-- e^(-y) for y in units of 2^-400, by the series of e^(y/1024) and repeated squaring of its reciprocal. -/
def expNeg400 (y : Nat) : Nat :=
  let r := (List.range 60).foldl (fun (st : Nat × Nat) k =>
    let t := st.2 * (y / 1024) / 2 ^ 400 / (k + 1)
    (st.1 + t, t)) (2 ^ 400, 2 ^ 400)
  (List.range 10).foldl (fun v _ => v * v / 2 ^ 400) (2 ^ 800 / r.1)

/-- 2/sqrt(pi) and 1/sqrt 2 in units of 2^-400, from integer square roots of rational approximations of pi. -/
def pi400 : Nat :=
  -- Machin: pi = 16 atan(1/5) - 4 atan(1/239)
  let atanInv (k : Nat) : Int := ((List.range 200).foldl (fun (st : Int × Nat) i =>
    let t := st.2 / (2 * i + 1)
    (if i % 2 = 0 then st.1 + t else st.1 - t, st.2 / (k * k))) (0, 2 ^ 420 / k)).1
  ((16 * atanInv 5 - 4 * atanInv 239) / 2 ^ 20).toNat

/-- (1 + erf(x / sqrt 2)) / 2 for |x| < 16, in units of 2^-400. -/
def phi400 (x : Num) : Nat :=
  match x with
  | .fin s m e =>
    let xv : Nat := if e ≥ -400 then m <<< (e + 400).toNat else m >>> (-400 - e).toNat
    let half2 := xv * xv / 2 ^ 401
    let z := isqrt 820 (half2 * 2 ^ 400) 0 (2 ^ 405)
    let series := erfSeries 700 0 half2 z z
    let rootPi := isqrt 820 (pi400 * 2 ^ 400) 0 (2 ^ 402)
    let erf := series * expNeg400 half2 / 2 ^ 400 * 2 * 2 ^ 400 / rootPi
    if s then (2 ^ 400 - min erf (2 ^ 400)) / 2 else (2 ^ 400 + erf) / 2
  | _ => 0

/-- One of the values within the bound of R80 on either side of an approximation that is not exact: the tally value
below it in magnitude, moved by `k` units. -/
def pickNear (k : Int) (approx : Num) : Num :=
  match approx with
  | .fin s m e =>
    if m = 0 then .fin s 0 0
    else
      let l := floorLog2 m e
      if l < -126 then .fin s 0 0
      else
        let q := l - 15
        let n := if q ≤ e then unitsAt m e q else m >>> (q - e).toNat
        toTally (.fin s (n + k).toNat q)
  | x => x

/-- The manual's choice limited to its bound: 0 or 1 for a bound of one unit, -1 to 2 for a bound of two. -/
def boundedPick (bound : Nat) (k : Int) : Int :=
  if bound = 1 then (if k ≤ 0 then 0 else 1) else (if k ≤ -1 then -1 else if k ≥ 2 then 2 else k)

/-- A result given its exact value where the tally holds it, and otherwise one within the bound (R80), by `pick`. -/
def nearOrExact (bound : Nat) (pick : Int) (approx : Num) (exact : Bool) : Num :=
  if exact && inTally approx then toTally approx else pickNear (boundedPick bound pick) approx

/-- The same for a function of one operand: `f` is the function's code, `a` the operand. -/
def withinBound (f bound : Nat) (a : Num) (approx : Num) (exact : Bool) : Num :=
  nearOrExact bound (Config.ulpPick f (tallyBits a)) approx exact

/-- minimum (`wantMax` false) and maximum (R80). -/
def minMax (wantMax : Bool) (a b : Num) : Num :=
  match a, b with
  | .nan, .nan => .nan
  | .nan, y => y
  | x, .nan => x
  | x, y =>
    if x.isZero && y.isZero then .fin (if wantMax then x.isNeg && y.isNeg else x.isNeg || y.isNeg) 0 0
    else if x.lt y then (if wantMax then y else x) else (if wantMax then x else y)

/-- A compare's 1 or 0 (R210); NaN with a NaN operand (R80, every other case). -/
def compareResult (r : Bool) (a b : Num) : Num :=
  if a.isNan || b.isNan then .nan else if r then .fin false 1 0 else zero

/-- Whether a finite magnitude is a power of two. -/
def isPow2 (m : Nat) : Bool := decide (m = 2 ^ m.log2)

/-- Reciprocal (R80). -/
def recip (a : Num) : Num :=
  match a with
  | .nan => .nan
  | .inf s => .fin s 0 0
  | .fin s m e =>
    if m = 0 then .inf s else withinBound 0x0B 1 a (divApprox (.fin s 1 0) (.fin false m e)) (isPow2 m)

/-- Square root (R80). -/
def sqrtFn (a : Num) : Num :=
  match a with
  | .nan => .nan
  | .inf s => if s then .nan else .inf false
  | .fin s m e =>
    if m = 0 then .fin s 0 0
    else if s then .nan
    else
      let r := sqrtApprox m e
      withinBound 0x0C 1 a r.1 r.2

/-- Reciprocal square root (R80). -/
def rsqrtFn (a : Num) : Num :=
  match a with
  | .nan => .nan
  | .inf s => if s then .nan else zero
  | .fin s m e =>
    if m = 0 then .inf s
    else if s then .nan
    else
      let r := sqrtApprox m e
      let exact := r.2 && (match r.1 with | .fin _ rm _ => isPow2 (rm / 2 ^ (rm.log2 - min rm.log2 15)) && isPow2 rm | _ => false)
      withinBound 0x0D 1 a (divApprox (.fin false 1 0) r.1) exact

/-- exp2 (R80). -/
def exp2Fn (a : Num) : Num :=
  match a with
  | .nan => .nan
  | .inf s => if s then zero else .inf false
  | .fin s m e =>
    if m = 0 then .fin false 1 0
    else if floorLog2 m e ≥ 8 then (if s then zero else .inf false)
    else
      let integer : Bool := decide (0 ≤ e) || decide (m % (2 ^ (-e).toNat : Nat) = 0)
      let x := exp2Approx (.fin s m e)
      if integer then toTally x else withinBound 0x0E 1 a x false

/-- exp (R80). -/
def expFn (a : Num) : Num :=
  match a with
  | .nan => .nan
  | .inf s => if s then zero else .inf false
  | .fin s m e =>
    if m = 0 then .fin false 1 0
    else if floorLog2 m e ≥ 8 then (if s then zero else .inf false)
    else withinBound 0x10 2 a (expApprox (.fin s m e)) false

/-- log2 (R80). -/
def log2Fn (a : Num) : Num :=
  match a with
  | .nan => .nan
  | .inf s => if s then .nan else .inf false
  | .fin s m e =>
    if m = 0 then .inf true
    else if s then .nan
    else if isPow2 m then toTally (ofSigned (floorLog2 m e) 0)
    else withinBound 0x0F 1 a (log2Approx m e) false

/-- Natural log (R80). -/
def lnFn (a : Num) : Num :=
  match a with
  | .nan => .nan
  | .inf s => if s then .nan else .inf false
  | .fin s m e =>
    if m = 0 then .inf true
    else if s then .nan
    else if isPow2 m && decide (floorLog2 m e = 0) then zero
    else withinBound 0x11 2 a ((log2Approx m e).mul ln2) false

/-- e^x / (1 + e^x), for finite x; far to either side the value it tends to. -/
def sigmoidApprox (x : Num) : Num :=
  match x with
  | .fin s m e =>
    if m ≠ 0 ∧ floorLog2 m e ≥ 8 then (if s then .fin false 1 (-300) else .fin false (2 ^ 90 - 1) (-90))
    else
      let t := cut96 (expApprox (Num.fin s m e).abs)
      let d := t.add (.fin false 1 0)
      if s then divApprox (.fin false 1 0) d else divApprox t d
  | _ => zero

/-- tanh (R80). -/
def tanhFn (a : Num) : Num :=
  match a with
  | .nan => .nan
  | .inf s => .fin s 1 0
  | .fin s m e =>
    if m = 0 then .fin s 0 0
    else
      let l := floorLog2 m e
      let x : Num := .fin false m e
      let r :=
        if l < -9 then x.add ((divApprox (x.mul (x.mul x)) (.fin false 3 0)).neg)
        else if l ≥ 7 then .fin false (2 ^ 90 - 1) (-90)
        else
          let t := cut96 (expApprox (x.scale 1))
          divApprox (t.add (.fin true 1 0)) (t.add (.fin false 1 0))
      withinBound 0x12 2 a (r.withSign s) false

/-- Sigmoid (R80). -/
def sigmoidFn (a : Num) : Num :=
  match a with
  | .nan => .nan
  | .inf s => if s then zero else .fin false 1 0
  | .fin s m e =>
    if m = 0 then .fin false 1 (-1) else withinBound 0x13 2 a (sigmoidApprox (.fin s m e)) false

/-- GELU, the exact form (R80). -/
def geluFn (a : Num) : Num :=
  match a with
  | .nan => .nan
  | .inf s => if s then .fin true 0 0 else .inf false
  | .fin s m e =>
    if m = 0 then .fin s 0 0
    else if floorLog2 m e ≥ 4 then
      (if s then .fin true 0 0 else withinBound 0x14 2 a ((Num.fin false m e).mul (.fin false (2 ^ 90 - 1) (-90))) false)
    else withinBound 0x14 2 a ((Num.fin s m e).mul (.fin false (phi400 (.fin s m e)) (-400))) false

/-- SiLU (R80). -/
def siluFn (a : Num) : Num :=
  match a with
  | .nan => .nan
  | .inf s => if s then .fin true 0 0 else .inf false
  | .fin s m e =>
    if m = 0 then .fin s 0 0 else withinBound 0x15 2 a ((Num.fin s m e).mul (sigmoidApprox (.fin s m e))) false

/-- a / b (R80): the special values of the reciprocal and the multiply, and a finite quotient within two units, a fixed
function of both operands. DESIGN CHOICE (log entry 84): for |b| above 2^126, whose reciprocal R62 makes a zero, the
quotient stays within the two units too. -/
def divFn (a b : Num) : Num :=
  match a, b with
  | .fin sa ma ea, .fin sb mb eb =>
    if ma = 0 ∨ mb = 0 then toTally ((Num.fin sa ma ea).mul (recip (.fin sb mb eb)))
    else
      let q := divApprox a b
      nearOrExact 2 (Config.divPick (tallyBits a) (tallyBits b)) q (decide ((ma <<< (96 + mb.log2)) % mb = 0))
  | x, y => toTally (x.mul (recip y))

/-! ### Hadamard transform (R81) -/

/-- sqrt 2 / 2 rounded to the tally. -/
def halfRoot2 : Num := .fin false 46341 (-16)

/-- One stage of span `h`: pairs (j, j + h) become (a + b, a - b), each rounded to the tally. -/
def hadamardStage (h : Nat) (l : List Num) : List Num :=
  (List.range l.length).map fun j =>
    if (j / h) % 2 = 0 then tallyAdd (l.getD j zero) (l.getD (j + h) zero)
    else tallyAdd (l.getD (j - h) zero) (l.getD j zero).neg

/-- The normalised transform of a run of 2^k values. -/
def hadamard (k : Nat) (l : List Num) : List Num :=
  let r := (List.range k).foldl (fun acc i => hadamardStage (2 ^ i) acc) l
  r.map fun x =>
    if k % 2 = 0 then toTally (x.scale (-(k / 2 : Nat)))
    else toTally ((toTally (x.scale (-((k - 1) / 2 : Nat)))).mul halfRoot2)

/-- A row rotated in runs of 2^k. -/
def rotateRow (k : Nat) (row : List Num) : List Num :=
  if k = 0 then row else ((chunks (2 ^ k) (row.length + 1) row).map (hadamard k)).flatten

/-! ### Philox-4x32-10 (R73) -/

/-- One round on (c0, c1, c2, c3) with key (k0, k1). -/
def philoxRound (c : Nat × Nat × Nat × Nat) (k0 k1 : Nat) : Nat × Nat × Nat × Nat :=
  let p0 := 0xD2511F53 * c.1
  let p1 := 0xCD9E8D57 * c.2.2.1
  (Nat.xor (Nat.xor (p1 / 2 ^ 32) c.2.1) k0, p1 % 2 ^ 32, Nat.xor (Nat.xor (p0 / 2 ^ 32) c.2.2.2) k1, p0 % 2 ^ 32)

/-- Ten rounds; the key moves by the Weyl constants between rounds. -/
def philox (key : BitVec 64) (c0 c1 c2 c3 : Nat) : Nat :=
  let r := (List.range 10).foldl (fun (st : (Nat × Nat × Nat × Nat) × Nat × Nat) _ =>
    (philoxRound st.1 st.2.1 st.2.2, (st.2.1 + 0x9E3779B9) % 2 ^ 32, (st.2.2 + 0xBB67AE85) % 2 ^ 32))
    ((c0 % 2 ^ 32, c1 % 2 ^ 32, c2 % 2 ^ 32, c3 % 2 ^ 32), key.toNat % 2 ^ 32, key.toNat / 2 ^ 32)
  r.1.1 + 2 ^ 32 * r.1.2.1 + 2 ^ 64 * r.1.2.2.1 + 2 ^ 96 * r.1.2.2.2

/-- The k-th 16-bit draw of a lane (R73): eight draws a call, from bits [15:0] upward. -/
def laneDraw (key : BitVec 64) (lane bolt : Nat) (stitch : BitVec 48) (k : Nat) : BitVec 16 :=
  BitVec.ofNat 16 (philox key (k / 8) lane bolt (stitch.toNat % 2 ^ 32) / 2 ^ (16 * (k % 8)))

/-! ### Layers of a base image (R333) -/

/-- Matrices of a layer's shape that its elements are: an expert layer holds one for each base expert (log entry 23). -/
def layerMats (e : LayerEntry) : Nat := if e.kind = 4 then max 1 e.experts else 1

/-- Bytes of one of them. -/
def matrixBytes (e : LayerEntry) : Nat := rowBytes e.fmt (e.k * e.n)

/-- Bytes of a layer's elements. -/
def layerBytes (e : LayerEntry) : Nat := matrixBytes e * layerMats e

/-! ### BF16 rounded up (R193) -/

/-- A magnitude as BF16, rounded up in magnitude; 0 if zero. DESIGN CHOICE (log entry 114): one above BF16's largest finite value
gives 0x7F80. -/
def bf16Up (x : Num) : Nat :=
  match x with
  | .fin _ m e =>
    if m = 0 then 0
    else
      let l := floorLog2 m e
      if l < -126 then 0x0080
      else
        let q := l - 7
        let n := if q ≤ e then unitsAt m e q else if m % 2 ^ (q - e).toNat = 0 then m >>> (q - e).toNat else (m >>> (q - e).toNat) + 1
        if floorLog2 n q ≥ 128 then 0x7F80 else encodeFinite 0 false n q
  | _ => 0

end Sys2Proof.Machine
end

