-- ==== Sys2Proof/Decode.lean ====
section
/-! DEFINITION. Reading the forms that the manual lays out in bits: a command from a table word (no row of the table has
bits), pattern words (R206 to R220), cursor entries (R203) and pattern images (R232). -/
namespace Sys2Proof

/-- The command that a word of `nbits` bits spells by the bits of spec/opcode_table.json. The table gives no row any
bits, so no word spells a command. -/
def decodeTableWord (_nbits _w : Nat) : Option Instr := none

/-- Bits [hi:lo] of a number. -/
def bitsOf (w hi lo : Nat) : Nat := (w / 2 ^ lo) % 2 ^ (hi - lo + 1)

/-- Bit [n] of a number. -/
def bitOf (w n : Nat) : Bool := decide ((w / 2 ^ n) % 2 = 1)

/-- A two's-complement field of `n` bits. -/
def signedOf (n v : Nat) : Int := if v ≥ 2 ^ (n - 1) then (v : Int) - 2 ^ n else v

/-! ### Pattern words -/

/-- The header of every word (R206): class, operation and the flag its completion sets. -/
structure WordHdr where
  cls : Nat
  op : Nat
  setf : Option Nat
  reserved : Nat
deriving DecidableEq, Repr

def wordHdr (w : PWord) : WordHdr :=
  let n := w.toNat
  { cls := bitsOf n 127 124, op := bitsOf n 123 120,
    setf := if bitOf n 119 then some (bitsOf n 118 116) else none, reserved := bitsOf n 115 112 }

/-- MATRIX (R208). -/
structure MatrixWord where
  mask : Nat
  hold : Bool
  cont : Bool
  m : Nat
  n : Nat
  k : Nat
  p : Nat
  q : Nat
  out : Nat
  tag : Nat
  kind : Nat
  epi : Nat
  consEn : Bool
  consS : Nat
  reserved : Nat
deriving DecidableEq, Repr

def matrixWord (w : PWord) : MatrixWord :=
  let x := w.toNat
  { mask := bitsOf x 111 108, hold := bitOf x 107, cont := bitOf x 106, m := bitsOf x 105 96 + 1,
    n := bitsOf x 95 86 + 1, k := bitsOf x 85 74 + 1, p := bitsOf x 73 69, q := bitsOf x 68 64, out := bitsOf x 63 59,
    tag := bitsOf x 58 43, kind := bitsOf x 42 39, epi := bitsOf x 38 27, consEn := bitOf x 26,
    consS := bitsOf x 25 21, reserved := bitsOf x 20 0 }

/-- EXT for OP 1 (R208). -/
structure ExtBackward where
  x : Nat
  dw : Nat
  maskS : Nat
  dwTag : Nat
  dwKind : Nat
  reserved : Nat
deriving DecidableEq, Repr

def extBackward (w : PWord) : ExtBackward :=
  let n := w.toNat
  { x := bitsOf n 111 107, dw := bitsOf n 106 102, maskS := bitsOf n 101 97, dwTag := bitsOf n 96 81,
    dwKind := bitsOf n 80 77, reserved := bitsOf n 76 0 }

/-- One dimension of a convolution (R104, R208). -/
structure ConvDim where
  outExt : Nat
  inExt : Nat
  ks : Nat
  s : Nat
  d : Nat
  p : Nat
deriving DecidableEq, Repr

/-- EXT for OP 2 (R208). -/
structure ExtConv where
  z : ConvDim
  y : ConvDim
  x : ConvDim
  flip : Bool
  insert : Nat
  reserved : Nat
deriving DecidableEq, Repr

def extConv (w : PWord) : ExtConv :=
  let n := w.toNat
  { z := ⟨bitsOf n 111 102 + 1, bitsOf n 101 90 + 1, bitsOf n 89 87 + 1, bitsOf n 86 85 + 1, bitsOf n 84 83 + 1,
      bitsOf n 82 78⟩,
    y := ⟨bitsOf n 77 68 + 1, bitsOf n 67 56 + 1, bitsOf n 55 53 + 1, bitsOf n 52 51 + 1, bitsOf n 50 49 + 1,
      bitsOf n 48 44⟩,
    x := ⟨bitsOf n 43 34 + 1, bitsOf n 33 22 + 1, bitsOf n 21 19 + 1, bitsOf n 18 17 + 1, bitsOf n 16 15 + 1,
      bitsOf n 14 10⟩,
    flip := bitOf n 9, insert := bitsOf n 8 7, reserved := bitsOf n 6 0 }

/-- RAIL (R209). -/
structure RailWord where
  mapCur : Nat
  layer : Nat
  reuse : Bool
  tokS : Nat
  tokRod : Nat
  tokStep : Int
  x : Nat
  gtag : Nat
  reserved : Nat
deriving DecidableEq, Repr

def railWord (w : PWord) : RailWord :=
  let n := w.toNat
  { mapCur := bitsOf n 111 107, layer := bitsOf n 106 91, reuse := bitOf n 90, tokS := bitsOf n 89 85,
    tokRod := bitsOf n 84 81, tokStep := signedOf 16 (bitsOf n 80 65), x := bitsOf n 64 60, gtag := bitsOf n 59 44,
    reserved := bitsOf n 43 0 }

/-- VECTOR (R210). -/
structure VectorWord where
  func : Nat
  a : Nat
  b : Nat
  c : Nat
  d : Nat
  tag : Nat
  kind : Nat
  aT : Bool
  chain : Bool
  bMode : Nat
  imm : Nat
  rows : Nat
  cols : Nat
  consEn : Bool
  consS : Nat
  reserved : Nat
deriving DecidableEq, Repr

def vectorWord (w : PWord) : VectorWord :=
  let n := w.toNat
  { func := bitsOf n 111 106, a := bitsOf n 105 101, b := bitsOf n 100 96, c := bitsOf n 95 91, d := bitsOf n 90 86,
    tag := bitsOf n 85 70, kind := bitsOf n 69 66, aT := bitOf n 65, chain := bitOf n 64, bMode := bitsOf n 63 62,
    imm := bitsOf n 61 46, rows := bitsOf n 45 30 + 1, cols := bitsOf n 29 14 + 1, consEn := bitOf n 13,
    consS := bitsOf n 12 8, reserved := bitsOf n 7 0 }

/-- ROTATE (R211). -/
structure RotateWord where
  src : Nat
  dst : Nat
  log2l : Nat
  tag : Nat
  kind : Nat
  rows : Nat
  cols : Nat
  consEn : Bool
  consS : Nat
  reserved : Nat
deriving DecidableEq, Repr

def rotateWord (w : PWord) : RotateWord :=
  let n := w.toNat
  { src := bitsOf n 111 107, dst := bitsOf n 106 102, log2l := bitsOf n 101 98, tag := bitsOf n 97 82,
    kind := bitsOf n 81 78, rows := bitsOf n 77 62 + 1, cols := bitsOf n 61 46 + 1, consEn := bitOf n 45,
    consS := bitsOf n 44 40, reserved := bitsOf n 39 0 }

/-- STREAM (R212). -/
structure StreamWord where
  src : Nat
  dst : Nat
  rows : Nat
  len : Nat
  reserved : Nat
deriving DecidableEq, Repr

def streamWord (w : PWord) : StreamWord :=
  let n := w.toNat
  { src := bitsOf n 111 107, dst := bitsOf n 106 102, rows := bitsOf n 101 86 + 1, len := bitsOf n 85 70 + 1,
    reserved := bitsOf n 69 0 }

/-- STACK (R213). -/
structure StackWord where
  lane : Nat
  codec : Nat
  ls : Nat
  mapCur : Nat
  mapEn : Bool
  tag : Nat
  width : Nat
  tokens : Nat
  widen : Bool
  wfmt : Nat
  reserved : Nat
deriving DecidableEq, Repr

def stackWord (w : PWord) : StackWord :=
  let n := w.toNat
  { lane := bitsOf n 111 110, codec := bitsOf n 109 108, ls := bitsOf n 107 103, mapCur := bitsOf n 102 98,
    mapEn := bitOf n 97, tag := bitsOf n 96 81, width := bitsOf n 80 65 + 1, tokens := bitsOf n 64 45 + 1,
    widen := bitOf n 44, wfmt := bitsOf n 43 40, reserved := bitsOf n 39 0 }

/-- STAT (R214): tag and bin base. -/
structure StatWord where
  tag : Nat
  histBase : Int
  reserved : Nat
deriving DecidableEq, Repr

def statWord (w : PWord) : StatWord :=
  let n := w.toNat
  { tag := bitsOf n 111 96, histBase := signedOf 8 (bitsOf n 95 88), reserved := bitsOf n 87 0 }

/-- REDUCE (R215). -/
structure ReduceWord where
  group : Nat
  mapCur : Nat
  layer : Nat
  ls : Nat
  blocks : Nat
  tag : Nat
  reserved : Nat
deriving DecidableEq, Repr

def reduceWord (w : PWord) : ReduceWord :=
  let n := w.toNat
  { group := bitsOf n 111 108, mapCur := bitsOf n 107 103, layer := bitsOf n 102 87, ls := bitsOf n 86 82,
    blocks := bitsOf n 81 62 + 1, tag := bitsOf n 61 46, reserved := bitsOf n 45 0 }

/-- BARRIER (R216). -/
structure BarrierWord where
  mask : BitVec 16
  id : Nat
  group : Nat
  span : Bool
  reserved : Nat
deriving DecidableEq, Repr

def barrierWord (w : PWord) : BarrierWord :=
  let n := w.toNat
  { mask := BitVec.ofNat 16 (bitsOf n 111 96), id := bitsOf n 95 92, group := bitsOf n 91 88, span := bitOf n 87,
    reserved := bitsOf n 86 0 }

/-- WAIT (R217). -/
structure WaitWord where
  mask : BitVec 8
  count : Nat
  clear : Bool
  reserved : Nat
deriving DecidableEq, Repr

def waitWord (w : PWord) : WaitWord :=
  let n := w.toNat
  { mask := BitVec.ofNat 8 (bitsOf n 111 104), count := bitsOf n 103 88, clear := bitOf n 87, reserved := bitsOf n 86 0 }

/-- SNAP (R218): SNAP_ID. -/
def snapWordId (w : PWord) : BitVec 16 := BitVec.ofNat 16 (bitsOf w.toNat 111 96)

/-- LOOP (R219). -/
structure LoopWord where
  rod : Nat
  last : Nat
  scalar : Bool
  countS : Nat
  count : Nat
  reserved : Nat
deriving DecidableEq, Repr

def loopWord (w : PWord) : LoopWord :=
  let n := w.toNat
  { rod := bitsOf n 111 108, last := bitsOf n 107 96, scalar := bitOf n 95, countS := bitsOf n 94 90,
    count := bitsOf n 89 74 + 1, reserved := bitsOf n 73 0 }

/-- BRANCH (R220). -/
structure BranchWord where
  target : Nat
  leftScalar : Bool
  left : Nat
  rightScalar : Bool
  rightS : Nat
  imm : Nat
  reserved : Nat
deriving DecidableEq, Repr

def branchWord (w : PWord) : BranchWord :=
  let n := w.toNat
  { target := bitsOf n 111 100, leftScalar := bitOf n 99, left := bitsOf n 98 94, rightScalar := bitOf n 93,
    rightS := bitsOf n 92 88, imm := bitsOf n 87 56, reserved := bitsOf n 55 0 }

/-! ### Cursor entries and pattern images -/

/-- Bytes `off` to `off + n - 1` of a block as a little-endian number; bytes past its end read 0. -/
def fieldOf (l : List Byte) (off n : Nat) : Nat := Machine.leNat ((l.drop off).take n)

/-- A cursor entry (R203). -/
def cursorOf (l : List Byte) : Machine.Cursor :=
  let mode := fieldOf l 34 1
  { base := fieldOf l 0 6, sbase := fieldOf l 6 6, pitch := fieldOf l 12 4,
    stride := [signedOf 32 (fieldOf l 16 4), signedOf 32 (fieldOf l 20 4), signedOf 32 (fieldOf l 24 4),
      signedOf 32 (fieldOf l 28 4)],
    rsel := [fieldOf l 32 1 % 16, fieldOf l 32 1 / 16, fieldOf l 33 1 % 16, fieldOf l 33 1 / 16],
    fmt := mode % 16, space := bitsOf mode 5 4, tagged := bitOf mode 6, scale := BitVec.ofNat 8 (fieldOf l 35 1),
    tag := fieldOf l 36 2 }

/-- Reserved bits of a cursor entry are 0. -/
def cursorReservedOk (l : List Byte) : Bool := !bitOf (fieldOf l 34 1) 7 && decide (fieldOf l 38 10 = 0)

/-- A pattern image's header, cursors and words (R232); none when the length or a header value is out of range. The
handle is filled in when the image is loaded. -/
def imageOf (l : List Byte) (len : Nat) : Option Machine.Pattern :=
  let nw := fieldOf l 0 2
  let nc := fieldOf l 2 1
  let ns := fieldOf l 3 1
  let mn := fieldOf l 4 2
  let mx := fieldOf l 6 2
  if l.length = len ∧ len = 64 + 48 * nc + 16 * nw ∧ 1 ≤ nw ∧ nw ≤ 4096 ∧ nc ≤ 32 ∧ ns ≤ 30 ∧ 1 ≤ mn ∧ mn ≤ 16 ∧
      mn ≤ mx ∧ mx ≤ 16 then
    some { handle := 0, nscalars := ns, minBolts := mn, maxBolts := mx,
           cursors := (List.range nc).map fun i => cursorOf (l.drop (64 + 48 * i)),
           words := (List.range nw).map fun i => BitVec.ofNat 128 (fieldOf l (64 + 48 * nc + 16 * i) 16), bytes := len }
  else none

/-- Reserved bytes of an image's header and cursor entries are 0 (R14, R203, R232). -/
def imageReservedOk (l : List Byte) : Bool :=
  decide (fieldOf l 8 56 = 0) && (List.range (fieldOf l 2 1)).all fun i => cursorReservedOk (l.drop (64 + 48 * i))

end Sys2Proof
end

