-- ==== Sys2Proof/Machine/Ops.lean ====
section
/-! DEFINITION. The named operations every meaning uses: sparse maps and memories, access to bolts, runs, sleeves, ports
and slots, stopping a command. -/
namespace Sys2Proof.Machine
open Sys2Proof

/-! ### Sparse maps: keys strictly rising, no entry equal to the value an unlisted key reads as -/

/-- The value at `k`; `d` where nothing is listed. -/
def look {α : Type} (d : α) : Sparse α → Nat → α
  | [], _ => d
  | (i, v) :: m, k => if i = k then v else look d m k

/-- The map without an entry for `k`. -/
def drop {α : Type} : Sparse α → Nat → Sparse α
  | [], _ => []
  | (i, v) :: m, k => if i = k then drop m k else (i, v) :: drop m k

/-- The map with an entry for `k` in its place. -/
def insert {α : Type} : Sparse α → Nat → α → Sparse α
  | [], k, v => [(k, v)]
  | (i, w) :: m, k, v => if k < i then (k, v) :: (i, w) :: m else (i, w) :: insert m k v

/-- Set `k` to `v`; setting the default removes the entry. -/
def put {α : Type} [DecidableEq α] (d : α) (m : Sparse α) (k : Nat) (v : α) : Sparse α :=
  if v = d then drop m k else insert (drop m k) k v

/-- The canonical form of a sparse map with default `d`. -/
def canonical {α : Type} [DecidableEq α] (d : α) : Sparse α → Bool
  | [] => true
  | [(_, v)] => decide (v ≠ d)
  | (i, v) :: (j, w) :: m => decide (v ≠ d) && decide (i < j) && canonical d ((j, w) :: m)

/-! ### Memories of bytes: unwritten bytes read 0 (log entry 6) -/

/-- What an unlisted address reads as. -/
def blankByte : Byte := 0

/-- The canonical form of a memory. -/
def Memory.wf (m : Mem) : Bool := canonical blankByte m

/-- One byte. -/
def memGet (m : Mem) (a : Nat) : Byte := look blankByte m a

/-- Write one byte. -/
def memSet (m : Mem) (a : Nat) (v : Byte) : Mem := put blankByte m a v

/-- `n` bytes from `a` upward. -/
def memRead (m : Mem) (a n : Nat) : List Byte := (List.range n).map fun i => memGet m (a + i)

/-- Write bytes from `a` upward. -/
def memWrite : Mem → Nat → List Byte → Mem
  | m, _, [] => m
  | m, a, b :: bs => memWrite (memSet m a b) (a + 1) bs

/-- A little-endian number of `n` bytes (R11). -/
def memNat (m : Mem) (a n : Nat) : Nat := leNat (memRead m a n)

/-! ### Bolts -/

/-- Bolts of a module (R17). -/
def boltCount : Nat := 16

/-- The bolt's state. -/
def State.bolt (s : State) (b : Nat) : Bolt := look {} s.bolts b

/-- The state with a bolt replaced. -/
def State.setBolt (s : State) (b : Nat) (v : Bolt) : State := { s with bolts := put {} s.bolts b v }

/-- Change one bolt. -/
def State.updBolt (s : State) (b : Nat) (f : Bolt → Bolt) : State := s.setBolt b (f (s.bolt b))

/-- The numbers of the bolts in a mask, ascending. -/
def boltsIn (m : BitVec 16) : List Nat := (List.range 16).filter fun i => m.getLsbD i

/-- Change every bolt of a list. -/
def State.updBolts (s : State) (bs : List Nat) (f : Nat → Bolt → Bolt) : State :=
  bs.foldl (fun s b => s.updBolt b (f b)) s

/-! ### Runs (admitted commands) -/

/-- The run with number `id`. -/
def State.findRun (s : State) (id : Nat) : Option Run := s.runs.find? fun r => r.id == id

/-- Change the run with number `id`. -/
def State.updRun (s : State) (id : Nat) (f : Run → Run) : State :=
  { s with runs := s.runs.map fun r => if r.id = id then f r else r }

/-- The state without the run. -/
def State.dropRun (s : State) (id : Nat) : State := { s with runs := s.runs.filter fun r => r.id != id }

/-- The sleeve number of an owner, 0xFF for the admin session. -/
def ownerNum : Owner → Nat
  | .admin => 255
  | .sleeve n => n

/-- Stop a command on every bolt with nothing of it to commit; the first reason stands (R116, R149, R260). -/
def Run.halt (r : Run) (st : Status) (detail : BitVec 56) (bolt : Nat) : Run :=
  if r.stop = none then { r with stop := some ⟨st, detail, bolt⟩ } else r

/-- The run of a bolt, where it is running and not stopped. -/
def State.liveRun (s : State) (b : Nat) : Option Run :=
  match (s.bolt b).run with
  | none => none
  | some id =>
    match s.findRun id with
    | some r => if r.phase = .running ∧ r.stop = none then some r else none
    | none => none

/-! ### Sleeves, ports, slots, patches -/

/-- The sleeve numbered `n`. -/
def State.sleeve (s : State) (n : Nat) : Option Sleeve := s.sleeves.find? fun v => v.id == n

/-- Change the sleeve numbered `n`. -/
def State.updSleeve (s : State) (n : Nat) (f : Sleeve → Sleeve) : State :=
  { s with sleeves := s.sleeves.map fun v => if v.id = n then f v else v }

/-- The sleeve that owns a bolt (R401). -/
def State.ownerOf (s : State) (b : Nat) : Option Sleeve := s.sleeves.find? fun v => v.bolts.getLsbD b

/-- A port's state. -/
def State.port (s : State) (p : Nat) : Port := look {} s.ports p

/-- Change a port. -/
def State.updPort (s : State) (p : Nat) (f : Port → Port) : State :=
  { s with ports := put {} s.ports p (f (s.port p)) }

/-- A base slot. -/
def State.slot (s : State) (n : Nat) : Slot := look {} s.bases.slots n

/-- Change a base slot. -/
def State.updSlot (s : State) (n : Nat) (f : Slot → Slot) : State :=
  { s with bases := { s.bases with slots := put {} s.bases.slots n (f (s.slot n)) } }

/-- The slot number that a base handle names among the slots that hold one (R335). -/
def State.slotOf (s : State) (handle : Nat) : Option Nat :=
  (List.range 4).find? fun n => (s.slot n).state ≠ .free ∧ (s.slot n).handle = handle

/-- The registered patch with a handle. -/
def State.patch (s : State) (h : Nat) : Option Patch := s.patches.find? fun p => p.handle == h

/-- Change a patch. -/
def State.updPatch (s : State) (h : Nat) (f : Patch → Patch) : State :=
  { s with patches := s.patches.map fun p => if p.handle = h then f p else p }

/-- Whether the module is in a domain under a manager (R316, R512). -/
def State.hasManager (s : State) : Bool := !s.domain.standalone && decide (s.domain.node ≠ 0xFFFF)

/-- Whether the module is a manager. -/
def State.isManager (s : State) : Bool := decide (s.domain.role = .manager ∨ s.domain.role = .topManager)

/-- The members of a span as the manager gave it its channel (R341), else as a slot of this module names them (R340). -/
def State.spanNodes (s : State) (ch : Nat) : List Nat :=
  match s.domain.holdings.find? fun x => x.channel == ch with
  | some x => x.nodes
  | none => match (List.range 4).find? fun n => decide ((s.slot n).state ≠ .free) && 1 < (s.slot n).span && (s.slot n).spanChannel == ch with
    | some n => (s.slot n).spanMembers
    | none => []

/-- Members that a membership has, as the manager knows them: a group by its presented blocks, a span by its image. -/
def State.memberCount (s : State) (m : Membership) : Nat :=
  if m < 256 then match s.domain.presented.find? fun x => x.2.group == m with
    | some x => x.2.members.length
    | none => 0
  else (s.spanNodes (m - 256)).length

/-- Whether a membership includes a node: a group by its presented blocks (R290), a span by its image (R340). -/
def State.hasMember (s : State) (m : Membership) (node : Nat) : Bool :=
  if m < 256 then s.domain.presented.any fun x => x.2.group == m && x.2.members.contains node
  else (s.spanNodes (m - 256)).contains node

/-- Whether a group's members lie in more than one domain (R315, R325). -/
def State.spansDomains (s : State) (m : Membership) : Bool :=
  match s.domain.presented.find? fun x => x.2.group == m with
  | some x => decide (1 < (x.2.members.map (· / 512)).eraseDups.length)
  | none => false

/-- Whether this manager decides for a membership: within its domain, or as the top manager (R325, R326). -/
def State.decides (s : State) (m : Membership) : Bool :=
  decide (s.domain.role = .topManager) || (s.isManager && !s.spansDomains m)

/-- Whether the tick parents of a plan lead from a node to its manager in at most `n` hops (R319). -/
def climbs (plan manager : Nat) : Nat → Nat → Bool
  | 0, node => node == manager
  | n + 1, node => node == manager || climbs plan manager n (Config.tickParentOf plan node)

/-- The tick parent that the manager plans for a node (R319): the plan's, where it lies on the roster and no more than 3 hops from the
manager, else the manager itself. That only links of at most 40 m are used is the plan's choice, and free (log entry 53). -/
def State.tickParent (s : State) (node : Nat) : Nat :=
  let p := Config.tickParentOf s.domain.plan node
  if (s.domain.roster.any fun e => e.node == p) && p != node && climbs s.domain.plan s.domain.node 3 p then p else s.domain.node

/-- The plan of the domain that the manager sends its members (R317): each member's port toward each other, and the groups' members in
rank order. -/
def State.planMsg (s : State) : Msg0 :=
  let nodes := s.domain.roster.map (·.node)
  .plan s.domain.plan (nodes.flatMap fun n => (nodes.filter (· != n)).map fun d => (n, d, Config.routePort s.domain.plan n d))
    ((s.domain.presented.map fun x => (x.2.group, x.2.members)).eraseDups)

/-- Append an output. -/
def State.emit (s : State) (o : Output) : State := { s with out := s.out ++ [o] }

/-- A fresh number for a free value (log entry 7). -/
def State.fresh (s : State) : Nat × State := (s.freeCtr, { s with freeCtr := s.freeCtr + 1 })

/-- Put an element before the first of a sorted list that it may precede. -/
def sortIn {α : Type} (le : α → α → Bool) (x : α) : List α → List α
  | [] => [x]
  | y :: l => if le x y then x :: y :: l else y :: sortIn le x l

/-- A list sorted by `le`; elements that may precede each other keep their order. -/
def sorted {α : Type} (le : α → α → Bool) : List α → List α
  | [] => []
  | x :: l => sortIn le x (sorted le l)

/-- The smallest number in a list. -/
def minOf (d : Nat) (l : List Nat) : Nat := l.foldl min d

/-- The largest number in a list, 0 for none. -/
def maxOf (l : List Nat) : Nat := l.foldl max 0

/-- The sum of a list. -/
def sumOf (l : List Nat) : Nat := l.foldl (· + ·) 0

/-- Replace element `i` of a list. -/
def setAt {α : Type} (l : List α) (i : Nat) (v : α) : List α := l.zipIdx.map fun e => if e.2 = i then v else e.1

/-- ceil(a / b). -/
def ceilDiv (a b : Nat) : Nat := if b = 0 ∨ a % b = 0 then a / b else a / b + 1

/-- A 16-bit handle for a new object: the free value if no object holds it, else the lowest number free (R109, log
entry 7). -/
def freeHandle (used : List Nat) (pick : Nat) : Nat :=
  let p := pick % 65536
  if used.contains p then ((List.range (used.length + 1)).find? fun h => !used.contains h).getD 0 else p

end Sys2Proof.Machine
end

