-- ==== Sys2Proof/Machine/Flags.lean ====
section
/-! DEFINITION. What a command's hand-offs leave besides their elements: counts, maxima and histograms (R190 to R195), the
watch conditions (R196) and the status they give (R197), and recipes as a hand-off reads them (R178, R182). -/
namespace Sys2Proof.Machine
open Sys2Proof

/-! ### Recipes -/

/-- A recipe entry (R178). -/
structure Recipe where
  initX : Nat
  satLog : Nat
  rot : Nat
  window : Nat
  margin : Int
  scaleMode : Nat
  stochastic : Bool
  format : Nat
deriving DecidableEq, Repr

/-- The fields of an 8-byte entry (R178). -/
def recipeOf (e : BitVec 64) : Recipe :=
  let n := e.toNat
  { initX := bitsOf n 63 56, satLog := bitsOf n 55 50, rot := bitsOf n 31 28, window := bitsOf n 23 20 + 1,
    margin := signedOf 4 (bitsOf n 19 16), scaleMode := bitsOf n 11 10, stochastic := decide (bitsOf n 9 8 = 1),
    format := bitsOf n 3 0 }

/-- The recipe of a kind in a command's column, as fixed at its admission (R180). -/
def Run.recipe (r : Run) (kind : Nat) : Recipe := recipeOf (r.recipes.getD kind 0)

/-- The largest of the last `w` non-empty history entries (R182). -/
def histMax (h : List (Option Int)) (w : Nat) : Option Int :=
  ((h.filterMap id).take w).foldl (fun acc x => match acc with | none => some x | some a => some (max a x)) none

/-- A tag's history in a list of histories. -/
def histOf (l : List TagHist) (tag : Nat) : List (Option Int) :=
  match l.find? fun h => h.tag == tag with
  | some h => h.entries
  | none => []

/-- Put a new entry in front of a tag's history, keeping 16 (R183). -/
def histPush (l : List TagHist) (tag : Nat) (e : Option Int) : List TagHist :=
  if l.any fun h => h.tag == tag then
    l.map fun h => if h.tag = tag then { h with entries := (e :: h.entries).take 16 } else h
  else { tag := tag, entries := [e] } :: l

/-- The scale exponent of a plain tensor (R182) with whether it was clamped: `hist` its history, `amax` the whole
tensor's largest magnitude for current mode, `byTenant` when R184 applies. -/
def plainScale (rcp : Recipe) (f : Nat) (hist : List (Option Int)) (amax : Num) (byTenant : Bool) : Int × Bool :=
  let init : Int := (rcp.initX : Int) - 127
  match rcp.scaleMode with
  | 0 =>
    if byTenant then clampExp init
    else match histMax hist rcp.window with
      | none => clampExp init
      | some e => clampExp (e - emaxOf f + rcp.margin)
  | 2 =>
    match amax.log2? with
    | none => clampExp init
    | some e => clampExp (e - emaxOf f + rcp.margin)
  | _ => clampExp init

/-! ### Watch conditions (R196) -/

/-- Set bit `n` of the WATCH_SEEN mask. -/
def seen (w : BitVec 8) (n : Nat) (on : Bool) : BitVec 8 := if on then w ||| BitVec.ofNat 8 (2 ^ n) else w

/-- SATURATED above its recipe's limit (R178, R196). -/
def overLimit (r : StatRec) : Bool :=
  decide (1 ≤ r.satLog ∧ r.satLog ≤ 32 ∧ r.saturated * 2 ^ r.satLog > r.elements)

/-- The conditions of a command over its whole run, with SATURATION from its records (R196, R198). -/
def watchSeen (w : BitVec 8) (stats : List StatRec) : BitVec 8 := seen w 2 (stats.any overLimit)

/-- The discard a WATCH field asks for (R198): its status, none when nothing is discarded. -/
def watchDiscard (watch : BitVec 2) (w : BitVec 8) : Option Status :=
  if watch.getLsbD 0 && (w.getLsbD 0 || w.getLsbD 1) then some 0x54
  else if watch.getLsbD 1 && w.getLsbD 2 then some 0x55
  else none

/-- The numeric-watch status of a committed command (R197): the first code in the order 0x51, 0x50, 0x52, 0x53. -/
def watchStatus (w : BitVec 8) : Option Status :=
  if w.getLsbD 1 then some 0x51
  else if w.getLsbD 0 then some 0x50
  else if w.getLsbD 2 then some 0x52
  else if w.getLsbD 3 then some 0x53
  else none

/-! ### Statistics (R190 to R195) -/

/-- The bin of a magnitude's floor(log2) (R195). -/
def histBin (base : Int) (l : Int) : Nat :=
  if l ≤ base then 0 else if l ≥ base + 63 then 63 else (l - base).toNat

/-- Count one element (R70, R190): its class, its value at the point of R183, its channel, whether its row is covered. -/
def countElem (r : StatRec) (c : ElemClass) (v : Num) (channel : Nat) (covered : Bool) : StatRec :=
  let r := { r with
    elements := r.elements + 1
    zeros := r.zeros + (if c = .zero then 1 else 0)
    saturated := r.saturated + (if c = .saturated then 1 else 0)
    nonfinite := r.nonfinite + (if c = .nonfinite then 1 else 0)
    top := if v.isFinite then maxMag r.top v else r.top }
  if covered && v.isFinite && !v.isZero then
    { r with
      amax := maxMag r.amax v
      chmax := put zero r.chmax channel (maxMag (look zero r.chmax channel) v)
      histo := match r.histBase, v.log2? with
        | some b, some l =>
          let n := look 0 r.histo (histBin b l)
          put 0 r.histo (histBin b l) (min (n + 1) (2 ^ 32 - 1))
        | _, _ => r.histo }
  else r

/-- Count one row. -/
def countRow (r : StatRec) (covered : Bool) : List (ElemClass × Num) → Nat → StatRec
  | [], _ => r
  | (c, v) :: rest, ch => countRow (countElem r c v ch covered) covered rest (ch + 1)

/-- Merge two records of one tag: counts add, maxima take the larger (R192). DESIGN CHOICE (log entry 114): format and SCALE are the
later hand-off's, and the rotation code is the first that is not 0. -/
def mergeStat (a b : StatRec) : StatRec :=
  { a with
    fmt := b.fmt, scale := b.scale, rot := if a.rot = 0 then b.rot else a.rot
    channels := max a.channels b.channels
    elements := a.elements + b.elements, zeros := a.zeros + b.zeros, saturated := a.saturated + b.saturated
    nonfinite := a.nonfinite + b.nonfinite, amax := maxMag a.amax b.amax, top := maxMag a.top b.top
    chmax := b.chmax.foldl (fun m e => put zero m e.1 (maxMag (look zero m e.1) e.2)) a.chmax
    histBase := if a.histBase = none then b.histBase else a.histBase
    histo := b.histo.foldl (fun m e => put 0 m e.1 (min (look 0 m e.1 + e.2) (2 ^ 32 - 1))) a.histo
    tenantRows := a.tenantRows || b.tenantRows, patchOwned := a.patchOwned || b.patchOwned
    fixedByTenant := a.fixedByTenant || b.fixedByTenant, coveredAny := a.coveredAny || b.coveredAny, satLog := b.satLog }

/-- Add a record to a command's records, in ascending tag order (R192). -/
def addStat : List StatRec → StatRec → List StatRec
  | [], r => [r]
  | x :: xs, r => if x.tag = r.tag then mergeStat x r :: xs else if r.tag < x.tag then r :: x :: xs else x :: addStat xs r

/-- Lines of a record: summary and channel maxima, and two for a histogram (R192). -/
def statLines (channels : Nat) (histogram : Bool) : Nat := ceilDiv (64 + 2 * channels) 128 + (if histogram then 2 else 0)

/-- Bytes padded with zeros to a multiple of 128. -/
def padLine (l : List Byte) : List Byte := l ++ List.replicate ((128 - l.length % 128) % 128) 0

/-- A record's bytes (R192, R193, R195). -/
def statBytes (r : StatRec) (discarded : Bool) (stitch : BitVec 48) : List Byte :=
  let chm := !r.patchOwned && r.coveredAny
  let ch := if r.patchOwned then 0 else r.channels
  let fl := (if chm then 1 else 0) + (if r.histBase ≠ none then 2 else 0) + (if r.tenantRows then 4 else 0) +
    (if discarded then 8 else 0) + (if r.patchOwned then 16 else 0) + (if r.fixedByTenant then 32 else 0)
  let head := leBytes 2 r.tag ++ leBytes 1 (r.kind + (if r.cls then 16 else 0)) ++ leBytes 1 (r.fmt + 16 * r.rot) ++
    leBytes 1 r.scale.toNat ++ leBytes 1 fl ++ leBytes 2 0 ++ leBytes 4 (statLines ch (r.histBase ≠ none)) ++
    leBytes 4 ch ++ leBytes 8 r.elements ++ leBytes 8 r.zeros ++ leBytes 8 r.saturated ++ leBytes 8 r.nonfinite ++
    leBytes 2 (bf16Up r.amax) ++
    leBytes 1 (match r.histBase with | some b => (b % 256).toNat | none => 0) ++ leBytes 5 0 ++ leBytes 8 stitch.toNat
  let maxima := (List.range ch).map fun c => leBytes 2 (bf16Up (look zero r.chmax c))
  let hist := match r.histBase with
    | none => []
    | some _ => ((List.range 64).map fun b => leBytes 4 (look 0 r.histo b)).flatten
  padLine (head ++ maxima.flatten) ++ hist

end Sys2Proof.Machine
end

