-- ==== Sys2Proof/Machine/Operands.lean ====
section
/-! DEFINITION. Operand forms of pattern words: cursor addresses (R202 to R204), tensors in the local store with their line
tags (R205), row maps (R115), and the hand-off of a tensor to the local store (R68, R185, R190). -/
namespace Sys2Proof.Machine
open Sys2Proof

/-- Bytes of a bolt's local store (R204). -/
def storeBytes : Nat := 24 * 1048576

/-- A cursor as a primitive sees it at issue: its address, and the format and scale its reads take. -/
structure View where
  addr : Nat
  base : Nat
  sbase : Nat
  pitch : Nat
  fmt : Nat
  scale : Nat
  space : Nat
  /-- the cursor's own MODE format and SCALE, which writes through it use (R204) -/
  ownFmt : Nat
  ownScale : Nat
deriving DecidableEq, Repr

/-- The cursor numbered `c`. -/
def Bolt.cursor (b : Bolt) (c : Nat) : Cursor := look {} b.cursors c

/-- A rod's value. -/
def Bolt.rod (b : Bolt) (r : Nat) : Nat := look 0 b.rods r

/-- A scalar's value. -/
def Bolt.scalar (b : Bolt) (n : Nat) : BitVec 32 := look 0 b.scalars n

/-- The address a cursor forms, in 48 bits (R202). -/
def Bolt.address (b : Bolt) (c : Cursor) : Nat :=
  ((c.base : Int) + (List.zipWith (fun st r => st * (b.rod r : Int)) c.stride c.rsel).foldl (· + ·) 0
    |>.emod (2 ^ 48)).toNat

/-- The view of cursor `n`: under TAGGED, format and scale come from the tag's last hand-off in this command on this
bolt, if one has occurred (R204). -/
def Bolt.view (b : Bolt) (n : Nat) : View :=
  let c := b.cursor n
  let t := if c.tagged then b.tagInfo.find? (fun t => t.tag == c.tag) else none
  { addr := b.address c, base := c.base, sbase := c.sbase, pitch := c.pitch, space := c.space, ownFmt := c.fmt
    ownScale := c.scale.toNat
    fmt := match t with | some t => t.fmt | none => c.fmt
    scale := match t with | some t => t.scale.toNat | none => c.scale.toNat }

/-- Where row `i` of an operand starts: PITCH apart, or one after another when PITCH is 0 (R203). -/
def View.row (v : View) (rb i : Nat) : Nat := v.addr + i * (if v.pitch = 0 then rb else v.pitch)

/-- Bytes of one 32-element block (R59). -/
def blockBytes (f : Nat) : Nat := 4 * fmtWidth f

/-- The address of the block scale of the element at `a` (R202). -/
def View.scaleAt (v : View) (f a : Nat) : Nat :=
  (((v.sbase : Int) + ((a : Int) - v.base) / (blockBytes f : Int)).emod (2 ^ 48)).toNat

/-- One row of `n` elements at `a`, decoded (R61). -/
def readRow (m : Mem) (v : View) (a n : Nat) : List Num :=
  let bits := unpackRow v.fmt n (memRead m a (rowBytes v.fmt n))
  if isMx v.fmt then
    let sa := v.scaleAt v.fmt a
    (List.range n).map fun j => readElem v.fmt (bits.getD j 0) (memGet m (sa + j / 32)).toNat
  else bits.map fun x => readElem v.fmt x v.scale

/-- `rows` rows of `cols` elements. -/
def readTensor (m : Mem) (v : View) (rows cols : Nat) : List (List Num) :=
  (List.range rows).map fun i => readRow m v (v.row (rowBytes v.fmt cols) i) cols

/-- One element per row: packed one after another when PITCH is 0, else at the start of each row. -/
def readColumn (m : Mem) (v : View) (rows : Nat) : List Num :=
  if v.pitch = 0 then readRow m v v.addr rows
  else (List.range rows).map fun i => (readRow m v (v.addr + i * v.pitch) 1).getD 0 zero

/-- The local-store bytes an operand of `rows` rows of `cols` elements touches, as (address, length). -/
def View.extents (v : View) (f rows cols : Nat) : List (Nat × Nat) :=
  ((List.range rows).map fun i => (v.row (rowBytes f cols) i, rowBytes f cols)) ++
  (if isMx f then (List.range rows).map fun i => (v.scaleAt f (v.row (rowBytes f cols) i), cols / 32) else [])

/-- The first address of a list of extents that the local store does not have. -/
def outside (es : List (Nat × Nat)) : Option Nat :=
  (es.find? fun e => decide (storeBytes < e.1 + e.2)).map fun e => e.1 + e.2 - 1

/-- Go on with `k` unless an address lies outside the local store. -/
def within (bno : Nat) (es : List (Nat × Nat)) (k : State) : Host.Outcome State Fault Refusal :=
  match outside es with
  | some a => .fault (.localStoreAddress bno a)
  | none => .next k

/-- Whether two byte ranges meet. -/
def meets (a b : Nat × Nat) : Bool := decide (a.1 < b.1 + b.2 ∧ b.1 < a.1 + a.2)

/-- Whether two lists of byte ranges meet. -/
def anyMeet (as bs : List (Nat × Nat)) : Bool := as.any fun a => bs.any (meets a)

/-! ### Line tags (R205) -/

/-- The lines that `n` bytes at `a` touch. -/
def linesOf (a n : Nat) : List Nat :=
  if n = 0 then [] else (List.range ((a + n - 1) / 128 - a / 128 + 1)).map fun i => a / 128 + i

/-- The tag of a local-store line. -/
def Bolt.lineTag (b : Bolt) (line : Nat) : BitVec 16 := look 0 b.tags line

/-- The tags of the lines that byte ranges touch. -/
def Bolt.tagsIn (b : Bolt) (es : List (Nat × Nat)) : List (BitVec 16) := (es.flatMap fun e => (linesOf e.1 e.2).map b.lineTag).eraseDups

/-- The bytes of row `i` of an operand with `cols` elements a row, its block scales among them. -/
def View.rowExtents (v : View) (cols i : Nat) : List (Nat × Nat) :=
  let a := v.row (rowBytes v.fmt cols) i
  (a, rowBytes v.fmt cols) :: (if isMx v.fmt then [(v.scaleAt v.fmt a, cols / 32)] else [])

/-- The line tags of each row of an operand (R205). -/
def Bolt.rowTags (b : Bolt) (v : View) (rows cols : Nat) : List (List (BitVec 16)) :=
  (List.range rows).map fun i => b.tagsIn (v.rowExtents cols i)

/-- The line tags of element `j` of row `i` of an operand (R205). -/
def Bolt.elemTags (b : Bolt) (v : View) (cols i j : Nat) : List (BitVec 16) :=
  let a := v.row (rowBytes v.fmt cols) i
  b.tagsIn ((a + j * fmtWidth v.fmt / 8, (fmtWidth v.fmt + 7) / 8) ::
    (if isMx v.fmt then [(v.scaleAt v.fmt a + j / 32, 1)] else []))

/-- Whether tags name a tenant. -/
def tenantTagged (l : List (BitVec 16)) : Bool := l.any (· != 0)

/-- The parts of a byte range outside another. -/
def cutRange (e r : Nat × Nat) : List (Nat × Nat) :=
  (if e.1 < r.1 then [(e.1, min e.2 (r.1 - e.1))] else []) ++
  (if r.1 + r.2 < e.1 + e.2 then let a := max e.1 (r.1 + r.2); [(a, e.1 + e.2 - a)] else [])

/-- The local-store bytes that stand as a LOAD of the base image left them, once bytes of a range are written. -/
def cutBase (l : List (Nat × Nat × Nat)) (r : Nat × Nat) : List (Nat × Nat × Nat) :=
  l.flatMap fun e => (cutRange (e.1, e.2.1) r).map fun p => (p.1, p.2, e.2.2 + (p.1 - e.1))

/-- The offset in the command's base image of the byte that the store holds at `a`, where a LOAD put it there. -/
def Bolt.baseAt (b : Bolt) (a : Nat) : Option Nat :=
  (b.baseRegs.find? fun e => decide (e.1 ≤ a ∧ a < e.1 + e.2.1)).map fun e => e.2.2 + (a - e.1)

/-- Write bytes and give every line they touch the tag. -/
def Bolt.write (b : Bolt) (a : Nat) (bytes : List Byte) (tag : BitVec 16) : Bolt :=
  { b with
    mem := memWrite b.mem a bytes
    baseRegs := cutBase b.baseRegs (a, bytes.length)
    tags := (linesOf a bytes.length).foldl (fun t l => put 0 t l tag) b.tags }

/-! ### Row maps (R115) -/

/-- One row-map entry. -/
structure RowEntry where
  pv : Bool
  len : Nat
  patch : Nat
  selvage : BitVec 16
  /-- a reserved bit is set -/
  reserved : Bool
deriving DecidableEq, Repr

/-- Entry `i` of the row map at `a`. -/
def rowEntry (m : Mem) (a i : Nat) : RowEntry :=
  let e := memNat m (a + 8 * i) 8
  { pv := bitOf e 48, len := bitsOf e 47 32, patch := bitsOf e 31 16, selvage := BitVec.ofNat 16 (bitsOf e 15 0)
    reserved := decide (bitsOf e 63 49 ≠ 0) }

/-- The rows of the map at `a`, up to the first entry whose LEN is 0, which no row has (log entry 12). -/
def rowMap (m : Mem) (a : Nat) : Nat → List RowEntry
  | 0 => []
  | f + 1 =>
    let e := rowEntry m a 0
    if e.len = 0 then [] else e :: rowMap m (a + 8) f

/-- The row of a token, with its number: the row whose LEN tokens cover it. -/
def rowOfToken : List RowEntry → Nat → Nat → Option (Nat × RowEntry)
  | [], _, _ => none
  | e :: es, n, tok => if tok < e.len then some (n, e) else rowOfToken es (n + 1) (tok - e.len)

/-- For each of `m` rows of P from token `tok`, its row-map row. -/
def rowsFor (map : List RowEntry) (tok m : Nat) : List (Option (Nat × RowEntry)) :=
  (List.range m).map fun i => rowOfToken map 0 (tok + i)

/-- A row map sets a reserved bit (R14, R115). -/
def mapReserved (map : List RowEntry) : Bool := map.any fun e => e.reserved

/-- Whether some row carries a patch. -/
def anyPatch (map : List RowEntry) : Bool := map.any fun e => e.pv

/-! ### Rounding lanes (R73) -/

/-- Units whose lanes are numbered together. -/
def laneUnitMatrix (a : Nat) : Nat := a
def laneUnitVector : Nat := 4
def laneUnitRotation : Nat := 5
def laneUnitStack : Nat := 6
def laneUnitReduce : Nat := 7
def laneUnitUpdate : Nat := 8

/-- The unit of a lane number: every unit owns at least one. -/
def laneOwner (l : Nat) : Nat := if l < 9 then l else Config.laneUnit l % 9

/-- The numbers of a unit's lanes (R73: 12 bits, each number one lane's). -/
def lanesOf (u : Nat) : List Nat := (List.range 4096).filter fun l => laneOwner l == u

/-- The number of the lane that rounds element `i` of unit `u`. -/
def laneOf (u i : Nat) : Nat :=
  let ls := lanesOf u
  ls.getD (Config.laneIndex u i % ls.length) u

/-- The next draw of the lane that rounds element `i` of unit `u`. -/
def Bolt.draw (b : Bolt) (bno : Nat) (stitch : BitVec 48) (u i : Nat) : BitVec 16 × Bolt :=
  let lane := laneOf u i
  let k := look 0 b.draws lane
  (laneDraw b.roundKey lane bno stitch k, { b with draws := put 0 b.draws lane (k + 1) })

/-- Where the roundings of a hand-off take place; `unit` gives the unit whose lanes round each element, counted through the
tensor. -/
structure RoundCtx where
  bno : Nat
  stitch : BitVec 48
  unit : Nat → Nat
  stochastic : Bool

/-- Hand off a row of values already multiplied by 2^(-X): element bits with their classes. DESIGN CHOICE (log entry 85):
in stochastic mode every element takes one draw of its lane, also one that needs no rounding. -/
def roundRow (f : Nat) (c : RoundCtx) (b : Bolt) (i : Nat) : List Num → List (Nat × ElemClass) × Bolt
  | [] => ([], b)
  | v :: vs =>
    if c.stochastic then
      let d := b.draw c.bno c.stitch (c.unit i) i
      let r := roundRow f c d.2 (i + 1) vs
      (handOffElem f (.stochastic d.1) v :: r.1, r.2)
    else
      let r := roundRow f c b (i + 1) vs
      (handOffElem f .nearest v :: r.1, r.2)

/-- Hand off one MX block (R69, R70): its scale byte, elements, and whether the scale was clamped. -/
def roundBlock (f : Nat) (margin : Int) (c : RoundCtx) (b : Bolt) (i : Nat) (vals : List Num) :
    (Nat × Bool) × List (Nat × ElemClass) × Bolt :=
  let sc := mxBlockScale f margin vals
  if sc.1 = 255 then (sc, vals.map (fun _ => (0, ElemClass.nonfinite)), b)
  else
    let r := roundRow f c b i (vals.map fun v => v.scale (127 - (sc.1 : Int)))
    (sc, r.1, r.2)

/-- A row handed off: element bits with classes, block scales, whether a scale was clamped. -/
structure HandedRow where
  elems : List (Nat × ElemClass)
  scales : List Nat
  clamped : Bool
deriving DecidableEq, Repr

/-- Hand off the blocks of a row. -/
def roundBlocks (f : Nat) (margin : Int) (c : RoundCtx) (b : Bolt) (i : Nat) : List (List Num) → HandedRow × Bolt
  | [] => (⟨[], [], false⟩, b)
  | blk :: rest =>
    let r := roundBlock f margin c b i blk
    let t := roundBlocks f margin c r.2.2 (i + blk.length) rest
    (⟨r.2.1 ++ t.1.elems, r.1.1 :: t.1.scales, r.1.2 || t.1.clamped⟩, t.2)

/-- Hand off a row under plain exponent `x`, or by blocks for an MX format (R68). -/
def handRow (f : Nat) (margin x : Int) (c : RoundCtx) (b : Bolt) (i : Nat) (row : List Num) : HandedRow × Bolt :=
  if isMx f then roundBlocks f margin c b i (chunks 32 (row.length + 1) row)
  else
    let r := roundRow f c b i (row.map fun v => v.scale (-x))
    (⟨r.1, [], false⟩, r.2)

/-- Hand off rows, numbering elements through the tensor. -/
def handRows (f : Nat) (margin x : Int) (c : RoundCtx) (b : Bolt) (i : Nat) : List (List Num) → List HandedRow × Bolt
  | [] => ([], b)
  | row :: rest =>
    let r := handRow f margin x c b i row
    let t := handRows f margin x c r.2 (i + row.length) rest
    (r.1 :: t.1, t.2)

/-- The base layer's table entry in the command's base (R333). -/
def State.layerOf (s : State) (base layer : Nat) : Option LayerEntry :=
  match s.slotOf base with
  | none => none
  | some n => (s.slot n).layers.find? fun l => l.layer == layer

/-- The layer whose elements hold a plaintext offset of a base image. -/
def State.layerAt (s : State) (base off : Nat) : Option LayerEntry :=
  match s.slotOf base with
  | none => none
  | some n => (s.slot n).layers.find? fun l => decide (l.offset ≤ off ∧ off < l.offset + layerBytes l)

/-- The index of the expert whose matrix of an expert layer lies at an offset: from E_base on, a slot's (R136). DESIGN CHOICE (log
entry 23): a matrix instruction names its expert by where in the base image its Q comes from. -/
def expertAt (e : LayerEntry) (off : Option Nat) : Option Nat :=
  off.bind fun o => if e.kind ≠ 4 ∨ o < e.offset ∨ matrixBytes e = 0 then none else some ((o - e.offset) / matrixBytes e)

/-- The extra-expert slot that an instruction on a layer selects (R136), none for a base expert or a layer without experts. -/
def State.slotSel (s : State) (base layer : Nat) (off : Option Nat) : Option Nat :=
  (s.layerOf base layer).bind fun e => (expertAt e off).bind fun i => if e.experts ≤ i then some (i - e.experts) else none

/-- The rotation a hand-off of MATRIX, VECTOR or ROTATE applies (R185, R187): log2 of its length, 0 for none. -/
def State.rotationOf (s : State) (r : Run) (b : Bolt) (rcp : Recipe) (consEn : Bool) (consS : Nat) : Nat :=
  if rcp.rot = 15 then
    if consEn then
      match s.layerOf r.base ((b.scalar consS).toNat % 65536) with
      | some l => l.rot
      | none => 0
    else 0
  else rcp.rot

/-- What names a tensor that a word hands off. -/
structure HandOff where
  tag : Nat
  kind : Nat
  rot : Nat
  unit : Nat → Nat
  /-- SELVAGE of each output row; 0 past the list's end (R205) -/
  selvages : List (BitVec 16)
  /-- line tags that went into each output row; none past the list's end (R191) -/
  drawn : List (List (BitVec 16))

/-- What a hand-off makes, before its elements are placed: rows, the plain exponent, the tag's record, whether a scale
was clamped, and the bolt with its draws taken. -/
structure Handed where
  rows : List HandedRow
  x : Int
  fmt : Nat
  clamped : Bool
  stat : StatRec
  bolt : Bolt
deriving DecidableEq, Repr

/-- The conversion of a hand-off (R68, R182, R184, R185, R190): rotation, scales, rounding and counts. Maxima and histograms
cover the rows with SELVAGE 0 into which no line with a tenant's tag went (R191; log entry 93). DESIGN CHOICE (log entry 114):
TENANT_ROWS comes from the row maps of the whole command so far, for every tensor that it hands off. -/
def State.convert (s : State) (bno : Nat) (b : Bolt) (r : Run) (h : HandOff) (vals : List (List Num)) : Handed :=
  let rcp := r.recipe h.kind
  let f := rcp.format
  let hist := match s.sleeve (ownerNum r.hdr.owner) with | some q => histOf q.hist h.tag | none => []
  let byTenant := r.tenantRows && isPlain f && decide (rcp.scaleMode = 0)
  let rows := vals.map (rotateRow h.rot)
  let xs := plainScale rcp f hist (amaxOf rows.flatten) byTenant
  let x := if isMx f then 0 else xs.1
  let out := handRows f rcp.margin x ⟨bno, s.time.stitch, h.unit, rcp.stochastic⟩ b 0 rows
  let blank : StatRec :=
    { tag := h.tag, kind := h.kind, cls := r.hdr.cls, fmt := f, rot := h.rot,
      scale := if isMx f then 0 else BitVec.ofNat 8 (scaleByte x), channels := (rows.headD []).length,
      histBase := (b.privTags.find? fun p => p.1 == h.tag).map (·.2), tenantRows := r.tenantRows,
      fixedByTenant := byTenant, satLog := rcp.satLog }
  let st := (List.zip out.1 rows).zipIdx.foldl (fun (st : StatRec) e =>
    let cov := decide (h.selvages.getD e.2 0 = 0) && !tenantTagged (h.drawn.getD e.2 [])
    countRow { st with coveredAny := st.coveredAny || cov } cov (List.zip (e.1.1.elems.map (·.2)) e.1.2) 0) blank
  { rows := out.1, x := x, fmt := f, clamped := out.1.any (·.clamped) || (isPlain f && xs.2), stat := st, bolt := out.2 }

/-- Remember a hand-off's format and scale for TAGGED reads (R204). -/
def Bolt.noteTag (b : Bolt) (o : Handed) (h : HandOff) : Bolt :=
  { b with tagInfo := ⟨h.tag, o.fmt, o.stat.scale, h.rot, h.kind⟩ :: b.tagInfo.filter fun t => t.tag != h.tag }

/-- A hand-off's record and watch conditions join the command's (R190, R196). -/
def State.noteHandOff (s : State) (id : Nat) (o : Handed) : State :=
  s.updRun id fun q =>
    { q with
      watch := seen (seen (seen q.watch 0 (decide (o.stat.nonfinite > 0))) 3 o.clamped) 4 o.stat.fixedByTenant
      baste := { q.baste with stats := addStat q.baste.stats o.stat } }

/-- Put handed-off rows into the local store at `v`, each under its row's SELVAGE (R205). -/
def Bolt.placeRows (b : Bolt) (v : View) (f : Nat) (sel : List (BitVec 16)) (idx : List Nat) (rows : List HandedRow) :
    Bolt :=
  let rb := rowBytes f (match rows with | [] => 0 | r :: _ => r.elems.length)
  (List.zip idx rows).zipIdx.foldl (fun (b : Bolt) e =>
    let a := v.row rb e.1.1
    let t := sel.getD e.2 0
    let b := b.write a (packRow f (e.1.2.elems.map (·.1))) t
    if isMx f then b.write (v.scaleAt f a) (e.1.2.scales.map (BitVec.ofNat 8 ·)) t else b) b

/-- The hand-off of a tensor to the local store at `v` (R68): rows `vals`, written at the row numbers `idx`. -/
def State.handOff (s : State) (bno : Nat) (r : Run) (v : View) (h : HandOff) (idx : List Nat) (vals : List (List Num)) :
    State :=
  let o := s.convert bno (s.bolt bno) r h vals
  (s.setBolt bno ((o.bolt.placeRows v o.fmt h.selvages idx o.rows).noteTag o h)).noteHandOff r.id o

/-- The stored rank of a patch on a layer of format `f` (R114). -/
def storedRank (f r : Nat) : Nat := if isMx f then ceilDiv r 32 * 32 else r

end Sys2Proof.Machine
end

