-- ==== Sys2Proof/Machine/MemSide.lean ====
section
/-! DEFINITION. The memory side: capacities (R237), line metadata (R238), device-physical addresses (R240, R241), the
translation tables that firmware builds (R246, R247, R527, R528), and the basting directories with their caches and spill
regions (R242 to R244). -/
namespace Sys2Proof.Machine
open Sys2Proof

/-! ### Organisation (R237, R240) -/

/-- The levels of the module's LPDDR6. -/
inductive MemLevel where
  | die
  | package
  | channel
  | subChannel
deriving DecidableEq, Repr

/-- How many of a level a module has (R237). -/
def levelCount : MemLevel → Nat
  | .die => 4
  | .package => 32
  | .channel => 128
  | .subChannel => 256

/-- Payload of the whole module in GiB by part number (R10, R237). -/
def moduleGib (part : BitVec 16) : Nat := if part = 0x1536 then 1536 else 768

/-- Payload capacity in GiB of one of a level (R237). -/
def levelGib (part : BitVec 16) (l : MemLevel) : Nat := moduleGib part / levelCount l

/-- GiB of device-physical space that firmware keeps: its store, the spill regions, the spare pool (R241). -/
def firmwareGib : Nat := 8 + 4 + 1

/-- The allocatable pool in GiB (R241). -/
def poolGib (part : BitVec 16) : Nat := moduleGib part - firmwareGib

/-- The sub-channel index of a device-physical address (R240). -/
def subChannel (dpa : Nat) : Nat :=
  Nat.xor (Nat.xor (bitsOf dpa 16 9) (bitsOf dpa 24 17)) (Nat.xor (bitsOf dpa 32 25) (bitsOf dpa 40 33))

/-- The memory-side die, package, channel and sub-channel that hold a device-physical address (R240). -/
def dpaPlace (dpa : Nat) : Nat × Nat × Nat × Nat :=
  let i := subChannel dpa
  (bitsOf i 1 0, 8 * bitsOf i 1 0 + bitsOf i 4 2, bitsOf i 6 5, bitsOf i 7 7)

/-- The address within the sub-channel (R240). -/
def dpaOffset (dpa : Nat) : Nat := bitsOf dpa 40 17 * 512 + bitsOf dpa 8 0

/-! ### Areas of device memory (log entry 96) -/

/-- The base slot's area. -/
def slotArea (slot : Nat) : Nat := 17 + slot

/-- The area of a patch's region (R118). -/
def patchArea (h : Nat) : Nat := 2 ^ 16 + h

/-- The area of a sleeve's table pages (R527). -/
def tableArea (sl : Nat) : Nat := 2 ^ 18 + sl

/-- The area of a stack lane's region (R144). -/
def laneArea (bno lane : Nat) : Nat := 2 ^ 20 + 4 * bno + lane

/-- The area of the part of a sleeve's share that holds its pattern images and scale histories (R241). -/
def shareArea (sl : Nat) : Nat := 2 ^ 21 + sl

/-- The area of the firmware store, and that of a memory-side die's spill region (R241). -/
def firmwareArea : Nat := 2 ^ 22
def spillArea (die : Nat) : Nat := 2 ^ 22 + 1 + die

/-- Lines of a 64 KiB page. -/
def pageLines : Nat := 512

/-! ### Translation tables (R246, R247) -/

/-- Page bytes of a size code of MAP (R246). -/
def pageBytes (code : Nat) : Nat := match code with | 0 => 65536 | 1 => 2097152 | _ => 1073741824

/-- The mapped page that holds an address. -/
def Sleeve.leafAt (v : Sleeve) (a : Nat) : Option Leaf :=
  v.leaves.find? fun l => decide (l.dva ≤ a ∧ a < l.dva + pageBytes l.code)

/-- Bytes that an entry of a level stands for (R247): level 3 is the root. -/
def entryRange (level : Nat) : Nat :=
  match level with | 3 => 2 ^ 39 | 2 => 2 ^ 30 | 1 => 2 ^ 21 | _ => 2 ^ 16

/-- Bytes that a table line of a level stands for (R528): 16 entries. -/
def tableRange (level : Nat) : Nat :=
  match level with | 3 => 8 * 2 ^ 40 | 2 => 16 * 2 ^ 30 | 1 => 32 * 2 ^ 20 | _ => 2 ^ 20

/-- A table entry (R247). -/
def entryWord (owner keygen : Nat) (addr : BitVec 25) (w leaf : Bool) : BitVec 64 :=
  (0 : BitVec 6) ++ BitVec.ofNat 5 owner ++ BitVec.ofNat 4 keygen ++ (0 : BitVec 8) ++ addr ++ (0 : BitVec 13) ++
    BitVec.ofBool w ++ BitVec.ofBool leaf ++ (1 : BitVec 1)

/-- The entry of a level that an address indexes: a leaf, the page of the next table, or not valid (R247). -/
def Sleeve.entryAt (v : Sleeve) (level a : Nat) : BitVec 64 :=
  match v.leaves.find? fun l => decide (l.code = level ∧ l.dva ≤ a ∧ a < l.dva + pageBytes l.code) with
  | some l => entryWord l.owner l.keygen l.addr l.w true
  | none =>
    if v.leaves.any fun l => decide (l.code < level ∧ l.dva / entryRange level = a / entryRange level) then
      entryWord 16 0 (Config.tablePage v.id level (a / entryRange level)) false false
    else 0

/-- The 128 bytes of the table line that an address indexes (R11, R528). -/
def Sleeve.tableLine (v : Sleeve) (level a : Nat) : List Byte :=
  (List.range 16).flatMap fun i =>
    leBytes 8 (v.entryAt level ((a / tableRange level * 16 + i) * entryRange level)).toNat

/-- The level at which a walk for an address ends: its leaf's, or that of the first entry that is not valid (R247). -/
def Sleeve.walkEnd (v : Sleeve) (a : Nat) : Nat :=
  match v.leafAt a with
  | some l => l.code
  | none => if v.entryAt 3 a = 0 then 3 else if v.entryAt 2 a = 0 then 2 else if v.entryAt 1 a = 0 then 1 else 0

/-- How many tables of entries 2^`sh` bytes wide some pages need. -/
def tableCount (sh : Nat) (leaves : List Leaf) : Nat := ((leaves.map fun l => l.dva / 2 ^ sh).eraseDups).length

/-- Bytes of a sleeve's translation tables that its mappings need (R527): those that page retirement made do not count. -/
def tableCharge (leaves : List Leaf) : Nat :=
  4096 * (1 + tableCount 39 leaves + tableCount 30 (leaves.filter fun l => decide (l.mapped ≤ 1))) +
    256 * tableCount 21 (leaves.filter fun l => decide (l.mapped = 0))

/-- Spare pages that hold the tables of split leaves (R527): a level-0 table for each 2 MiB, with a level-1 table where a
1 GiB leaf was split (log entry 97). -/
def splitPages (leaves : List Leaf) : Nat :=
  let cut := leaves.filter (·.split)
  ceilDiv (4096 * tableCount 30 (cut.filter fun l => decide (l.mapped = 2)) + 256 * tableCount 21 cut) 65536

/-- Cut a larger leaf into 64 KiB leaves (R249). -/
def splitLeaf (l : Leaf) : List Leaf :=
  (List.range (pageBytes l.code / 65536)).map fun i =>
    { l with dva := l.dva + 65536 * i, code := 0, split := l.split || decide (l.code ≠ 0), addr := l.addr + BitVec.ofNat 25 i }

/-- Switch the 64 KiB page that holds an address to another device page (R249). -/
def switchPage (leaves : List Leaf) (page : Nat) (dpa : BitVec 25) : List Leaf :=
  leaves.flatMap fun l =>
    if l.dva ≤ 65536 * page ∧ 65536 * page < l.dva + pageBytes l.code then
      (splitLeaf l).map fun x => if x.dva = 65536 * page then { x with addr := dpa } else x
    else [l]

/-! ### Where a line lies -/

/-- The device-physical page of a 64 KiB page outside the sleeves' spaces: the spare page that replaced it, else the page
that firmware took. -/
def State.areaPage (s : State) (area page : Nat) : BitVec 25 :=
  match s.memSide.moved.find? fun e => e.1 == area && e.2.1 == page with
  | some e => e.2.2
  | none => Config.areaPage area page

/-- The device-physical address of a line (R240, R247); none for a line of a sleeve's space that is not mapped. -/
def State.dpaOf (s : State) (area line : Nat) : Option Nat :=
  if area < 16 then
    (((s.sleeve area).bind fun v => v.leafAt (128 * line)).map fun l => l.addr.toNat * 65536 + (128 * line - l.dva))
  else some ((s.areaPage area (line / pageLines)).toNat * 65536 + 128 * (line % pageLines))

/-- The memory-side die that serves a line. -/
def State.dieOf (s : State) (area line : Nat) : Nat :=
  match s.dpaOf area line with
  | some a => (dpaPlace a).1
  | none => 0

/-! ### Line metadata (R238) -/

/-- The 16 metadata bytes of a line: ITAG, ECC and SEAL. -/
def lineMeta (payload : List Byte) (dpa : Nat) (key : BitVec 16) (owner keygen : Nat) : BitVec 128 :=
  let itag := Config.integrityTag payload dpa key owner keygen
  itag ++ Config.checkSymbols payload (itag ++ key) ++ key

/-- The metadata that a committed line of a sleeve's space carries; none where it is not mapped. -/
def Sleeve.lineMeta (v : Sleeve) (line : Nat) : Option (BitVec 128) :=
  (v.leafAt (128 * line)).map fun l =>
    Machine.lineMeta (memRead v.mem (128 * line) 128) (l.addr.toNat * 65536 + (128 * line - l.dva)) (look 0 v.tags line)
      l.owner l.keygen

/-! ### Basting directories (R242 to R244) -/

/-- Bytes of a die's memory-side cache (R242). -/
def sideCacheBytes : Nat := 64 * 2 ^ 20

/-- Basted and unsettled lines that a die's cache holds: 48 MiB of it (R242). -/
def directoryLines : Nat := 48 * 2 ^ 20 / 128

/-- Slots of a die's spill region: 1 GiB (R241, R243). -/
def spillSlots : Nat := 2 ^ 30 / 128

/-- A command's entries in the basting directories, as area and line. -/
def Run.entries (r : Run) : List (Nat × Nat) := (r.baste.dev.map fun l => (ownerNum r.hdr.owner, l.line)) ++ r.baste.region

/-- Lines of a die among a list. -/
def State.onDie (s : State) (m : Nat) (l : List (Nat × Nat)) : List (Nat × Nat) := l.filter fun e => s.dieOf e.1 e.2 == m

/-- Basted lines of every command. -/
def State.basted (s : State) : List (Nat × Nat) := s.runs.flatMap Run.entries

/-- Lines that lie in spill slots: basted ones and committed ones that are not settled. -/
def State.spilled (s : State) : List (Nat × Nat) := (s.runs.flatMap fun r => r.baste.spilled) ++ s.memSide.spilled

/-- Lines of a die's directory that its cache holds. -/
def State.cachedLines (s : State) (m : Nat) : Nat :=
  (s.onDie m (s.basted ++ s.memSide.unsettled)).length - (s.onDie m s.spilled).length

/-- Which of some new directory entries go to a spill region: those for which the die's cache has no room (R243). -/
def State.spillsOf (s : State) (new : List (Nat × Nat)) : List (Nat × Nat) :=
  (List.range 4).flatMap fun m => (s.onDie m new).drop (directoryLines - s.cachedLines m)

/-- Whether some die's spill region lacks slots for new entries (R243). -/
def State.spillFull (s : State) (new : List (Nat × Nat)) : Bool :=
  (List.range 4).any fun m =>
    let more := (s.onDie m (s.spillsOf new)).length
    decide (more ≠ 0 ∧ spillSlots < (s.onDie m s.spilled).length + more)

/-- New entries of a command outside the sleeve's space: lines of a lane's region or of a patch's (R243). -/
def State.basteRegion (s : State) (id : Nat) (lines : List (Nat × Nat)) : State :=
  let old := match s.findRun id with | some r => r.baste.region | none => []
  let new := lines.eraseDups.filter fun e => !old.contains e
  let away := s.spillsOf new
  s.updRun id fun q => { q with baste := { q.baste with region := q.baste.region ++ new, spilled := q.baste.spilled ++ away } }

/-- Lines committed without having been basted by a command's own words: they wait to be settled (R244). -/
def State.unsettle (s : State) (lines : List (Nat × Nat)) : State :=
  let new := lines.eraseDups.filter fun e => !s.memSide.unsettled.contains e
  { s with memSide := { s.memSide with
      unsettled := s.memSide.unsettled ++ new, spilled := s.memSide.spilled ++ s.spillsOf new } }

/-- A command's directory entries are marked committed (R244). -/
def State.commitEntries (s : State) (r : Run) : State :=
  let new := r.entries.eraseDups.filter fun e => !s.memSide.unsettled.contains e
  { s with memSide := { s.memSide with
      unsettled := s.memSide.unsettled ++ new
      spilled := s.memSide.spilled ++ r.baste.spilled.filter fun e => !s.memSide.spilled.contains e } }

/-- Nothing of some lines is left to settle: the page or region that held them is gone. -/
def State.forgetLines (s : State) (gone : Nat → Nat → Bool) : State :=
  { s with memSide := { s.memSide with
      unsettled := s.memSide.unsettled.filter fun e => !gone e.1 e.2
      spilled := s.memSide.spilled.filter fun e => !gone e.1 e.2 } }

/-! ### Failing pages (R249) -/

/-- Corrected lines of a page that make firmware retire it (R249). -/
def retireLimit : Nat := 16

/-- 24 hours in microseconds (R249). -/
def dayUs : Nat := 24 * 3600 * 1000000

/-- Corrections counted against a page in the last 24 hours. -/
def State.corrections (s : State) (area page : Nat) : Nat :=
  (s.memSide.pageCorr.filter fun e => e.1 == area && e.2.1 == page && decide (s.time.us < e.2.2 + dayUs)).length

/-- Whether firmware is to retire a page: 16 corrected lines in 24 hours, or an uncorrectable one. -/
def State.pageFails (s : State) (area page : Nat) : Bool :=
  s.memSide.pageBad.contains (area, page) || decide (retireLimit ≤ s.corrections area page)

/-- A line of a page was uncorrectable. -/
def State.pageIsBad (s : State) (area page : Nat) : State :=
  { s with memSide := { s.memSide with
      pageBad := if s.memSide.pageBad.contains (area, page) then s.memSide.pageBad else (area, page) :: s.memSide.pageBad } }

/-- What was counted against some pages is forgotten. -/
def State.forgetPages (s : State) (gone : Nat → Nat → Bool) : State :=
  { s with memSide := { s.memSide with
      pageCorr := s.memSide.pageCorr.filter fun e => !gone e.1 e.2.1
      pageBad := s.memSide.pageBad.filter fun e => !gone e.1 e.2
      retiring := s.memSide.retiring.filter fun e => !gone e.1 e.2.1
      moved := s.memSide.moved.filter fun e => !gone e.1 e.2.1 } }

/-- The areas of a sleeve's memory: its space, its tables, its pattern images and histories, its patches' regions and its bolts'
lanes. -/
def State.areasOf (s : State) (v : Sleeve) : List Nat :=
  [v.id, tableArea v.id, shareArea v.id] ++ ((s.patches.filter fun p => p.sleeve == v.id).map fun p => patchArea p.handle) ++
    (boltsIn v.bolts).flatMap fun b => (List.range 4).map (laneArea b)

/-- An area is gone: nothing of it is left to settle or to retire. -/
def State.forgetAreas (s : State) (areas : List Nat) : State :=
  (s.forgetLines fun a _ => areas.contains a).forgetPages fun a _ => areas.contains a

/-- Tenant numbers whose keys are held in this stitch: those of the patches its placed commands reference (R113). -/
def State.heldTenants (s : State) : List Nat :=
  (s.runs.filter fun r => r.place = s.time.stitch.toNat ∧ (r.phase = .placed ∨ r.phase = .running ∨ r.phase = .finished)).flatMap
    fun r => r.patches.filterMap fun h => (s.patch h).map fun p => p.tenant

end Sys2Proof.Machine
end

