-- ==== Sys2Proof/Machine/Issue.lean ====
section
/-! DEFINITION. Issue of a pattern word (R221): when a bolt's sequencer may issue, how issue moves on through loops (R227),
and the units' queues. -/
namespace Sys2Proof.Machine
open Sys2Proof

/-- The word at the bolt's word address, where the sequencer may issue it: the command runs, the stitch is in its working
part, no stall stands, no END has issued, and the bead meter has not stopped the command on the bolt (R44, R221). -/
def State.issuable (s : State) (bno : Nat) : Option (Bolt × Run × PWord) :=
  if s.time.hem then none
  else match s.liveRun bno with
    | none => none
    | some r =>
      let b := s.bolt bno
      if b.ended || decide (b.stall ≠ .none) || r.overOn.contains bno then none
      else match b.pattern[b.pc]? with
        | none => none
        | some w => some (b, r, w)

/-- After the word at `a` issues: the loops that end there repeat or close (R227), giving the loops still open, the rods,
and where issue returns to when a loop repeats. -/
def closeLoops (a : Nat) : List (Nat × Nat × Nat × Nat) → Sparse Nat →
    List (Nat × Nat × Nat × Nat) × Sparse Nat × Option Nat
  | [], rods => ([], rods, none)
  | (la, rod, e, n) :: rest, rods =>
    if e = a then
      if look 0 rods rod + 1 < n then ((la, rod, e, n) :: rest, put 0 rods rod (look 0 rods rod + 1), some (la + 1))
      else closeLoops a rest rods
    else ((la, rod, e, n) :: rest, rods, none)

/-- The bolt after the word whose last address is `a` has issued. -/
def Bolt.after (b : Bolt) (a : Nat) : Bolt :=
  let c := closeLoops a b.loops b.rods
  { b with loops := c.1, rods := c.2.1, pc := c.2.2.getD (a + 1) }

/-- The queue of a unit. -/
def Bolt.queue (b : Bolt) : UnitId → List Prim
  | .matrix a => (look {} b.mu a).queue
  | .rail => b.q.rail
  | .vector => b.q.vector
  | .rotation => b.q.rotation
  | .streamer => b.q.streamer
  | .stack => b.q.stack
  | .seam => b.q.seam

/-- Replace the queue of a unit. -/
def Bolt.setQueue (b : Bolt) (u : UnitId) (l : List Prim) : Bolt :=
  match u with
  | .matrix a => { b with mu := put {} b.mu a { look {} b.mu a with queue := l } }
  | .rail => { b with q := { b.q with rail := l } }
  | .vector => { b with q := { b.q with vector := l } }
  | .rotation => { b with q := { b.q with rotation := l } }
  | .streamer => { b with q := { b.q with streamer := l } }
  | .stack => { b with q := { b.q with stack := l } }
  | .seam => { b with q := { b.q with seam := l } }

/-- Queue depth of a unit, the running primitive included (R221). -/
def queueDepth : UnitId → Nat
  | .matrix _ => 2
  | .rail => 2
  | .vector => 4
  | .rotation => 2
  | .streamer => 8
  | .stack => 4
  | .seam => 4

/-- Whether the units have room for one more primitive each. -/
def Bolt.room (b : Bolt) (us : List UnitId) : Bool := us.all fun u => decide ((b.queue u).length < queueDepth u)

/-- Keeper rows ramp a unit down for `steps` runs of eight cycles (R96). -/
def MatrixUnit.down (u : MatrixUnit) (steps : Nat) : MatrixUnit :=
  { u with level := u.level - 2 * steps, keeper := decide (2 * steps < u.level) }

/-- A matrix unit after `steps` runs of eight cycles (R95, R96): keeper rows hold the level while a dependent instruction waits
or the sequencer stalls the instruction that runs, and otherwise ramp it down to nothing; real rows climb the ramp, from the
level reached where issue resumes. `done` says that a waiting dependent instruction's wait has begun, `stall` that the
sequencer stalls the running instruction. -/
def MatrixUnit.pass (u : MatrixUnit) (steps : Nat) (done stall : Bool) : MatrixUnit :=
  if u.queue ≠ [] ∧ u.stalled = true then
    if stall then (if u.ramping then u.down steps else u)
    else { u with
      cold := false, stalled := false, ramping := false, keeper := false
      level := min 8 ((if u.cold then 2 else u.level) + 2 * steps) }
  else if u.cold then u
  else if u.queue ≠ [] ∧ u.keeper = false then
    { u with level := min 8 (u.level + 2 * steps), keeper := stall || (u.dependent && done), stalled := stall }
  else if u.queue ≠ [] ∧ u.dependent = true then u
  else u.down steps

/-- Time passes on a bolt's matrix units: how much is a free value (log entry 10). In the hem a bolt with a reservation in
the next stitch holds its level (R461). -/
def State.rampOn (s : State) (bno : Nat) : State :=
  let f := s.fresh
  if s.time.hem && s.runs.any (fun r => decide (r.place = s.time.stitch.toNat + 1) && r.hdr.bolts.getLsbD bno) then f.2
  else f.2.updBolt bno fun b => (List.range 4).foldl (fun (b : Bolt) a =>
    { b with mu := put {} b.mu a ((look {} b.mu a).pass (Config.elapsed f.1 / 8) (Config.rowsDone f.1 (4 * bno + a))
      (Config.stalls f.1 (4 * bno + a))) }) b

/-- Every unit of a bolt. -/
def allUnits : List UnitId :=
  [.matrix 0, .matrix 1, .matrix 2, .matrix 3, .rail, .vector, .rotation, .streamer, .stack, .seam]

/-- Whether every primitive of the bolt has completed. -/
def Bolt.idle (b : Bolt) : Bool := allUnits.all fun u => (b.queue u).isEmpty

/-- Put one primitive on each unit and count it issued; `also` are the flags of its other words. -/
def Bolt.enqueue (b : Bolt) (us : List UnitId) (setf : Option Nat) (also : List Nat := []) : Bolt :=
  let p : Prim := { addr := b.pc, no := b.issued, setf := setf, also := also }
  { us.foldl (fun b u => b.setQueue u (b.queue u ++ [p])) b with issued := b.issued + 1 }

/-- Add 1 to a flag (R221); a flag holds 16 bits. -/
def Bolt.addFlag (b : Bolt) (f : Option Nat) : Bolt :=
  match f with
  | none => b
  | some n => { b with flags := put 0 b.flags n ((look 0 b.flags n + 1) % 65536) }

/-- A primitive's flags are added to when it completes: its own word's, then its other words' (R206, R221). -/
def Bolt.addFlags (b : Bolt) (p : Prim) : Bolt := p.also.foldl (fun b f => b.addFlag (some f)) (b.addFlag p.setf)

/-- Issue of a primitive that is a single word, or the last of a chain: queue it and move on. -/
def Bolt.issueOn (b : Bolt) (us : List UnitId) (w : PWord) (also : List Nat := []) : Bolt :=
  let a := b.pc
  (b.enqueue us (wordHdr w).setf also).after a

/-- Issue of a word the sequencer itself completes in its issue cycle. -/
def Bolt.issueHere (b : Bolt) (w : PWord) : Bolt :=
  let a := b.pc
  (({ b with issued := b.issued + 1 } : Bolt).addFlag (wordHdr w).setf).after a

/-- A pattern word's step: nothing changes unless the sequencer may issue and the word at its address has class `cls` and
operation `op` (log entry 2). -/
def State.word (s : State) (bno cls op : Nat)
    (k : Bolt → Run → PWord → Host.Outcome State Fault Refusal) : Host.Outcome State Fault Refusal :=
  match s.issuable bno with
  | none => .next s
  | some (b, r, w) => if (wordHdr w).cls = cls ∧ (wordHdr w).op = op then k b r w else .next s

/-! ### A command's start and end on a bolt (R40, R201, R229) -/

/-- The cursors of an image with a command's overrides (R387). -/
def overrideCursors (cs : List Cursor) (os : List CurOverride) : Sparse Cursor :=
  cs.zipIdx.foldl (fun m e =>
    put {} m e.2 (match os.find? fun o => o.cursor == e.2 with
      | some o => { e.1 with base := o.base, sbase := o.sbase }
      | none => e.1)) []

/-- The scalars of a command on a bolt (R200): S0 to S29 from the argument block, S30 the number of bolts, S31 this
bolt's position among them. -/
def scalarsOn (h : QHdr) (a : ArgBlock) (bno : Nat) : Sparse (BitVec 32) :=
  let bs := boltsIn h.bolts
  let m := (a.scalars.take 30).zipIdx.foldl (fun m e => put 0 m e.2 e.1) []
  put 0 (put 0 m 30 (BitVec.ofNat 32 bs.length)) 31 (BitVec.ofNat 32 (bs.idxOf bno))

/-- A bolt with no command: queued primitives, rods, flags and everything else of its command are discarded (R226), and its
meter closes (R27, R31). -/
def Bolt.clear (b : Bolt) : Bolt :=
  { b with
    run := none, pattern := [], pc := 0, issued := 0, rods := [], flags := [], cursors := [], scalars := [], loops := []
    stall := .none, ended := false, rail := none, tagInfo := [], privTags := [], latch := none, ran := [], sideRows := [], baseRegs := [], held := [], railAcc := []
    chain := none, chainTags := [], chainFlags := [], q := {}, measured := b.measured + b.meter, meter := 0, found := [], foundTags := []
    mu := b.mu.foldl (fun m e =>
      put {} m e.1 { e.2 with queue := [], keeper := !e.2.cold, outs := [], dependent := false, stalled := false, ramping := false }) [] }

/-- The output rows that a stopped command handed off on a bolt are discarded with its tallies (R89): the store is as the
command found it (log entry 86). -/
def Bolt.discard (b : Bolt) : Bolt := { b with mem := b.found, tags := b.foundTags }

/-- The words of a sleeve's image. -/
def Sleeve.wordsOf (v : Sleeve) (handle : Nat) : Nat :=
  match v.patterns.find? fun p => p.handle == handle with | some p => p.words.length | none => 0

/-- The first images of a list that fit the pattern store's 4,096 words together (R233). -/
def fitStore (words : Nat → Nat) : Nat → List Nat → List Nat
  | _, [] => []
  | room, h :: hs => if words h ≤ room then h :: fitStore words (room - words h) hs else fitStore words room hs

/-- The images that a bolt's pattern store holds once a command's is in it: its own, those of the commands placed on the bolt,
which are pinned from admission through their hem, the nearest stitch's first, then the latest of the rest that fit (R233,
log entry 100). -/
def State.storeWith (s : State) (v : Sleeve) (bno handle : Nat) : List Nat :=
  let placed := s.runs.filter fun q => decide (q.hdr.owner = .sleeve v.id ∧ q.phase ≠ .waiting) &&
    q.hdr.bolts.getLsbD bno && decide (q.stop = none)
  let first (q : Run) : Nat := if q.phase = .candidate then minOf (q.candidates.headD 0) q.candidates else q.place
  let pinned := (sorted (fun a b => decide (first a ≤ first b)) placed).map fun q => q.hdr.pattern
  let held := (s.bolt bno).resident
  fitStore v.wordsOf 4096 (handle :: (pinned.filter held.contains ++ held)).eraseDups

/-- Start a RUN on a bolt (R201): the pattern is in the store, cursors and scalars are loaded, the rest is 0. -/
def State.startOn (s : State) (r : Run) (bno : Nat) : State :=
  match r.body, (s.sleeve (ownerNum r.hdr.owner)).bind fun v => (v.patterns.find? fun p => p.handle == r.hdr.pattern).map fun p => (v, p) with
  | .run a, some (v, p) =>
    let b := (s.bolt bno).clear
    (s.setBolt bno { b with
      run := some r.id, pattern := p.words, cursors := overrideCursors p.cursors a.overrides
      scalars := scalarsOn r.hdr a bno, found := b.mem, foundTags := b.tags
      resident := s.storeWith v bno p.handle }).updRun r.id
        fun q => { q with phase := .running }
  | _, _ => s

/-- Whether a run may start on a bolt in this stitch. -/
def State.mayStart (s : State) (bno : Nat) (r : Run) : Bool :=
  (match r.body with | .run _ => true | _ => false) && decide (r.phase = .placed ∨ r.phase = .running) &&
  decide (r.place = s.time.stitch.toNat) && r.hdr.bolts.getLsbD bno && !r.ended.contains bno &&
  !r.overOn.contains bno && decide (r.stop = none)

/-- A bolt without a command takes the next one placed on it in this stitch, in placement order (R40, R44). No command
starts in the hem (R27) or while an unravel holds the bolts (R480). -/
def State.beginNext (s : State) (bno : Nat) : State :=
  if s.time.hem ∨ s.rel.unravel ≠ none ∨ (s.bolt bno).run ≠ none then s
  else match s.runs.find? (s.mayStart bno) with
    | some r => s.startOn r bno
    | none => s

/-- The command leaves a bolt, and the next one placed there starts. -/
def State.leave (s : State) (bno : Nat) : State := (s.updBolt bno Bolt.clear).beginNext bno

/-- The bead meter of a bolt counts on (R31): by how much is an amount of time (log entry 10), and the price, which
BEAD_METER_OVERRUN reports, is not passed. -/
def State.meterOn (s : State) (r : Run) (bno : Nat) : State :=
  let f := s.fresh
  f.2.updBolt bno fun b => { b with meter := min (look 0 r.costs bno) (b.meter + Config.elapsed f.1) }

/-- The meter of a bolt closes on its command (R27, R31): the beads that the command held the bolt are measured for it;
`Bolt.clear` adds them to the bolt's. -/
def State.closeMeter (s : State) (id bno : Nat) : State :=
  s.updRun id fun q => { q with measured := put 0 q.measured bno (s.bolt bno).meter }

/-- A command ends on a bolt (R229): its meter closes below the price. -/
def State.endOn (s : State) (r : Run) (bno : Nat) : State :=
  ((((s.meterOn r bno).closeMeter r.id bno).updRun r.id fun q =>
    let ended := bno :: q.ended
    { q with ended := ended, phase := if (boltsIn q.hdr.bolts).all ended.contains then .finished else q.phase })).leave bno

/-- A command whose END has issued ends on the bolt once every primitive has completed (R229). -/
def State.settle (s : State) (bno : Nat) : State :=
  match s.liveRun bno with
  | none => s
  | some r => if (s.bolt bno).ended && (s.bolt bno).idle then s.endOn r bno else s

/-- A command that has not finished leaves a bolt: its meter closes, what it handed off there is discarded, and the next
command placed there starts. -/
def State.abandon (s : State) (r : Run) (bno : Nat) : State :=
  (((s.meterOn r bno).closeMeter r.id bno).updBolt bno Bolt.discard).leave bno

/-- Stop a run: it issues nothing more on any bolt, and the bolts go on to what is placed next (R116, R149, R226). -/
def State.haltRun (s : State) (r : Run) (st : Status) (detail : Nat) (bno : Nat) : State :=
  let s1 := s.updRun r.id fun q => q.halt st (BitVec.ofNat 56 detail) bno
  (boltsIn r.hdr.bolts).foldl (fun s b => if (s.bolt b).run = some r.id then s.abandon r b else s) s1

end Sys2Proof.Machine
end

