-- ==== Sys2Proof/Machine/Rail.lean ====
section
/-! DEFINITION. The rail engine: the checks of R116, the side path of a forward product (R119 to R123), the four backward
products (R125), and the hand-off of patch gradients under GRAD_MODE (R167 to R169). RAIL words attach to the MATRIX word
that follows; the side path runs with that word (R221). -/
namespace Sys2Proof.Machine
open Sys2Proof

/-! ### Factor layout (R114) -/

/-- Where a target layer's factors lie among a patch's elements: first element, stored rank, K, N and format. -/
structure FactorPlace where
  off : Nat
  rs : Nat
  k : Nat
  n : Nat
  fmt : Nat
deriving DecidableEq, Repr

/-- The columns of a layer that this module holds of a base (R340, R343): all of them, its part of a split layer, or none. -/
def State.heldColumns (s : State) (base : Nat) (e : LayerEntry) : Nat :=
  match s.slotOf base with
  | none => 0
  | some n =>
    let q := s.slot n
    if q.span ≤ 1 ∨ e.shard = q.member then e.n else if e.shard = 15 then e.n / q.span else 0

/-- The places of a patch's target layers in list order, A then B for each (R114): of the layers that this module holds, with the rows
of B for the columns that it holds (R343). -/
def State.places (s : State) (p : Patch) : Nat → List Nat → List (Nat × FactorPlace)
  | _, [] => []
  | off, l :: ls =>
    match s.layerOf p.base l with
    | none => s.places p off ls
    | some e =>
      let rs := storedRank e.fmt p.rank
      let n := s.heldColumns p.base e
      if n = 0 then s.places p off ls else (l, ⟨off, rs, e.k, n, e.fmt⟩) :: s.places p (off + rs * (e.k + n)) ls

/-- Elements before a patch's darned layers. -/
def State.factorElems (s : State) (p : Patch) : Nat := sumOf ((s.places p 0 p.layers).map fun e => e.2.rs * (e.2.k + e.2.n))

/-! ### Darned layers (R133 to R136) -/

/-- The router of an expert layer: the last router layer before it in the layer table (log entry 23). -/
def State.routerOf (s : State) (base layer : Nat) : Option Nat :=
  match s.slotOf base with
  | none => none
  | some n => (((s.slot n).layers.filter fun e => decide (e.kind = 3 ∧ e.layer < layer)).getLast?).map (·.layer)

/-- The extra-expert slots that a patch holds for a router's layers (R134). -/
def State.slotsOf (s : State) (p : Patch) (router : Nat) : List Nat :=
  ((p.darns.filter fun d => d.kind == 4 && s.routerOf p.base d.layer == some router).map (·.slot)).eraseDups

/-- Columns of a darned layer: a router copy has one more for each slot that the patch holds for it (R134). -/
def State.darnCols (s : State) (p : Patch) (d : Darn) (e : LayerEntry) : Nat :=
  if d.kind = 0 then e.n + (s.slotsOf p d.layer).length else e.n

/-- Elements of a darned layer (R133, R134). DESIGN CHOICE (log entry 23): K × N of an expert layer's entry is the shape of one
expert, so an extra expert has K × N elements. -/
def State.darnElems (s : State) (p : Patch) (d : Darn) : Nat :=
  match s.layerOf p.base d.layer with
  | none => 0
  | some e => (if d.kind = 3 then d.rows else e.k) * s.darnCols p d e

/-- Where a patch's darned layers lie among its elements. -/
def State.darnPlaces (s : State) (p : Patch) : Nat → List Darn → List (Darn × Nat × Nat)
  | _, [] => []
  | off, d :: ds => (d, off, s.darnElems p d) :: s.darnPlaces p (off + s.darnElems p d) ds

/-- Where a darned matrix lies among a patch's elements: K rows of N from element `off`, in the base layer's format. -/
structure DarnPlace where
  off : Nat
  k : Nat
  n : Nat
  fmt : Nat
deriving DecidableEq, Repr

/-- The darned copy that a matrix instruction of a layer runs from (R135): a router, a head, or the slot of an expert layer that
the instruction selects (R136). -/
def State.darnOf (s : State) (p : Patch) (layer : Nat) (sel : Option Nat) : Option DarnPlace :=
  match (s.darnPlaces p (s.factorElems p) p.darns).find? fun d => d.1.layer == layer &&
      (d.1.kind == 0 || d.1.kind == 2 || (d.1.kind == 4 && sel == some d.1.slot)) with
  | none => none
  | some d => (s.layerOf p.base layer).map fun e => ⟨d.2.1, e.k, s.darnCols p d.1 e, e.fmt⟩

/-- Column `n` of a darned matrix over `k` contraction positions from `k0`. -/
def darnColumn (p : Patch) (d : DarnPlace) (k0 k n : Nat) : List Num :=
  (List.range k).map fun i => look zero p.copy (d.off + (k0 + i) * d.n + n)

/-- Row `k` of a darned matrix, its first `n` columns. -/
def darnRow (p : Patch) (d : DarnPlace) (k n : Nat) : List Num :=
  (List.range n).map fun j => look zero p.copy (d.off + k * d.n + j)

/-- The place of one target layer; none where the patch does not target it. -/
def State.placeOf (s : State) (p : Patch) (layer : Nat) : Option FactorPlace :=
  ((s.places p 0 p.layers).find? fun e => e.1 == layer).map (·.2)

/-- Row `r` of A: K elements. -/
def rowA (p : Patch) (f : FactorPlace) (r : Nat) : List Num :=
  (List.range f.k).map fun k => look zero p.copy (f.off + r * f.k + k)

/-- Row `n` of B: r_s elements. -/
def rowB (p : Patch) (f : FactorPlace) (n : Nat) : List Num :=
  (List.range f.rs).map fun r => look zero p.copy (f.off + f.rs * f.k + n * f.rs + r)

/-- Re-blocking of one block of 32 along a new dimension (R259): values after decode, scale choice and rounding. -/
def reblock (f : Nat) (vals : List Num) : List Nat × Nat :=
  if vals.any (fun v => !v.isFinite) then (vals.map (fun _ => 0), 255)
  else
    match (amaxOf vals).log2? with
    | none => (vals.map (fun v => (handOffElem f .nearest v).1), 0)
    | some l =>
      let x0 := (clampExp (l - emaxOf f)).1
      let top := handOffElem f .nearest ((amaxOf vals).scale (-x0))
      let above := match top.2, (amaxOf vals).scale (-x0) with
        | .saturated, .fin _ m e =>
          -- the rounded amax exceeds the largest finite value
          let lay := layoutOf f
          let q := floorLog2 m e - lay.mb
          let mx := maxFinite f
          magGt (roundTo .nearest m e q) q mx.1 mx.2
        | _, _ => false
      let x := (clampExp (if above then x0 + 1 else x0)).1
      (vals.map (fun v => (handOffElem f .nearest (v.scale (-x))).1), scaleByte x)

/-- A column as the rail engine reads it in backward: an MX factor is re-blocked along the new contraction (R125). -/
def alongColumn (f : Nat) (col : List Num) : List Num :=
  if isMx f then
    ((chunks 32 (col.length + 1) col).map fun blk =>
      let r := reblock f blk
      r.1.map fun x => readElem f x r.2).flatten
  else col

/-! ### Darned norms and embedding rows (R134, R135) -/

/-- The element of a patch that stands for bits of the base image from `bit` on, where the patch darns the layer of a norm or
embedding that holds them (R133, R135): the patch, its element, and the layer. A row of an embedding that the patch does not
replace has none. -/
def State.darnedElem (s : State) (base kind bit : Nat) (side : Option Nat) : Option (Patch × Nat × LayerEntry) :=
  side.bind fun h => (s.patch h).bind fun p => (s.layerAt base (bit / 8)).bind fun e =>
    ((s.darnPlaces p (s.factorElems p) p.darns).find? fun d => d.1.layer == e.layer && d.1.kind == kind).bind fun d =>
      let i := (bit - 8 * e.offset) / fmtWidth e.fmt
      if kind = 3 then
        ((List.range d.1.rows).find? fun j => Config.darnRow h e.layer j == i / e.n).map fun j => (p, d.2.1 + j * e.n + i % e.n, e)
      else some (p, d.2.1 + i, e)

/-- One row of an operand as the vector unit reads it for row `i` of its word (R135): elements that a LOAD took from a norm layer
of the base which the row's patch darns come from the patch's copy. Row `i` is that of the last RAIL-bearing instruction (log
entry 23). -/
def State.readSide (s : State) (base : Nat) (b : Bolt) (v : View) (i a n : Nat) : List Num :=
  (readRow b.mem v a n).zipIdx.map fun e =>
    let bit := e.2 * fmtWidth v.fmt
    match (b.baseAt (a + bit / 8)).bind fun o => s.darnedElem base 1 (8 * o + bit % 8) (b.sideRows.getD i (none, 0)).1 with
    | some d => look zero d.1.copy d.2.1
    | none => e.1

/-- Whether row `i` of a word reads the row's patch at address `a` (R135, R191). -/
def State.readsPatch (s : State) (base : Nat) (b : Bolt) (i a : Nat) : Bool :=
  ((b.baseAt a).bind fun o => s.darnedElem base 1 (8 * o) (b.sideRows.getD i (none, 0)).1).isSome

/-- An embedding row of the base image with the replacements of a patch applied (R134), as stored bytes of its elements and of its
block scales: none where the patch does not replace the row at element offset `o`. DESIGN CHOICE (log entry 23): a plain
row is delivered at the base layer's SCALE, an MX row blocked as R259 blocks it. -/
def State.embedRow (s : State) (base o : Nat) (side : Option Nat) : Option (LayerEntry × List Byte × List Byte) :=
  (s.layerAt base o).bind fun e =>
    let rb := rowBytes e.fmt e.n
    let start := e.offset + (o - e.offset) / rb * rb
    (s.darnedElem base 3 (8 * start) side).map fun d =>
      let vals := (List.range e.n).map fun j => look zero d.1.copy (d.2.1 + j)
      if isMx e.fmt then
        let r := (chunks 32 (e.n + 1) vals).map (reblock e.fmt)
        (e, packRow e.fmt (r.flatMap (·.1)), r.map fun x => BitVec.ofNat 8 x.2)
      else
        let x := (scaleExp e.scale.toNat).getD 0
        (e, packRow e.fmt (vals.map fun v => (handOffElem e.fmt .nearest (v.scale (-x))).1), [])

/-- The byte that the streamer delivers for offset `o` of the base image to a row of patch `side`, where it is not the image's
own: an element of a replaced embedding row, or one of its block scales (R134, R135). -/
def State.embedByte (s : State) (base o : Nat) (side : Option Nat) : Option Byte :=
  match s.embedRow base o side with
  | some (e, els, _) => els[(o - e.offset) % rowBytes e.fmt e.n]?
  | none =>
    (s.slotOf base).bind fun n => ((s.slot n).layers.find? fun l => isMx l.fmt &&
        decide (l.soffset ≤ o ∧ o < l.soffset + l.k * (l.n / 32))).bind fun l =>
      let per := l.n / 32
      let row := (o - l.soffset) / per
      (s.embedRow base (l.offset + row * rowBytes l.fmt l.n) side).bind fun x => x.2.2[(o - l.soffset) % per]?

/-! ### Checks (R116) -/

/-- The failure of one row, none where it passes. -/
def State.rowFault (s : State) (r : Run) (e : RowEntry) : Option Status :=
  if e.reserved then some 0x72
  else if e.pv then
    match s.patch e.patch with
    | none => some 0x31
    | some p =>
      if p.lost then some 0x31
      else if BitVec.ofNat 16 p.tenant ≠ e.selvage then some 0x30
      else if p.sleeve ≠ ownerNum r.hdr.owner ∨ p.base ≠ r.base then some 0x32
      else none
  else if e.selvage ≠ 0 then some 0x30 else none

/-- The first failing row among the rows of an instruction: its number in the row map, 0 for a reserved bit, and its status. -/
def State.railFault (s : State) (r : Run) : List (Option (Nat × RowEntry)) → Option (Nat × Status)
  | [] => none
  | none :: rest => s.railFault r rest
  | some (i, e) :: rest =>
    match s.rowFault r e with
    | some st => some (if st = 0x72 then 0 else i, st)
    | none => s.railFault r rest

/-- The patch and place of a row's side path: none for a row without a patch or a patch that does not target the
layer. -/
def State.sidePatch (s : State) (layer : Nat) (row : Option (Nat × RowEntry)) : Option (Patch × FactorPlace) :=
  match row with
  | some (_, e) =>
    if e.pv then
      match s.patch e.patch with
      | some p => (s.placeOf p layer).map fun f => (p, f)
      | none => none
    else none
  | none => none

/-- The darned copy that a row's segment runs a layer from (R135): none where its patch does not darn it. -/
def State.sideDarn (s : State) (layer : Nat) (sel : Option Nat) (row : Option (Nat × RowEntry)) : Option (Patch × DarnPlace) :=
  match row with
  | some (_, e) =>
    if e.pv then
      match s.patch e.patch with
      | some p => (s.darnOf p layer sel).map fun d => (p, d)
      | none => none
    else none
  | none => none

/-- Whether a row's patch holds an extra-expert slot of an expert layer. -/
def State.holdsSlot (s : State) (layer j : Nat) (y : RowEntry) : Bool :=
  y.pv && (match s.patch y.patch with
    | some p => p.darns.any fun d => d.kind == 4 && d.layer == layer && d.slot == j
    | none => false)

/-- The first row for which a router's output indices reach a slot that its patch does not have, or that selects one for an
expert layer which it does not have (R136): columns from E_base on are the indices of slots, and a row without a patch has
none. -/
def State.slotFault (s : State) (r : Run) (layer n : Nat) (sel : Option Nat) (rows : List (Option (Nat × RowEntry))) : Option Nat :=
  match s.layerOf r.base layer with
  | none => none
  | some e =>
    if e.kind = 4 then sel.bind fun j => rows.findSome? fun row => match row with
      | none => none
      | some (i, y) => if s.holdsSlot layer j y then none else some i
    else if e.kind ≠ 3 then none
    else rows.findSome? fun row => match row with
      | none => none
      | some (i, y) =>
        let slots := if y.pv then (match s.patch y.patch with | some p => s.slotsOf p layer | none => []) else []
        if (List.range (n - e.experts)).all slots.contains then none else some i

/-- The failure that stops a RAIL-bearing instruction of `n` outputs: a check of R116, or a slot index of R136. -/
def State.sideFault (s : State) (r : Run) (layer n : Nat) (sel : Option Nat) (rows : List (Option (Nat × RowEntry))) : Option (Nat × Status) :=
  match s.railFault r rows with
  | some f => some f
  | none => (s.slotFault r layer n sel rows).map fun i => (i, 0x37)

/-! ### Forward (R119 to R123) -/

/-- The rank latch's format: INT8 for an INT8 base layer, else FP8 E4M3 (R121). -/
def latchFmt (f : Nat) : Nat := if f = 9 then 9 else 2

/-- A latch row: values as the latch holds them, its scale byte, and whether the scale was clamped (R121). -/
def latchRow (f : Nat) (t : List Num) : List Num × Nat × Bool :=
  let lf := latchFmt f
  if t.any (fun v => !v.isFinite) then (t.map (fun _ => Num.nan), 255, false)
  else
    match (amaxOf t).log2? with
    | none => (t.map (fun v => readElem lf (handOffElem lf .nearest v).1 0), 0, false)
    | some l =>
      let c := clampExp (l - (if lf = 9 then 6 else 7))
      (t.map (fun v => readElem lf (handOffElem lf .nearest (v.scale (-c.1))).1 (scaleByte c.1)), scaleByte c.1, c.2)

/-- Stage 1 of one row (R119): the running tallies of x × A, continued from `acc`; `k0` is the position of the
instruction's first element in its chain (R123), and A is read from there (log entry 87). -/
def stage1 (x : List (Option Num)) (k0 : Nat) (side : Option (Patch × FactorPlace)) (acc : List Num) : List Num :=
  match side with
  | none => []
  | some (p, f) =>
    (List.range f.rs).map fun r =>
      (contractProducts (if acc.isEmpty then none else acc[r]?) (List.zipWith fillMul x ((rowA p f r).drop k0))).getD zero

/-- Stage 2 of one row (R122): the side sums of the N outputs, from row 0 of B (log entry 87). -/
def stage2 (t : List Num) (side : Option (Patch × FactorPlace)) : Option (List Num) :=
  match side with
  | none => none
  | some (p, f) => some ((List.range f.n).map fun n => (contract none t (rowB p f n)).getD zero)

/-- Add the side sums of a row into its tallies, as the one addend after the last group (R91, R122). -/
def addSide (row : List Num) (side : Option (List Num)) : List Num :=
  match side with
  | none => row
  | some a => List.zipWith tallyAdd row a

/-! ### Gradient hand-off (R125, R167) -/

/-- A value of the accumulator as the command sees it: its own basting first. -/
def accOf (r : Run) (p : Patch) (e : Nat) : BitVec 16 × BitVec 16 :=
  match r.baste.accs.find? fun a => a.1 == p.handle && a.2.1 == e with
  | some a => (a.2.2.1, a.2.2.2)
  | none => (look 0 p.accFace e, look 0 p.accLining e)

/-- Values as a handed-off row reads back. -/
def readBack (f : Nat) (x : Int) (h : HandedRow) : List Num :=
  (List.zip h.elems (List.range h.elems.length)).map fun e =>
    readElem f e.1.1 (if isMx f then h.scales.getD (e.2 / 32) 0 else scaleByte x)

/-- Number rows of values as a patch's elements from `off` upward. -/
def numbered (off : Nat) (rows : List (List Num)) : List (Nat × Num) :=
  let l := rows.flatten
  List.zip ((List.range l.length).map (off + ·)) l

/-- Put new entries in front of older ones for the same patch and element. -/
def overlay {β : Type} (old : List (Nat × Nat × β)) (p : Nat) (new : List (Nat × β)) : List (Nat × Nat × β) :=
  (new.map fun e => (p, e.1, e.2)) ++ old.filter fun o => !(o.1 == p && new.any fun e => e.1 == o.2.1)

/-- The lines of a patch's region in which some elements lie, `width` bits each: part 0 its gradient region, part 1 its
accumulator, part 2 the rest (log entry 96). -/
def patchLines (h part width : Nat) (elems : List Nat) : List (Nat × Nat) :=
  elems.map fun e => (patchArea h, part * 2 ^ 40 + e * width / 1024)

/-- A magnitude handed off under a tag of a patch joins the step's largest for it (R183). -/
def raiseTop (l : List (Nat × Nat × Num)) (p tag : Nat) (v : Num) : List (Nat × Nat × Num) :=
  match l.find? fun e => e.1 == p && e.2.1 == tag with
  | some e => (p, tag, maxMag e.2.2 v) :: l.filter fun e => !(e.1 == p && e.2.1 == tag)
  | none => (p, tag, v) :: l

/-- The hand-off of rows of one patch's gradient (R167): GRAD_MODE 0 writes them to the gradient region in the PGRAD
format, 1 adds them into the accumulator, 2 adds, writes the sums and clears the accumulator. Under ADD nothing but the
two-ply add counts (R190, R193). DESIGN CHOICE: a DRAIN whose add
leaves an element unchanged writes NaN for it, whatever made it so (log entry 89); matrix unit 0's lanes round it (log
entry 17); a row of a factor whose length is no multiple of 32 ends in a shorter MX block (log entry 114). -/
def State.handGradient (s : State) (bno : Nat) (r : Run) (h : Nat) (off tag : Nat) (rows : List (List Num)) : State :=
  match s.patch h, s.findRun r.id with
  | some p, some r =>
    let rcp := r.recipe 3
    let f := rcp.format
    let elems := numbered off rows
    let sums := elems.map fun e =>
      let a := accOf r p e.1
      (e.1, a, twoPlyAdd e.2 a.1 a.2)
    let left := (sums.filter fun e => e.2.2 = none).length
    let mode := r.hdr.gradMode
    let vals : List (List Num) :=
      if mode = 2 then rows.zipIdx.map fun rw => rw.1.zipIdx.map fun e =>
        let i := off + (sumOf ((rows.take rw.2).map (·.length))) + e.2
        match (sums.find? fun x => x.1 == i) with
        | some (_, _, some v) => decodeB32 (v.1.toNat * 65536 + v.2.toNat)
        | _ => Num.nan
      else rows
    let b := s.bolt bno
    let fixed := isPlain f && decide (rcp.scaleMode = 0)
    let xs := plainScale rcp f [] zero true
    let x := if isMx f then 0 else xs.1
    let c : RoundCtx := ⟨bno, s.time.stitch, fun _ => laneUnitMatrix 0, rcp.stochastic⟩
    let out := handRows f rcp.margin x c b 0 vals
    let blank : StatRec :=
      { tag := tag, kind := 3, cls := r.hdr.cls, fmt := f, scale := if isMx f then 0 else BitVec.ofNat 8 (scaleByte x),
        tenantRows := r.tenantRows, patchOwned := true, satLog := rcp.satLog, fixedByTenant := fixed }
    let counted := (List.zip out.1 vals).foldl (fun st e =>
      countRow st false (List.zip (e.1.elems.map (·.2)) e.2) 0) blank
    let grads := numbered off (out.1.map (readBack f x))
    let accs := sums.filterMap fun e =>
      match e.2.2 with
      | some v => some (e.1, if mode = 2 then (0, 0) else v)
      | none => none
    let st := if mode = 1 then { blank with fmt := 10, scale := 0, fixedByTenant := false, nonfinite := left } else counted
    let s1 := if mode = 1 then s else s.setBolt bno out.2
    let s2 := s1.basteRegion r.id ((if mode = 1 then [] else patchLines h 0 (fmtWidth f) (grads.map (·.1))) ++
      if mode = 0 then [] else patchLines h 1 32 (accs.map (·.1)))
    s2.updRun r.id fun q =>
      { q with
        watch := seen (seen (seen (seen q.watch 0 (decide (mode ≠ 1 ∧ counted.nonfinite > 0)))
          1 (decide (mode ≠ 0 ∧ left > 0))) 3 (decide (mode ≠ 1) && (out.1.any (·.clamped) || (isPlain f && xs.2)))) 4
          (decide (mode ≠ 1) && fixed)
        baste := { q.baste with
          stats := addStat q.baste.stats st
          tops := if mode = 1 ∨ fixed then q.baste.tops else raiseTop q.baste.tops h tag counted.top
          grads := if mode = 1 then q.baste.grads else overlay q.baste.grads h grads
          accs := if mode = 0 then q.baste.accs else overlay q.baste.accs h accs } }
  | _, _ => s

/-! ### Backward (R125) -/

/-- du of a row: dY × Bᵀ, then times s, rounded to the tally at each step. DESIGN CHOICE (log entry 88): s × du stays a
tally value in the products that follow, which are priced in the latch's format (R125). -/
def backDu (dy : List Num) (side : Option (Patch × FactorPlace)) : List Num :=
  match side with
  | none => []
  | some (p, f) =>
    (List.range f.rs).map fun r =>
      let col := alongColumn f.fmt ((List.range f.n).map fun n => look zero p.copy (f.off + f.rs * f.k + n * f.rs + r))
      toTally (((contract none dy col).getD zero).mul p.scale)

/-- The addend to a row of dX: (s × du) × Aᵀ. -/
def backAddend (sdu : List Num) (side : Option (Patch × FactorPlace)) : Option (List Num) :=
  match side with
  | none => none
  | some (p, f) =>
    some ((List.range f.k).map fun k =>
      let col := alongColumn f.fmt ((List.range f.rs).map fun r => look zero p.copy (f.off + r * f.k + k))
      (contract none sdu col).getD zero)

/-- The rows of an instruction that belong to one patch, as row numbers. -/
def patchRows (sides : List (Option (Patch × FactorPlace))) (h : Nat) : List Nat :=
  (List.range sides.length).filter fun i =>
    match sides[i]? with
    | some (some (p, _)) => p.handle == h
    | _ => false

/-- Ascending row numbers cut into runs of consecutive ones: the segments of a patch (R115). -/
def runsOf : List Nat → List (List Nat)
  | [] => []
  | i :: rest => match runsOf rest with
    | (j :: l) :: more => if j = i + 1 then (i :: j :: l) :: more else [i] :: (j :: l) :: more
    | _ => [[i]]

/-- The distinct trained patches of an instruction's rows, in order. -/
def trainedPatches (sides : List (Option (Patch × FactorPlace))) : List (Patch × FactorPlace) :=
  sides.foldl (fun acc o =>
    match o with
    | some (p, f) => if p.train && !(acc.any fun q => q.1.handle == p.handle) then acc ++ [(p, f)] else acc
    | none => acc) []

/-- One product over the rows of a patch's segments: out[a][b] = sum over rows of u[row][a] * v[row][b]. Each segment is a
contraction of its own, and the segments add in ascending row order (R125). -/
def rowProduct (segs : List (List Nat)) (u v : List (List Num)) (na nb : Nat) : List (List Num) :=
  (List.range na).map fun a => (List.range nb).map fun b =>
    (segs.foldl (fun acc rows => contract acc (rows.map fun i => (u.getD i []).getD a zero)
      (rows.map fun i => (v.getD i []).getD b zero)) none).getD zero

/-- dA and dB of every trained patch of the rows hand off to the patch (R125, R167). -/
def State.handPatchGradients (s : State) (bno : Nat) (r : Run) (gtag : Nat) (sides : List (Option (Patch × FactorPlace)))
    (x sdu t dy : List (List Num)) : State :=
  (trainedPatches sides).foldl (fun s pf =>
    let rows := runsOf (patchRows sides pf.1.handle)
    let f := pf.2
    let dA := rowProduct rows sdu x f.rs f.k
    let dB := rowProduct rows dy t f.n f.rs
    (s.handGradient bno r pf.1.handle f.off gtag dA).handGradient bno r pf.1.handle (f.off + f.rs * f.k) gtag dB) s

/-- A RAIL word (R209): it waits for its MATRIX word. -/
def railStep (op : Nat) (bno : Nat) (s : State) : Host.Outcome State Fault Refusal :=
  s.word bno 1 op fun b r w =>
    if b.room [.rail] = false then .next s
    else
      let rw := railWord w
      let map := rowMap b.mem (b.view rw.mapCur).addr 65536
      .next ((s.setBolt bno (({ b with rail := some w } : Bolt).after b.pc)).updRun r.id fun q =>
        { q with tenantRows := q.tenantRows || anyPatch map })

/-- RAIL OP 0 attaches a forward side path to the next MATRIX (R119). -/
def execRailForward (bolt : Nat) (s : State) : Host.Outcome State Fault Refusal := railStep 0 bolt s

/-- RAIL OP 1 attaches the four backward products to the next MATRIX (R125). -/
def execRailBackward (bolt : Nat) (s : State) : Host.Outcome State Fault Refusal := railStep 1 bolt s

end Sys2Proof.Machine
end

