-- ==== Sys2Proof/Machine/Fold.lean ====
section
/-! DEFINITION. How a matrix instruction folds onto the arrays of its mask (R66, R82, R90, R100), and which array's lanes round
each element (R73). -/
namespace Sys2Proof.Machine
open Sys2Proof

/-- Array modes (R82). -/
inductive ArrayMode where
  | fp4
  | fp8
  | bf16
deriving DecidableEq, Repr

/-- The mode an operand of a format asks for alone; a two-ply operand is read as BF16 (R55). -/
def operandMode (f : Nat) : ArrayMode := if f = 8 then .fp4 else if f ≤ 1 ∨ f = 10 then .bf16 else .fp8

/-- The mode of the wider of two operands (R66). -/
def widerMode : ArrayMode → ArrayMode → ArrayMode
  | .bf16, _ => .bf16
  | _, .bf16 => .bf16
  | .fp4, .fp4 => .fp4
  | _, _ => .fp8

/-- The mode of a product (R66). -/
def modeOf (p q : Nat) : ArrayMode := widerMode (operandMode p) (operandMode q)

/-- Outputs of a held slice (R82). -/
def modeWidth : ArrayMode → Nat
  | .fp4 => 256
  | .fp8 => 128
  | .bf16 => 64

/-- M bands of a fold on `a` arrays (R90). -/
def foldBands (a nN : Nat) : Nat := if nN < a ∧ a % nN = 0 then a / nN else 1

/-- The k blocks of a backward instruction in the order of the deal: trained, then frozen (R100). -/
def dealOrder (mask : BitVec 32) (k : Nat) : List Nat :=
  let bs := List.range (ceilDiv k 128)
  (bs.filter fun j => mask.getLsbD j) ++ bs.filter fun j => !mask.getLsbD j

/-- The arrays of a mask, ascending. -/
def arraysIn (mask : Nat) : List Nat := (List.range 4).filter fun a => bitOf mask a

/-- The unit whose lanes round element `i` of an m × n output of a plain or convolution instruction: the array that runs the
element's work unit (R73, R90). -/
def foldUnit (mode : ArrayMode) (arrays : List Nat) (m n i : Nat) : Nat :=
  let w := modeWidth mode
  let bands := foldBands arrays.length (ceilDiv n w)
  laneUnitMatrix (arrays.getD ((i % n / w * bands + i / n / ceilDiv m bands) % arrays.length) 0)

/-- The unit whose lanes round the outputs of k block `j` of a backward instruction: the array to which the block is dealt
(R73, R100). -/
def dealUnit (arrays : List Nat) (mask : BitVec 32) (k j : Nat) : Nat :=
  laneUnitMatrix (arrays.getD ((dealOrder mask k).idxOf j % arrays.length) 0)

end Sys2Proof.Machine
end

