-- ==== Sys2Proof/Machine/Vector.lean ====
section
/-! DEFINITION. VECTOR words (R79, R80, R210) and the two-ply add (R76 to R78). -/
namespace Sys2Proof.Machine
open Sys2Proof

/-- The element operation of a function code (R80, R210); its result is rounded to the tally, a copy is not rounded. -/
def vecFn (f : Nat) (a b c : Num) : Num :=
  match f with
  | 0x00 => a
  | 0x01 => toTally (a.add b)
  | 0x02 => toTally (a.add b.neg)
  | 0x03 => toTally (a.mul b)
  | 0x04 => toTally ((a.mul b).add c)
  | 0x05 => toTally (minMax false a b)
  | 0x06 => toTally (minMax true a b)
  | 0x07 => toTally a.abs
  | 0x08 => toTally a.neg
  | 0x09 => compareResult (a.lt b) a b
  | 0x0A => compareResult (!a.lt b && !b.lt a) a b
  | 0x0B => recip a
  | 0x0C => sqrtFn a
  | 0x0D => rsqrtFn a
  | 0x0E => exp2Fn a
  | 0x0F => log2Fn a
  | 0x10 => expFn a
  | 0x11 => lnFn a
  | 0x12 => tanhFn a
  | 0x13 => sigmoidFn a
  | 0x14 => geluFn a
  | 0x15 => siluFn a
  | 0x16 => divFn a b
  | _ => a

/-- Functions that read operand B. -/
def vecUsesB (f : Nat) : Bool := decide ((1 ≤ f ∧ f ≤ 6) ∨ f = 9 ∨ f = 10 ∨ f = 0x16)

/-- A row's sum in ascending order under R67, or its maximum under R80 taken pairwise (R210). -/
def reduceRow (f : Nat) : List Num → Num
  | [] => zero
  | x :: xs => if f = 0x17 then xs.foldl tallyAdd (toTally x) else toTally (xs.foldl (minMax true) x)

/-- How a bolt's vector unit reads a row of an operand: through cursor view `v`, for row `i` of the word, `n` elements at `a`. -/
abbrev RowReader := View → Nat → Nat → Nat → List Num

/-- The reader of a bolt that runs a command of a base: the local store, with darned norms in place of the base's (R135). -/
def State.reader (s : State) (base : Nat) (b : Bolt) : RowReader := fun v i a n => s.readSide base b v i a n

/-- A tensor operand. -/
def readBy (rd : RowReader) (v : View) (rows cols : Nat) : List (List Num) :=
  (List.range rows).map fun i => rd v i (v.row (rowBytes v.fmt cols) i) cols

/-- Operand A of a word: the running tally under A_T, else the tensor at A_CUR. -/
def vecA (rd : RowReader) (b : Bolt) (v : VectorWord) (running : List (List Num)) : List (List Num) :=
  if v.aT then running else readBy rd (b.view v.a) v.rows v.cols

/-- Operand B of a word by B_MODE (R210). -/
def vecB (rd : RowReader) (b : Bolt) (v : VectorWord) : List (List Num) :=
  if vecUsesB v.func then
    match v.bMode with
    | 0 => readBy rd (b.view v.b) v.rows v.cols
    | 1 => (readColumn b.mem (b.view v.b) v.rows).map fun x => List.replicate v.cols x
    | 2 => (List.range v.rows).map fun i => rd (b.view v.b) i (b.view v.b).addr v.cols
    | _ => List.replicate v.rows (List.replicate v.cols (decodeBits 0 v.imm))
  else []

/-- Operand C, read by FMA. -/
def vecC (rd : RowReader) (b : Bolt) (v : VectorWord) : List (List Num) :=
  if v.func = 4 then readBy rd (b.view v.c) v.rows v.cols else []

/-- The tally values a word leaves (R79): one per element, or one per row for a row reduction. -/
def vecValue (rd : RowReader) (b : Bolt) (v : VectorWord) (running : List (List Num)) : List (List Num) :=
  let a := vecA rd b v running
  if v.func = 0x17 ∨ v.func = 0x18 then a.map fun row => [reduceRow v.func row]
  else
    let bb := vecB rd b v
    let cc := vecC rd b v
    (List.zip a (List.range a.length)).map fun e =>
      (List.zip e.1 (List.range e.1.length)).map fun x =>
        vecFn v.func x.1 ((bb.getD e.2 []).getD x.2 zero) ((cc.getD e.2 []).getD x.2 zero)

/-- The bytes of an operand of one value per row: packed as one row when PITCH is 0 (R203). -/
def columnExtents (v : View) (rows : Nat) : List (Nat × Nat) := if v.pitch = 0 then v.extents v.fmt 1 rows else v.extents v.fmt rows 1

/-- The local-store bytes a word reads. -/
def vecReads (b : Bolt) (v : VectorWord) : List (Nat × Nat) :=
  let va := b.view v.a
  let vb := b.view v.b
  let vc := b.view v.c
  (if v.aT then [] else va.extents va.fmt v.rows v.cols) ++
  (if vecUsesB v.func then
    match v.bMode with
    | 0 => vb.extents vb.fmt v.rows v.cols
    | 1 => columnExtents vb v.rows
    | 2 => vb.extents vb.fmt 1 v.cols
    | _ => []
   else []) ++
  (if v.func = 4 then vc.extents vc.fmt v.rows v.cols else [])

/-- The line tags that go into each row of a word's value: those of operand A, `running` under A_T, and those of the rows
of B and C that the row reads (R205); a row that `own` says to read its patch's norm at an operand's address draws on its
SELVAGE. -/
def vecTags (own : Nat → Nat → Bool) (b : Bolt) (v : VectorWord) (running : List (List (BitVec 16))) : List (List (BitVec 16)) :=
  let va := if v.aT then running else b.rowTags (b.view v.a) v.rows v.cols
  let w := b.view v.b
  let vb := if vecUsesB v.func then
      match v.bMode with
      | 0 => b.rowTags w v.rows v.cols
      | 1 => (List.range v.rows).map fun i => if w.pitch = 0 then b.elemTags w v.rows 0 i else b.elemTags w 1 i 0
      | 2 => List.replicate v.rows (b.tagsIn (w.rowExtents v.cols 0))
      | _ => []
    else []
  let vc := if v.func = 4 then b.rowTags (b.view v.c) v.rows v.cols else []
  let starts (i : Nat) : List Nat :=
    let at_ (c : Nat) : Nat := (b.view c).row (rowBytes (b.view c).fmt v.cols) i
    (if v.aT then [] else [at_ v.a]) ++
    (if vecUsesB v.func then (if v.bMode = 0 then [at_ v.b] else if v.bMode = 2 then [w.addr] else []) else []) ++
    (if v.func = 4 then [at_ v.c] else [])
  (List.range v.rows).map fun i =>
    let mine := if (starts i).any (own i) then [(b.sideRows.getD i (none, 0)).2] else []
    (va.getD i [] ++ vb.getD i [] ++ vc.getD i [] ++ mine).eraseDups

/-- An epilogue word under the shape of its MATRIX (R229). -/
def shaped (v : VectorWord) (rows cols : Nat) : VectorWord := { v with rows := rows, cols := cols }

/-- The words of an epilogue chain at word `addr`, under the shape of its MATRIX (R229). -/
def epilogueWords (b : Bolt) (rows cols : Nat) : Nat → Nat → List (PWord × VectorWord)
  | 0, _ => []
  | f + 1, addr =>
    match b.pattern[addr]? with
    | none => []
    | some w =>
      let v := shaped (vectorWord w) rows cols
      (w, v) :: if v.chain then epilogueWords b rows cols f (addr + 1) else []

/-- The epilogue of a MATRIX word, none where EPI is 0 (R208). -/
def epilogueOf (b : Bolt) (epi rows cols : Nat) : List (PWord × VectorWord) :=
  if epi = 0 then [] else epilogueWords b rows cols 4096 epi

/-- The values of an epilogue over the hand-off value `t` (R229). -/
def epilogue (rd : RowReader) (b : Bolt) (ws : List (PWord × VectorWord)) (t : List (List Num)) : List (List Num) :=
  ws.foldl (fun t w => vecValue rd b w.2 t) t

/-- The line tags that go into each row of an epilogue's value. -/
def epilogueTags (own : Nat → Nat → Bool) (b : Bolt) (ws : List (PWord × VectorWord)) (t : List (List (BitVec 16))) : List (List (BitVec 16)) :=
  ws.foldl (fun t w => vecTags own b w.2 t) t

/-- The bytes an epilogue reads. -/
def epilogueReads (b : Bolt) (ws : List (PWord × VectorWord)) : List (Nat × Nat) := ws.flatMap fun w => vecReads b w.2

/-- The flags of words that complete with another primitive (R206). -/
def flagsOf (ws : List PWord) : List Nat := ws.filterMap fun w => (wordHdr w).setf

/-- A VECTOR word of function `f` (R210). A word with CHAIN leaves its values in the tally for the next word; the last
word of the primitive hands off under TAG and KIND to D. -/
def vectorStep (f : Nat) (bno : Nat) (s : State) : Host.Outcome State Fault Refusal :=
  s.word bno 2 0 fun b r w =>
    let v := vectorWord w
    if v.func ≠ f ∨ b.room [.vector] = false then .next s
    else
      let val := vecValue (s.reader r.base b) b v (b.chain.getD [])
      let tags := vecTags (s.readsPatch r.base b) b v b.chainTags
      if v.chain then within bno (vecReads b v) (s.setBolt bno (({ b with
        chain := some val, chainTags := tags, chainFlags := b.chainFlags ++ flagsOf [w] } : Bolt).after b.pc))
      else
        let vd := b.view v.d
        let rcp := r.recipe v.kind
        let flat := decide (f = 0x17 ∨ f = 0x18) && decide (vd.pitch = 0)
        let rows := if flat then [val.flatten] else val
        let rot := s.rotationOf r b rcp v.consEn v.consS
        let h : HandOff := ⟨v.tag, v.kind, rot, fun _ => laneUnitVector, [], if flat then [tags.flatten] else tags⟩
        within bno (vecReads b v ++ vd.extents rcp.format rows.length (rows.headD []).length)
          ((s.setBolt bno (({ b with chain := none, chainTags := [], chainFlags := [] } : Bolt).issueOn [.vector] w
            b.chainFlags)).handOff bno r vd h
            (List.range rows.length) rows)

/-- The 16-bit halves of a two-ply operand. -/
def readHalves (m : Mem) (v : View) (rows cols : Nat) : List (List (BitVec 16)) :=
  (List.range rows).map fun i =>
    (unpackRow 10 cols (memRead m (v.row (2 * cols) i) (2 * cols))).map (BitVec.ofNat 16 ·)

/-- The tags that go into each line of a two-ply destination `d`: line, row, and the tags of the elements that the line
holds, from the increment, the face and the lining (R205). -/
def plyDraws (b : Bolt) (v : VectorWord) (d : View) : List (Nat × Nat × List (BitVec 16)) :=
  (List.range v.rows).flatMap fun i => (List.range v.cols).flatMap fun j =>
    let src := (if v.aT then b.chainTags.getD i [] else b.elemTags (b.view v.a) v.cols i j) ++
      b.elemTags (b.view v.c) v.cols i j ++ b.elemTags (b.view v.d) v.cols i j
    (linesOf (d.row (2 * v.cols) i + 2 * j) 2).map fun l => (l, i, src)

/-- All tags that go into a line. -/
def drawnInto (ds : List (Nat × Nat × List (BitVec 16))) (l : Nat) : List (BitVec 16) :=
  ((ds.filter fun d => d.1 == l).flatMap (·.2.2)).eraseDups

/-- The first row with an output line that draws on two tags (R205). -/
def plyMixed (ds : List (Nat × Nat × List (BitVec 16))) : Option Nat :=
  (ds.find? fun d => decide (1 < (drawnInto ds d.1).length)).map (·.2.1)

/-- Write the halves back; each line takes the tag it draws on. -/
def writeHalves (b : Bolt) (v : View) (cols : Nat) (vals : List (List (BitVec 16)))
    (ds : List (Nat × Nat × List (BitVec 16))) : Bolt :=
  let b1 := (List.zip vals (List.range vals.length)).foldl (fun (b : Bolt) e =>
    b.write (v.row (2 * cols) e.2) (packRow 10 (e.1.map (·.toNat))) 0) b
  { b1 with tags := ((ds.map (·.1)).eraseDups).foldl (fun t l => put 0 t l ((drawnInto ds l).headD 0)) b1.tags }

/-- VECTOR, FUNC 0x00. -/
def execVectorCopy (bolt : Nat) (s : State) : Host.Outcome State Fault Refusal := vectorStep 0x00 bolt s

/-- VECTOR, FUNC 0x01. -/
def execVectorAdd (bolt : Nat) (s : State) : Host.Outcome State Fault Refusal := vectorStep 0x01 bolt s

/-- VECTOR, FUNC 0x02. -/
def execVectorSubtract (bolt : Nat) (s : State) : Host.Outcome State Fault Refusal := vectorStep 0x02 bolt s

/-- VECTOR, FUNC 0x03. -/
def execVectorMultiply (bolt : Nat) (s : State) : Host.Outcome State Fault Refusal := vectorStep 0x03 bolt s

/-- VECTOR, FUNC 0x04. -/
def execVectorFma (bolt : Nat) (s : State) : Host.Outcome State Fault Refusal := vectorStep 0x04 bolt s

/-- VECTOR, FUNC 0x05. -/
def execVectorMinimum (bolt : Nat) (s : State) : Host.Outcome State Fault Refusal := vectorStep 0x05 bolt s

/-- VECTOR, FUNC 0x06. -/
def execVectorMaximum (bolt : Nat) (s : State) : Host.Outcome State Fault Refusal := vectorStep 0x06 bolt s

/-- VECTOR, FUNC 0x07. -/
def execVectorAbsoluteValue (bolt : Nat) (s : State) : Host.Outcome State Fault Refusal := vectorStep 0x07 bolt s

/-- VECTOR, FUNC 0x08. -/
def execVectorNegate (bolt : Nat) (s : State) : Host.Outcome State Fault Refusal := vectorStep 0x08 bolt s

/-- VECTOR, FUNC 0x09. -/
def execVectorLessThan (bolt : Nat) (s : State) : Host.Outcome State Fault Refusal := vectorStep 0x09 bolt s

/-- VECTOR, FUNC 0x0A. -/
def execVectorEqual (bolt : Nat) (s : State) : Host.Outcome State Fault Refusal := vectorStep 0x0A bolt s

/-- VECTOR, FUNC 0x0B. -/
def execVectorReciprocal (bolt : Nat) (s : State) : Host.Outcome State Fault Refusal := vectorStep 0x0B bolt s

/-- VECTOR, FUNC 0x0C. -/
def execVectorSquareRoot (bolt : Nat) (s : State) : Host.Outcome State Fault Refusal := vectorStep 0x0C bolt s

/-- VECTOR, FUNC 0x0D. -/
def execVectorReciprocalSquareRoot (bolt : Nat) (s : State) : Host.Outcome State Fault Refusal := vectorStep 0x0D bolt s

/-- VECTOR, FUNC 0x0E. -/
def execVectorExp2 (bolt : Nat) (s : State) : Host.Outcome State Fault Refusal := vectorStep 0x0E bolt s

/-- VECTOR, FUNC 0x0F. -/
def execVectorLog2 (bolt : Nat) (s : State) : Host.Outcome State Fault Refusal := vectorStep 0x0F bolt s

/-- VECTOR, FUNC 0x10. -/
def execVectorExp (bolt : Nat) (s : State) : Host.Outcome State Fault Refusal := vectorStep 0x10 bolt s

/-- VECTOR, FUNC 0x11. -/
def execVectorNaturalLog (bolt : Nat) (s : State) : Host.Outcome State Fault Refusal := vectorStep 0x11 bolt s

/-- VECTOR, FUNC 0x12. -/
def execVectorTanh (bolt : Nat) (s : State) : Host.Outcome State Fault Refusal := vectorStep 0x12 bolt s

/-- VECTOR, FUNC 0x13. -/
def execVectorSigmoid (bolt : Nat) (s : State) : Host.Outcome State Fault Refusal := vectorStep 0x13 bolt s

/-- VECTOR, FUNC 0x14. -/
def execVectorGelu (bolt : Nat) (s : State) : Host.Outcome State Fault Refusal := vectorStep 0x14 bolt s

/-- VECTOR, FUNC 0x15. -/
def execVectorSilu (bolt : Nat) (s : State) : Host.Outcome State Fault Refusal := vectorStep 0x15 bolt s

/-- VECTOR, FUNC 0x16. -/
def execVectorDivision (bolt : Nat) (s : State) : Host.Outcome State Fault Refusal := vectorStep 0x16 bolt s

/-- VECTOR, FUNC 0x17. -/
def execVectorRowSum (bolt : Nat) (s : State) : Host.Outcome State Fault Refusal := vectorStep 0x17 bolt s

/-- VECTOR, FUNC 0x18. -/
def execVectorRowMaximum (bolt : Nat) (s : State) : Host.Outcome State Fault Refusal := vectorStep 0x18 bolt s

/-- The two-ply add of tensors (R76 to R78): new faces, new linings, and how many elements stayed unchanged. -/
def twoPlyTensor (delta : List (List Num)) (face lining : List (List (BitVec 16))) :
    List (List (BitVec 16)) × List (List (BitVec 16)) × Nat :=
  let res := List.zipWith (fun ds fl => List.zipWith (fun d (x : BitVec 16 × BitVec 16) => (x, twoPlyAdd d x.1 x.2)) ds fl)
    delta (List.zipWith List.zip face lining)
  (res.map (·.map fun x => (x.2.getD x.1).1), res.map (·.map fun x => (x.2.getD x.1).2),
   (res.flatten.filter fun x => x.2 = none).length)

/-- TWO_PLY_ADD, FUNC 0x19: A is the increment, C the face, D the lining. Each element left unchanged counts as
non-finite and sets TWOPLY; nothing else is counted (R78, R190). The lines written keep the tag of their sources, and a line
that draws on two stops the command with 0x30 (R205). -/
def execTwoPlyAdd (bolt : Nat) (s : State) : Host.Outcome State Fault Refusal :=
  s.word bolt 2 0 fun b r w =>
    let v := vectorWord w
    if v.func ≠ 0x19 ∨ b.room [.vector] = false then .next s
    else
      let vf := b.view v.c
      let vl := b.view v.d
      let df := plyDraws b v vf
      let dl := plyDraws b v vl
      match plyMixed (df ++ dl) with
      | some i => .next (s.haltRun r 0x30 i bolt)
      | none =>
      let res := twoPlyTensor ((vecA (s.reader r.base b) b v (b.chain.getD [])).map (·.map toTally)) (readHalves b.mem vf v.rows v.cols)
        (readHalves b.mem vl v.rows v.cols)
      let b1 := writeHalves (writeHalves { b with chain := none, chainTags := [], chainFlags := [] } vf v.cols res.1 df) vl
        v.cols res.2.1 dl
      let info : TagInfo := ⟨v.tag, 10, 0, 0, v.kind⟩
      let b2 := { b1 with tagInfo := info :: b1.tagInfo.filter fun t => t.tag != v.tag }
      let st : StatRec :=
        { tag := v.tag, kind := v.kind, cls := r.hdr.cls, fmt := 10, channels := v.cols, nonfinite := res.2.2,
          tenantRows := r.tenantRows }
      within bolt (vecReads b v ++ vf.extents 10 v.rows v.cols ++ vl.extents 10 v.rows v.cols)
        ((s.setBolt bolt (b2.issueOn [.vector] w b.chainFlags)).updRun r.id fun q =>
          { q with
            watch := seen q.watch 1 (decide (res.2.2 > 0))
            baste := { q.baste with stats := addStat q.baste.stats st } })

end Sys2Proof.Machine
end

