-- ==== Sys2Proof/Machine/Matrix.lean ====
section
/-! DEFINITION. MATRIX words: plain, backward and convolution (chapter 04), with the side path of an attached RAIL and the
epilogue (R229). A fold never splits a contraction, so a result does not depend on the array mask (R91). -/
namespace Sys2Proof.Machine
open Sys2Proof

/-- The Q operand's columns, each of `k` contraction positions: an MX Q lies with its contraction innermost, as the
transposed read leaves it (R85); a plain Q lies as k rows of n (log entry 13). -/
def qColumns (b : Bolt) (v : View) (k n : Nat) : List (List Num) :=
  if isMx v.fmt then readTensor b.mem v n k
  else
    let q := readTensor b.mem v k n
    (List.range n).map fun j => q.map fun row => row.getD j zero

/-- The bytes a Q operand touches. -/
def qExtents (v : View) (k n : Nat) : List (Nat × Nat) :=
  if isMx v.fmt then v.extents v.fmt n k else v.extents v.fmt k n

/-- The tallies of one row of a product against columns `qs`, added into `acc` where it holds a column (R64, R94): a partial
K pass is filled with zeros (R90, R91). -/
def productRow (acc : Option (List Num)) (p : List (Option Num)) (qs : List (List Num)) : List Num :=
  qs.zipIdx.map fun q => (contractProducts (acc.bind fun row => row[q.2]?) (fillPass (List.zipWith fillMul p q.1))).getD zero

/-- Values that are all read, none zero-filled. -/
def given (l : List (List Num)) : List (List (Option Num)) := l.map (·.map some)

/-- The tallies of a product, added into `acc` where it holds a row. -/
def product (acc : List (List Num)) (ps : List (List (Option Num))) (qs : List (List Num)) : List (List Num) :=
  ps.zipIdx.map fun p => productRow acc[p.2]? p.1 qs

/-- The tallies of a product whose rows run from their own Q where `own` gives one (R135). -/
def productOwn (acc : List (List Num)) (ps : List (List (Option Num))) (qs : List (List Num))
    (own : List (Option (List (List Num)))) : List (List Num) :=
  ps.zipIdx.map fun p => productRow acc[p.2]? p.1 ((own.getD p.2 none).getD qs)

/-! ### Convolution reads (R103 to R106) -/

/-- The input coordinate of one dimension: none where it lies outside the block or on an inserted zero. -/
def coord (d : ConvDim) (flip : Bool) (ins o k : Nat) : Option Nat :=
  let k' := if flip then d.ks - 1 - k else k
  let i : Int := (o * d.s : Nat) - (d.p : Int) + (k' * d.d : Nat)
  if i < 0 then none
  else
    let n := i.toNat
    if n % (ins + 1) ≠ 0 then none
    else if n / (ins + 1) < d.inExt then some (n / (ins + 1)) else none

/-- Where the segment of input channels at block coordinates (z, y, x) starts. -/
def segmentAddr (b : Bolt) (c : Cursor) (z y x : Nat) : Nat :=
  (((c.base : Int) + (c.stride.getD 3 0) * (b.rod (c.rsel.getD 3 0) : Int) + (c.stride.getD 0 0) * (x : Int) +
    (c.stride.getD 1 0) * (y : Int) + (c.stride.getD 2 0) * (z : Int)).emod (2 ^ 48)).toNat

/-- The address of the channel segment of output position `o` and kernel offset `kk`, none where it is zero-filled. -/
def convSegment (b : Bolt) (c : Cursor) (e : ExtConv) (o kk : Nat) : Option Nat :=
  let ox := o % e.x.outExt
  let oy := o / e.x.outExt % e.y.outExt
  let oz := o / (e.x.outExt * e.y.outExt)
  let kx := kk % e.x.ks
  let ky := kk / e.x.ks % e.y.ks
  let kz := kk / (e.x.ks * e.y.ks)
  match coord e.z e.flip e.insert oz kz, coord e.y e.flip e.insert oy ky, coord e.x e.flip e.insert ox kx with
  | some z, some y, some x => some (segmentAddr b c z y x)
  | _, _, _ => none

/-- Input channels of a convolution: K over the kernel volume. -/
def convChannels (e : ExtConv) (k : Nat) : Nat := k / (e.z.ks * e.y.ks * e.x.ks)

/-- The rows of P of a convolution: kernel offsets major, channels minor; nothing read outside the block (R105). -/
def convRows (b : Bolt) (cur m k : Nat) (e : ExtConv) : List (List (Option Num)) :=
  let c := b.cursor cur
  let v := b.view cur
  let ch := convChannels e k
  (List.range m).map fun o =>
    ((List.range (e.z.ks * e.y.ks * e.x.ks)).map fun kk =>
      match convSegment b c e o kk with
      | some a => (readRow b.mem v a ch).map some
      | none => List.replicate ch none).flatten

/-- The bytes that each output position of a convolution reads of its input, block scales among them. -/
def convReads (b : Bolt) (cur m k : Nat) (e : ExtConv) : List (List (Nat × Nat)) :=
  let c := b.cursor cur
  let v := b.view cur
  let ch := convChannels e k
  (List.range m).map fun o => ((List.range (e.z.ks * e.y.ks * e.x.ks)).filterMap fun kk =>
    (convSegment b c e o kk).map fun a =>
      (a, rowBytes v.fmt ch) :: (if isMx v.fmt then [(v.scaleAt v.fmt a, ch / 32)] else [])).flatten

/-- The bytes a convolution reads of its input. -/
def convExtents (b : Bolt) (cur m k : Nat) (e : ExtConv) : List (Nat × Nat) := (convReads b cur m k e).flatten

/-! ### The attached RAIL -/

/-- The first token of an instruction's rows: S[TOK_S] + ROD[TOK_ROD] * TOK_STEP (R209). DESIGN CHOICE (log entry 114): an offset
that comes out negative is 0. -/
def tokenOf (b : Bolt) (rl : RailWord) : Nat :=
  (((b.scalar rl.tokS).toNat : Int) + (b.rod rl.tokRod : Int) * rl.tokStep).toNat

/-- The row-map rows of an instruction's m rows under its RAIL; none without one. -/
def railRows (b : Bolt) (m : Nat) : List (Option (Nat × RowEntry)) :=
  match b.rail with
  | none => []
  | some w =>
    let rl := railWord w
    rowsFor (rowMap b.mem (b.view rl.mapCur).addr 65536) (tokenOf b rl) m

/-- Patch and SELVAGE of an instruction's row. -/
def sideOf (row : Option (Nat × RowEntry)) : Option Nat × BitVec 16 :=
  match row with
  | some (_, e) => (if e.pv then some e.patch else none, e.selvage)
  | none => (none, 0)

/-- SELVAGE of each output row under a row map, none without one (R117, R205). -/
def selvagesOf (rows : List (Option (Nat × RowEntry))) : List (BitVec 16) :=
  rows.map fun r => match r with | some (_, e) => e.selvage | none => 0

/-- The result of a forward side path: the rank latch it leaves, stage 1 tallies, side sums by row, and whether a latch
scale was clamped. -/
structure SideResult where
  latch : Option RankLatch
  acc : List (List Num)
  sums : List (Option (List Num))
  clamped : Bool
deriving DecidableEq, Repr

/-- The forward side path of an instruction (R119 to R123): `x` its rows of P, `acc` the chain's stage 1 tallies, `last`
whether stage 2 runs, `k0` the position of its first element in its chain. REUSE takes the latch the previous RAIL-bearing
instruction left. -/
def forwardSide (b : Bolt) (rl : RailWord) (lf : Nat) (sides : List (Option (Patch × FactorPlace)))
    (x : List (List (Option Num))) (k0 : Nat) (acc : List (List Num)) (last : Bool) : SideResult :=
  if !last then
    ⟨b.latch, if rl.reuse then acc else (List.zip x sides).zipIdx.map (fun e => stage1 e.1.1 k0 e.1.2 (acc.getD e.2 [])),
      [], false⟩
  else
    let scaled : List (List Num × Nat × Bool) :=
      if rl.reuse then
        match b.latch with
        | some l => (List.zip l.rows l.scales).map fun e => (e.1, e.2.toNat, false)
        | none => []
      else (List.zip x sides).zipIdx.map fun e =>
        let t := stage1 e.1.1 k0 e.1.2 (acc.getD e.2 [])
        let s := match e.1.2 with | some (p, _) => p.scale | none => zero
        latchRow lf (t.map fun v => toTally (v.mul s))
    { latch := some ⟨scaled.map (·.1), scaled.map (fun e => BitVec.ofNat 8 e.2.1), tokenOf b rl⟩
      acc := []
      sums := sides.zipIdx.map fun e => stage2 (scaled.getD e.2 ([], 0, false)).1 e.1
      clamped := scaled.any fun e => e.2.2 }

/-- A matrix unit takes one more instruction, which reads `reads` and writes `writes` (R93, R95, R96): a cold unit starts its
rows; one that ramps down with keeper rows goes on from the level reached, `reached` steps on; behind a running instruction
it waits, with keeper rows later where it reads that instruction's outputs. -/
def MatrixUnit.take (u : MatrixUnit) (reached : Nat) (reads writes : List (Nat × Nat)) : MatrixUnit :=
  { u with
    cold := false
    level := if u.cold then 2 else if u.queue.isEmpty then max 2 (u.level - 2 * (reached % 3)) else u.level
    keeper := u.keeper && !u.queue.isEmpty, outs := writes, dependent := !u.queue.isEmpty && anyMeet u.outs reads }

/-- The bolt's matrix units when a MATRIX issues on arrays of its mask: on a wholly cold bolt the first row waits for the
bolt's start slot (R462). -/
def Bolt.warmUp (b : Bolt) (arrays : List Nat) (reads writes : List (Nat × Nat)) : Bolt :=
  let still := (List.range 4).all fun a => (look {} b.mu a).cold
  arrays.foldl (fun b a =>
    let u := look {} b.mu a
    { b with mu := put {} b.mu a (if still then { u with outs := writes }
        else u.take (Config.rampReached (b.run.getD 0) b.issued) reads writes) }) b

/-- The units of a MATRIX: its arrays, and the rail engine when a RAIL is attached. -/
def Bolt.matrixUnits (b : Bolt) (arrays : List Nat) : List UnitId :=
  arrays.map UnitId.matrix ++ if b.rail = none then [] else [UnitId.rail]

/-- A MATRIX issues with its RAIL; `epi` are the words of its epilogue. -/
def Bolt.issueMatrix (b : Bolt) (w : PWord) (arrays : List Nat) (lastAddr : Nat) (epi : List PWord)
    (reads writes : List (Nat × Nat)) : Bolt :=
  ({ (b.warmUp arrays reads writes).enqueue (b.matrixUnits arrays) (wordHdr w).setf (flagsOf (b.rail.toList ++ epi)) with
    rail := none
    ran := ((railRows b (matrixWord w).m).filterMap (fun r => (sideOf r).1) ++ b.ran).eraseDups
    sideRows := if b.rail.isNone then b.sideRows else (railRows b (matrixWord w).m).map sideOf }).after lastAddr

/-- The tallies that an instruction with CONT continues. -/
def heldFor (b : Bolt) (mw : MatrixWord) : Option Held := if mw.cont then b.held.find? fun h => h.mask == mw.mask else none

/-- The format that sets the rank latch's, for the base layer of a RAIL. -/
def State.layerFmt (s : State) (base layer : Nat) : Nat :=
  match s.layerOf base layer with
  | some e => e.fmt
  | none => 2

/-- A darned matrix as the Q of a forward product: `n` columns of `k` positions from `k0` of the chain, MX blocks along the
contraction (R85, R135). -/
def darnForward (k0 k n : Nat) (d : Patch × DarnPlace) : List (List Num) :=
  (List.range n).map fun j => alongColumn d.2.fmt (darnColumn d.1 d.2 k0 k j)

/-- A darned matrix as the Wᵀ of a backward product. -/
def darnBackward (k n : Nat) (d : Patch × DarnPlace) : List (List Num) := (List.range k).map fun i => darnRow d.1 d.2 i n

/-- The extra-expert slot that a RAIL-bearing instruction whose Q lies at view `vq` selects. -/
def State.railSlot (s : State) (b : Bolt) (r : Run) (vq : View) : Option Nat :=
  b.rail.bind fun w => s.slotSel r.base (railWord w).layer (b.baseAt vq.addr)

/-- What stops a RAIL-bearing instruction before it uses a factor (R116, R136). -/
def State.railStop (s : State) (b : Bolt) (r : Run) (n : Nat) (sel : Option Nat) (rows : List (Option (Nat × RowEntry))) :
    Option (Nat × Status) :=
  b.rail.bind fun w => s.sideFault r (railWord w).layer n sel rows

/-- Plain and convolution forms (R90, R94, R103): `ps` their rows of P, `drawn` the line tags of each row, `es` the bytes
they read. -/
def forwardForm (s : State) (bno : Nat) (b : Bolt) (r : Run) (w : PWord) (lastAddr : Nat) (ps : List (List (Option Num)))
    (drawn : List (List (BitVec 16))) (es : List (Nat × Nat)) : Host.Outcome State Fault Refusal :=
  let mw := matrixWord w
  let arrays := arraysIn mw.mask
  let before := heldFor b mw
  let k0 := match before with | some h => h.k | none => 0
  let rows := railRows b mw.m
  let held := b.held.filter fun h => h.mask != mw.mask
  let vq := b.view mw.q
  let sel := s.railSlot b r vq
  let qTags := b.tagsIn (qExtents vq mw.k mw.n)
  let earlier := match before with | some h => h.drawn | none => []
  let drawn := drawn.zipIdx.map fun e => (e.1 ++ qTags ++ earlier.getD e.2 []).eraseDups
  match s.railStop b r mw.n sel rows with
  | some (i, st) => .next (s.haltRun r st i bno)
  | none =>
    let rl := b.rail.map railWord
    let own := match rl with
      | some k => rows.map fun row => (s.sideDarn k.layer sel row).map (darnForward k0 mw.k mw.n)
      | none => []
    let t := productOwn (match before with | some h => h.vals | none => []) ps (qColumns b vq mw.k mw.n) own
    let acc := if mw.cont then ((b.railAcc.find? fun e => e.1 == mw.mask).map (·.2)).getD [] else []
    let side : SideResult :=
      match rl with
      | none => ⟨b.latch, [], [], false⟩
      | some k => forwardSide b k (s.layerFmt r.base k.layer) (rows.map (s.sidePatch k.layer)) ps k0 acc (!mw.hold)
    let railAcc := b.railAcc.filter fun e => e.1 != mw.mask
    let t' := t.zipIdx.map fun e => addSide e.1 (side.sums.getD e.2 none)
    if mw.hold then
      let b1 := { b with
        held := ⟨mw.mask, mw.m, mw.n, k0 + mw.k, mw.out, t, drawn⟩ :: held
        railAcc := if rl.isNone then railAcc else (mw.mask, side.acc) :: railAcc }
      within bno es (s.setBolt bno (b1.issueMatrix w arrays lastAddr [] es []))
    else
      let b1 := { b with held := held, railAcc := railAcc, latch := side.latch }
      let vo := b.view mw.out
      let rcp := r.recipe mw.kind
      let ep := epilogueOf b mw.epi mw.m mw.n
      let h : HandOff := ⟨mw.tag, mw.kind, s.rotationOf r b rcp mw.consEn mw.consS,
        foldUnit (modeOf (b.view mw.p).fmt vq.fmt) arrays mw.m mw.n, selvagesOf rows, epilogueTags (s.readsPatch r.base b) b ep drawn⟩
      let outs := vo.extents rcp.format mw.m mw.n
      within bno (es ++ epilogueReads b ep ++ outs)
        (((s.setBolt bno (b1.issueMatrix w arrays lastAddr (ep.map (·.1)) es outs)).updRun r.id fun q =>
          { q with watch := seen q.watch 3 side.clamped }).handOff bno r vo h (List.range mw.m) (epilogue (s.reader r.base b) b ep t'))

/-- MATRIX OP 0 (R90). -/
def execMatrixPlain (bolt : Nat) (s : State) : Host.Outcome State Fault Refusal :=
  s.word bolt 0 0 fun b r w =>
    let mw := matrixWord w
    if b.room (b.matrixUnits (arraysIn mw.mask)) = false then .next s
    else
      let vp := b.view mw.p
      forwardForm s bolt b r w b.pc (given (readTensor b.mem vp mw.m mw.k)) (b.rowTags vp mw.m mw.k)
        (vp.extents vp.fmt mw.m mw.k ++ qExtents (b.view mw.q) mw.k mw.n)

/-- MATRIX OP 2 with its EXT word (R103). -/
def execMatrixConvolution (bolt : Nat) (s : State) : Host.Outcome State Fault Refusal :=
  s.word bolt 0 2 fun b r w =>
    let mw := matrixWord w
    match b.pattern[b.pc + 1]? with
    | none => .next s
    | some x =>
      let e := extConv x
      if b.room (b.matrixUnits (arraysIn mw.mask)) = false then .next s
      else forwardForm s bolt b r w (b.pc + 1) (convRows b mw.p mw.m mw.k e) ((convReads b mw.p mw.m mw.k e).map b.tagsIn)
        (convExtents b mw.p mw.m mw.k e ++ qExtents (b.view mw.q) mw.k mw.n)

/-- The trained rows of dW: rows of the k blocks whose mask bit is set (R102). -/
def trainedRows (mask : BitVec 32) (k : Nat) : List Nat := (List.range k).filter fun i => mask.getLsbD (i / 128)

/-- The bytes of rows `idx` of a tensor of `cols` elements a row in format `f`. -/
def View.rowsAt (v : View) (f : Nat) (idx : List Nat) (cols : Nat) : List (Nat × Nat) :=
  idx.flatMap fun i =>
    let a := v.row (rowBytes f cols) i
    (a, rowBytes f cols) :: (if isMx f then [(v.scaleAt f a, cols / 32)] else [])

/-- One product of the trained rows of Xᵀ with dY over the rows of an instruction that `use` names (R98, R102). -/
def weightGrad (use : Nat → Bool) (xt dy : List (List Num)) (n : Nat) : List (List Num) :=
  let idx := (List.range dy.length).filter use
  product [] (given (xt.map fun row => idx.map fun i => row.getD i zero))
    ((List.range n).map fun j => idx.map fun i => (dy.getD i []).getD j zero)

/-- The rows of an instruction that run from one patch's darned copy, by patch (R135, R167). -/
def darnedRows (own : List (Option (Patch × DarnPlace))) (h : Nat) (i : Nat) : Bool :=
  match own.getD i none with
  | some (p, _) => p.handle == h
  | none => false

/-- The gradients of the darned layer of every trained patch of an instruction's rows go to the patch under GRAD_MODE (R167):
`tr` the trained rows of the layer, `xt` those rows of Xᵀ. -/
def State.handDarnGradients (s : State) (bno : Nat) (r : Run) (gtag n : Nat) (own : List (Option (Patch × DarnPlace)))
    (tr : List Nat) (xt dy : List (List Num)) : State :=
  let ps : List (Patch × DarnPlace) := own.foldl (fun acc o =>
    match o with
    | some (p, d) => if p.train && !(acc.any fun q => q.1.handle == p.handle) then acc ++ [(p, d)] else acc
    | none => acc) []
  ps.foldl (fun s pd =>
    let dw := weightGrad (darnedRows own pd.1.handle) xt dy n
    (List.zip tr dw).foldl (fun s e => s.handGradient bno r pd.1.handle (pd.2.off + e.1 * pd.2.n) gtag [e.2]) s) s

/-- MATRIX OP 1 with its EXT word (R98 to R102): dX, the trained rows of dW, and the backward products of an attached
RAIL. A row that runs from its patch's darned copy takes dX from that copy and leaves its weight gradient to the patch
(R135, R167). -/
def execMatrixBackward (bolt : Nat) (s : State) : Host.Outcome State Fault Refusal :=
  s.word bolt 0 1 fun b r w =>
    let mw := matrixWord w
    let arrays := arraysIn mw.mask
    match b.pattern[b.pc + 1]? with
    | none => .next s
    | some xw =>
      let ext := extBackward xw
      if b.room (b.matrixUnits arrays) = false then .next s
      else
        let rows := railRows b mw.m
        let vq := b.view mw.q
        let sel := s.railSlot b r vq
        match s.railStop b r mw.n sel rows with
        | some (i, st) => .next (s.haltRun r st i bolt)
        | none =>
          let rl := b.rail.map railWord
          let vy := b.view mw.p
          let dy := readTensor b.mem vy mw.m mw.n
          let own := match rl with | some k => rows.map (s.sideDarn k.layer sel) | none => []
          let dx := productOwn [] (given dy) (qColumns b vq mw.n mw.k) (own.map (·.map (darnBackward mw.k mw.n)))
          let sides := match rl with | some k => rows.map (s.sidePatch k.layer) | none => []
          let sdu := (List.zip dy sides).map fun e => backDu e.1 e.2
          let adds := (List.zip sdu sides).map fun e => backAddend e.1 e.2
          let dx' := dx.zipIdx.map fun e => addSide e.1 (adds.getD e.2 none)
          let vo := b.view mw.out
          let rcp := r.recipe mw.kind
          let ep := epilogueOf b mw.epi mw.m mw.k
          let yTags := b.rowTags vy mw.m mw.n
          let qTags := b.tagsIn (qExtents vq mw.n mw.k)
          let mask := b.scalar ext.maskS
          let h : HandOff := ⟨mw.tag, mw.kind, s.rotationOf r b rcp mw.consEn mw.consS,
            fun i => dealUnit arrays mask mw.k (i % mw.k / 128), selvagesOf rows,
            epilogueTags (s.readsPatch r.base b) b ep (yTags.map fun t => (t ++ qTags).eraseDups)⟩
          let tr := trainedRows mask mw.k
          let vx := b.view ext.x
          let vw := b.view ext.dw
          let wr := r.recipe ext.dwKind
          let xt := tr.map fun k => readRow b.mem vx (vx.row (rowBytes vx.fmt mw.m) k) mw.m
          let dw := weightGrad (fun i => (own.getD i none).isNone) xt dy mw.n
          let hw : HandOff := ⟨ext.dwTag, ext.dwKind, s.rotationOf r b wr mw.consEn mw.consS,
            fun i => dealUnit arrays mask mw.k (tr.getD (i / mw.n) 0 / 128), [],
            tr.map fun k => b.tagsIn (vx.rowExtents mw.m k) ++ yTags.flatten⟩
          let reads := vy.extents vy.fmt mw.m mw.n ++ qExtents vq mw.n mw.k ++ vx.rowsAt vx.fmt tr mw.m ++
            (match rl with | some k => (b.view k.x).extents (b.view k.x).fmt mw.m mw.k | none => [])
          let outs := vo.extents rcp.format mw.m mw.k ++ vw.rowsAt wr.format tr mw.n
          let s1 := (s.setBolt bolt (b.issueMatrix w arrays (b.pc + 1) (ep.map (·.1)) reads outs)).handOff bolt r vo h
            (List.range mw.m) (epilogue (s.reader r.base b) b ep dx')
          let s2 := if mask = 0 then s1 else s1.handOff bolt r vw hw tr dw
          let s3 := match rl with
            | none => s2
            | some k =>
              let t := match b.latch with | some l => l.rows | none => []
              (s2.handPatchGradients bolt r k.gtag sides (readTensor b.mem (b.view k.x) mw.m mw.k) sdu t dy).handDarnGradients
                bolt r k.gtag mw.n own tr xt dy
          within bolt (reads ++ epilogueReads b ep ++ outs) s3

end Sys2Proof.Machine
end

