-- ==== Sys2Proof/Machine/Report.lean ====
section
/-! DEFINITION. What the module reports: events (R397 to R400), the error log (R485 to R488), and the common snapshot
trigger with its windows (R489 to R497). -/
namespace Sys2Proof.Machine
open Sys2Proof

/-! ### Events -/

/-- Detail bytes 16 to 31 of an event from (byte, width in bytes, value) fields (R399). -/
def detailOf (fields : List (Nat × Nat × Nat)) : BitVec 128 :=
  BitVec.ofNat 128 (sumOf (fields.map fun f => (f.2.2 % 2 ^ (8 * f.2.1)) * 2 ^ (8 * (f.1 - 16))))

/-- Post an event: kept for the hem's host-write phase unless EN is 0 or MASK names its type (R397, R398). -/
def State.event (s : State) (type sleeve : Nat) (fields : List (Nat × Nat × Nat)) : State :=
  if s.evq.en && !s.evq.mask.getLsbD type then
    { s with evq := { s.evq with waiting := s.evq.waiting ++ [⟨type, sleeve, s.time.stitch.toNat, detailOf fields⟩] } }
  else s

/-- HOST_ACCESS (R12, R400): BAR, offset, width, write. -/
def State.hostAccess (s : State) (bar off width : Nat) (write : Bool) : State :=
  s.event 0x04 255 [(16, 1, bar), (20, 4, off), (24, 1, width), (25, 1, if write then 1 else 0)]

/-! ### Error log -/

/-- Add 1 to a 32-bit counter that saturates (R485). -/
def sat32 (n : Nat) : Nat := min (n + 1) (2 ^ 32 - 1)

/-- A log entry's fields beside its number and stitch (R486). -/
structure LogEntry where
  cls : Nat
  source : Nat
  loc : Nat := 0
  sleeve : Nat := 255
  status : Status := 0
  k : Nat := 0
  addr : BitVec 64 := 0
  info : BitVec 64 := 0
deriving DecidableEq, Repr

/-- Log a record; the log keeps the last 1,024 (R486). A class 3 record also goes to the flash ring of 16 (R488). -/
def State.logError (s : State) (e : LogEntry) : State :=
  let r : LogRec := ⟨s.rel.total % 2 ^ 32, s.time.stitch.toNat, e.cls, e.source, e.loc, e.sleeve, e.status, e.k, e.addr, e.info⟩
  let s1 := { s with rel := { s.rel with log := (s.rel.log ++ [r]).drop (s.rel.log.length + 1 - 1024), total := s.rel.total + 1 } }
  if e.cls = 3 then
    { s1 with store := { s1.store with
        fatalRing := (s1.store.fatalRing ++ [r]).drop (s1.store.fatalRing.length + 1 - 16) } }
  else s1

/-! ### Snapshot windows (R493 to R497) -/

/-- The state code of SNAP_SEQ (R494). -/
def seqState (s : State) (b : Bolt) : Nat :=
  if b.gate ≠ .none then 7
  else if s.rel.unravel ≠ none then 6
  else if b.run = none then 0
  else if s.time.hem then 5
  else match b.stall with
    | .none => if b.ended then 0 else 1
    | .queueFull => 2
    | .wait _ _ _ => 3
    | .drain => 3
    | .barrier _ _ => 4
    | .collective _ => 4

/-- A bolt's clock as R471 codes it: 1 to 9 for 0.8 to 1.6 GHz, 0 when gated. -/
def clockCode (b : Bolt) : Nat := if b.gate = .none then b.clock - 7 else 0

/-- CLOCKS of R471: nibble b for bolt b. -/
def State.clockNibbles (s : State) : Nat := sumOf ((List.range 16).map fun b => clockCode (s.bolt b) % 16 * 2 ^ (4 * b))

/-- BUBBLES of R471: nibble b, sixteenths. -/
def State.bubbleNibbles (s : State) : Nat :=
  sumOf ((List.range 16).map fun b => min 15 (s.bolt b).bubble16 * 2 ^ (4 * b))

/-- The hottest sensor of a list, one unsigned byte (R471). -/
def State.hottest (s : State) (sensors : List Nat) : Nat := min 255 (maxOf (sensors.map (look 0 s.power.temps)))

/-- TEMP of R471: CD0 to CD3, MD0 to MD3 and the I/O die, by the sensors of R529. -/
def State.dieTemps (s : State) : List Nat :=
  ((List.range 4).map fun d => s.hottest ((List.range 8).map (8 * d + ·))) ++
  ((List.range 4).map fun m => s.hottest [32 + 2 * m, 33 + 2 * m]) ++ [s.hottest [40, 41, 42, 43]]

/-- The STATE byte of R471 as it stands. -/
def State.powerState (s : State) : Nat :=
  (match s.power.pstate with | .active => 0 | .lull => 1 | .doze => 2 | .rest => 3) +
  (if s.power.supplyHold then 4 else 0) +
  (if s.power.emergencies ≠ [] ∨ s.power.spreadEmergency ≠ [] then 8 else 0) +
  (if s.power.peakLock then 16 else 0) + (if s.power.underRange then 64 else 0) + (if s.power.railLift then 128 else 0)

/-- STATE of a port (R271). -/
def portCode : PortState → Nat
  | .disabled => 0 | .down => 1 | .training => 2 | .fenced => 3 | .standby => 4 | .up => 5

/-- MODE of a port (R284): width and rate codes, FEC mode, lane half, coded as in the link record. -/
def Port.mode (p : Port) : Nat :=
  p.widthCode + 4 * p.rateCode + (if p.fecH then 16 else 0) + (if p.upper then 32 else 0)

/-- A bolt's window (R494), as offset and value. -/
def boltWindow (s : State) (bno n : Nat) : List (Nat × Nat) :=
  let b := s.bolt bno
  let base := 0x10000 + 0x800 * bno
  let run := b.run.bind s.findRun
  let stallCls := match b.stall with
    | .wait _ _ _ => 9 | .drain => 9 | .barrier _ _ => 8 | .collective _ => 8
    | _ => match b.pattern[b.pc]? with | some w => (wordHdr w).cls | none => 0
  let sl := match s.ownerOf bno with | some v => v.id | none => 255
  let half (f : Nat → Nat) (i : Nat) : Nat := f (2 * i) % 65536 + f (2 * i + 1) % 65536 * 65536
  [(base + 0x10, b.pc % 4096 * 2 ^ 20 + seqState s b * 2 ^ 16 + stallCls * 2 ^ 12 + clockCode b * 2 ^ 8 + sl),
   (base + 0x14, match run with | some r => r.hdr.tag.toNat * 65536 + r.hdr.queue % 8 * 4096 + r.hdr.slot % 4096 | none => 0),
   (base + 0x18, b.meter),
   (base + 0x1C, match run with | some r => look 0 r.costs bno | none => 0)] ++
  ((List.range 8).map fun i => (base + 0x20 + 4 * i, half (look 0 b.rods) i)) ++
  ((List.range 4).map fun i => (base + 0x40 + 4 * i, half (look 0 b.flags) i)) ++
  ((List.range 32).map fun i => (base + 0x80 + 4 * i, (b.scalar i).toNat)) ++
  ((List.range 32).flatMap fun i =>
    let a := b.address (b.cursor i)
    [(base + 0x100 + 8 * i, a % 2 ^ 32), (base + 0x104 + 8 * i, a / 2 ^ 32)]) ++
  ((List.range 4).map fun i =>
    let u := look {} b.mu i
    (base + 0x200 + 4 * i, u.level * 100 / 8 * 2 ^ 24 + min 15 u.queue.length * 2 ^ 20 + ((u.queue.headD ⟨0, 0, none, []⟩).addr) % 4096)) ++
  [(base + 0x210, b.q.rail.length % 16 * 2 ^ 28 + b.q.vector.length % 16 * 2 ^ 24 + b.q.rotation.length % 16 * 2 ^ 20 +
      b.q.stack.length % 16 * 2 ^ 16 + b.q.seam.length % 16 * 2 ^ 12 + b.q.streamer.length % 16 * 2 ^ 8),
   (base + 0x214, let v := (Config.snapTiming n (base + 0x214)).toNat; v / 65536 * 65536 + v % 1024 % 513),
   (base + 0x218, (b.pockets.filter fun p => decide (p.2.pinned ≠ 0 ∧ s.time.stitch.toNat ≤ p.2.pinned)).length * 2 ^ 16 + (b.pockets.filter fun p => p.2.valid).length),
   (base + 0x21C, min 65535 b.stretch * 65536 + min 65535 b.bubbleCycles)]

/-- Entries of a memory-side die's key cache (R437): tenants whose keys are held, and the fixed ones of sleeves, firmware and
loaded slots. -/
def State.keysHeld (s : State) : Nat :=
  s.heldTenants.eraseDups.length + s.sleeves.length + 1 + ((List.range 4).filter fun n => decide ((s.slot n).state ≠ .free)).length

/-- A memory-side die's window (R495). -/
def memWindow (s : State) (m n : Nat) : List (Nat × Nat) :=
  let base := 0x18000 + 0x400 * m
  let spilled := s.runs.flatMap fun r => r.baste.spilled
  let d := look {} s.memSide.dies m
  [(base + 0x10, (s.onDie m s.basted).length - (s.onDie m spilled).length), (base + 0x14, (s.onDie m s.spilled).length),
   (base + 0x18, (s.onDie m s.memSide.unsettled).length),
   (base + 0x1C, s.keysHeld % 8192)] ++
  ((List.range 8).map fun p => (base + 0x20 + 4 * p, (Config.snapTiming n (base + 0x20 + 4 * p)).toNat)) ++
  [(base + 0x40, d.corrected % 2 ^ 32), (base + 0x44, d.corrected / 2 ^ 32), (base + 0x48, min (2 ^ 32 - 1) d.uncorrected),
   (base + 0x4C, (Config.snapTiming n (base + 0x4C)).toNat)]

/-- The Seam window (R496). -/
def seamWindow (s : State) (n : Nat) : List (Nat × Nat) :=
  let base := 0x19000
  ((List.range 48).flatMap fun p =>
    let q := s.port p
    let at_ := base + 0x40 + 0x40 * p
    [(at_, portCode q.state + q.mode * 256), (at_ + 4, (q.sent - q.acked).toNat),
     (at_ + 8, q.sent.toNat + q.acked.toNat * 65536), (at_ + 12, sumOf (q.rxUsed.map (·.2))),
     (at_ + 16, (q.phaseErr.emod (2 ^ 32)).toNat), (at_ + 20, (Config.snapTiming n (at_ + 20)).toNat)]) ++
  [(base + 0xC40, s.posts.length % 65536 * 65536 + (match s.posts.head? with
      | some p => p.group % 16 * 4096 + (match p.pass with | .exponent => 0 | .data => 1 | .escalation => 2 | .done => 1) * 256
      | none => 0)),
   (base + 0xC44, sumOf (s.posts.map fun p => if p.pass = .done then 0 else p.blocks))]

/-- The phase of SNAP_HEM (R497): device-side commits are done as soon as the hem begins; host writes last until each has its
GO. -/
def State.hemPhase (s : State) : Nat := if !s.time.hem then 0 else if s.hif.commits.any fun c => !c.answered then 2 else 3

/-- Bytes of a sealed image of `n` plaintext bytes (R441). -/
def imageBytes (n : Nat) : Nat := 128 + n + 16 * ceilDiv n 1048576

/-- Bytes of host memory that an output writes. -/
def hostLen : Output → Nat
  | .hostWrite _ _ d _ => d.length
  | .sealedImage _ _ _ _ x => imageBytes x.length
  | _ => 0

/-- Bytes that held commits would write (R372). -/
def State.heldBytes (s : State) : Nat := 
  sumOf ((s.hif.commits.filter fun c => c.sent.isNone).map fun c => sumOf (c.writes.map hostLen))

/-- The power and Reckoner windows (R497). -/
def powerWindow (s : State) : List (Nat × Nat) :=
  let t := s.dieTemps
  [(0x1A010, s.board.inputMw / 1000 % 65536 * 65536 + s.board.vinMv % 65536), (0x1A014, s.powerState),
   (0x1A018, s.clockNibbles % 2 ^ 32), (0x1A01C, s.clockNibbles / 2 ^ 32),
   (0x1A020, s.bubbleNibbles % 2 ^ 32), (0x1A024, s.bubbleNibbles / 2 ^ 32),
   (0x1A028, leNat ((t.take 4).map (BitVec.ofNat 8 ·))), (0x1A02C, leNat (((t.drop 4).take 4).map (BitVec.ofNat 8 ·))),
   (0x1A030, t.getD 8 0),
   (0x1A810, s.time.commitsDone % 65536 * 65536 + s.hemPhase),
   (0x1A814, s.time.headers % 65536 * 65536 + s.time.placed % 65536),
   (0x1A818, if s.hif.link = .l0 ∧ s.hif.d3hot = false then 0 else min (2 ^ 32 - 1) (ceilDiv s.heldBytes 1024)),
   (0x1A81C, match s.rel.unravel with | some (k, _) => k % 256 * 256 + 4 | none => 0)]

/-- The bases of the windows: 16 bolts, 4 memory-side dies, Seam, power, Reckoner. -/
def windowBases : List Nat :=
  ((List.range 16).map fun b => 0x10000 + 0x800 * b) ++ ((List.range 4).map fun m => 0x18000 + 0x400 * m) ++
  [0x19000, 0x1A000, 0x1A800]

/-- What every window begins with (R493). -/
def windowHeads (s : State) (n id source : Nat) : List (Nat × Nat) :=
  windowBases.flatMap fun base =>
    [(base, id * 65536 + source * 256 + 1), (base + 4, (Config.snapTiming n (base + 4)).toNat),
     (base + 8, s.time.stitch.toNat % 2 ^ 32), (base + 12, s.time.stitch.toNat / 2 ^ 32)]

/-- The latched registers. -/
def State.windows (s : State) (n id source : Nat) : Sparse (BitVec 32) :=
  (windowHeads s n id source ++ (List.range 16).flatMap (fun b => boltWindow s b n) ++
    (List.range 4).flatMap (fun m => memWindow s m n) ++ seamWindow s n ++ powerWindow s).foldl
    (fun m e => put 0 m e.1 (BitVec.ofNat 32 e.2)) []

/-- The common trigger from an armed source (R491): it latches every block and posts SNAPSHOT, or counts in SNAP_MISSED
while a snapshot is held. Sources: 1 command, 2 pattern, 3 error, 4 domain. -/
def State.trigger (s : State) (source : Nat) (id : BitVec 16) : State :=
  if s.snap.latched then
    { s with snap := { s.snap with missed := if s.snap.missed = BitVec.allOnes 32 then s.snap.missed else s.snap.missed + 1 } }
  else
    let f := s.fresh
    let t := (List.range 16).foldl State.rampOn f.2
    let s1 := { t with snap := { s.snap with
      latched := true, snapId := id, source := BitVec.ofNat 8 source, stitch := s.time.stitch,
      window := t.windows f.1 id.toNat source } }
    s1.event 0x0D 255 [(16, 2, id.toNat), (18, 1, source)]

/-- Bit `n` of SNAP_CTRL. -/
def State.snapArmed (s : State) (n : Nat) : Bool := s.snap.ctrl.getLsbD n

/-- An error source of SNAP_CTRL bits [13:8] fires the trigger while SRC_ERROR is set (R490, R491). -/
def State.errorTrigger (s : State) (bit : Nat) : State :=
  if s.snapArmed 3 && s.snapArmed bit then s.trigger 3 0 else s

/-- A SECURITY event (R400), which may fire the trigger (R490). -/
def State.security (s : State) (source detail : Nat) : State :=
  (s.event 0x05 255 [(16, 1, source), (24, 8, detail)]).errorTrigger 13

end Sys2Proof.Machine
end

