-- ==== Sys2Proof/Machine/Book.lean ====
section
/-! DEFINITION. The book of reservations: stitch budgets (R23, R29, R32 to R34), what is reserved, power figures (R453,
R458), placements moved later (R49 to R53), and the loss of a patch (R142). -/
namespace Sys2Proof.Machine
open Sys2Proof

/-! ### Stitch arithmetic -/

/-- The machine with the stitch length and floor that the next edge brings (R24, R33). -/
def State.ahead (s : State) : State :=
  { s with time := { s.time with len := s.time.lenNext.getD s.time.len, floor := s.time.floorNext.getD s.time.floor } }

/-- Stitch length in microseconds by its code (R23, R320). -/
def stitchUs (len : Nat) : Nat := 32 * 2 ^ len

/-- Working part in microseconds (R23). -/
def workUs (len : Nat) : Nat := 30 * 2 ^ len

/-- Beads of a bolt in one stitch (R32); `floor` in 100 MHz units. -/
def budgetBeads (len floor : Nat) : Nat := workUs len * floor * 100 / 256

/-- Host-write bytes that one hem commits (R29). -/
def hostLimit (len : Nat) : Nat := 65536 * 2 ^ len

/-- The budget of a bolt in a stitch of the present length and floor. -/
def State.budget (s : State) : Nat := budgetBeads s.time.len s.time.floor

/-- The guard frequency in 100 MHz units (R34). -/
def State.guard (s : State) : Nat := s.time.floor + 1

/-- Shift K of an unravel by stitch length code (R49). -/
def unravelK (len : Nat) : Nat := match len with | 0 => 9 | 1 => 5 | 2 => 3 | _ => 2

/-- The first stitch whose edge falls at least `us` microseconds from now (R281, R328, R330). How much of the stitch is left is an
amount of time, which the model does not carry: which of the edges it can be is a free value (log entry 10). -/
def State.edgeAfter (s : State) (us : Nat) : Nat × State :=
  let f := s.fresh
  (s.time.stitch.toNat + 1 + Config.elapsed f.1 % (1 + ceilDiv us (stitchUs s.time.len)), f.2)

/-- A shift of K stitches is due at the first edge at least `us` microseconds from now (R328, R330). -/
def State.dueShift (s : State) (us : Nat) : State :=
  let e := s.edgeAfter us
  { e.2 with domain := { e.2.domain with shiftDue := e.2.domain.shiftDue ++ [(e.1, unravelK s.time.len)] } }

/-! ### Reservations -/

/-- Whether a run holds its reservation in a stitch (R39, R325). -/
def Run.holds (r : Run) (e : Nat) : Bool :=
  decide (r.stop = none) &&
  match r.phase with
  | .waiting => false
  | .candidate => r.candidates.contains e
  | _ => decide (r.place = e) || r.candidates.contains e

/-- Whether a run holds a reservation in some stitch after `e`. -/
def Run.holdsAfter (r : Run) (e : Nat) : Bool :=
  decide (r.stop = none) &&
  match r.phase with
  | .waiting => false
  | .candidate => r.candidates.any fun c => decide (e < c)
  | _ => decide (e < r.place) || r.candidates.any fun c => decide (e < c)

/-- Whether a body is an update. -/
def isUpdate : QBody → Bool
  | .update _ _ => true
  | _ => false

/-- Whether a run uses a bolt. -/
def Run.uses (r : Run) (bno : Nat) : Bool := r.hdr.bolts.getLsbD bno

/-- Whether a bolt holds a reservation in a stitch. -/
def State.reservedOn (s : State) (bno e : Nat) : Bool := s.runs.any fun r => r.uses bno && r.holds e

/-- Whether a bolt holds a reservation in a stitch later than `e`. -/
def State.reservedAfter (s : State) (bno e : Nat) : Bool := s.runs.any fun r => r.uses bno && r.holdsAfter e

/-- Whether some reservation lies in a stitch after `e`: of a run other than `skip`, one that uses a bolt where `onBolts` is
set; of an update's refresh (R130); or of a pocket fill (R129). -/
def State.reservesAfter (s : State) (skip e : Nat) (onBolts : Bool) : Bool :=
  (s.runs.any fun q => q.id != skip &&
    ((q.holdsAfter e && (!onBolts || decide (q.hdr.bolts ≠ 0))) || (q.holds e && decide (q.refresh ≠ [])))) ||
  (List.range 16).any fun b => (s.bolt b).pockets.any fun k => !k.2.valid && decide (e < k.2.fillFor)

/-- Bytes of a patch's factor pair on a layer at its stored rank (R114, R138). -/
def State.pairBytes (s : State) (p : Patch) (layer : Nat) : Nat :=
  match s.layerOf p.base layer with
  | none => 0
  | some e =>
    let n := storedRank e.fmt p.rank * (e.k + e.n)
    (n * fmtWidth e.fmt + 7) / 8 + (if isMx e.fmt then n / 32 else 0)

/-- Bytes of a pocket (R126). -/
def pocketBytes : Nat := 32768

/-- The (patch, layer) pairs that a fill of a bolt in a stitch is reserved for: and not valid yet (R129). -/
def State.fillsOn (s : State) (bno e : Nat) : List (Nat × Nat) :=
  ((s.bolt bno).pockets.filterMap fun x =>
    if x.2.fillFor = e ∧ x.2.valid = false ∧ e ≠ 0 then some (x.2.patch, x.2.layer) else none).eraseDups

/-- Beads of the fills of a bolt in a stitch (R129, R132). -/
def State.fillBeads (s : State) (bno e : Nat) : Nat :=
  ceilDiv (sumOf ((s.fillsOn bno e).map fun f => match s.patch f.1 with
    | some p => ceilDiv (s.pairBytes p f.2) 128
    | none => 0)) 256

/-- Beads that a run reserves on a bolt in a stitch that it holds: a candidate until the edge after the placement (R325). -/
def Run.costAt (r : Run) (bno e : Nat) : Nat :=
  if r.phase ≠ .candidate ∧ r.place = e then look 0 r.costs bno
  else if r.candidates.contains e then look 0 (r.candCosts.getD (r.candidates.idxOf e) []) bno
  else look 0 r.costs bno

/-- Beads reserved on a bolt in a stitch. -/
def State.beadsOn (s : State) (bno e : Nat) : Nat :=
  sumOf (s.runs.map fun r => (if r.uses bno && r.holds e then r.costAt bno e else 0) +
    (if e = r.place + 1 ∧ r.holds r.place = true then look 0 r.refresh bno else 0)) + s.fillBeads bno e

/-- Host-write bytes reserved in a stitch by an owner. -/
def State.hostBytesIn (s : State) (o : Owner) (e : Nat) : Nat :=
  sumOf (s.runs.map fun r => if r.hdr.owner = o ∧ r.holds e then r.hostBytes else 0)

/-- Host-write bytes of one hem that an owner's share gives (R402). -/
def State.hostShare (s : State) (o : Owner) : Nat :=
  match o with
  | .sleeve n => match s.sleeve n with | some v => v.cxl * hostLimit s.time.len / 256 | none => 0
  | .admin => (256 - sumOf (s.sleeves.map (·.cxl))) * hostLimit s.time.len / 256

/-- Patches that an owner's placed commands reference in a stitch (R113, R402). -/
def State.patchesIn (s : State) (o : Owner) (e : Nat) : List Nat :=
  ((s.runs.filter fun r => r.hdr.owner = o ∧ r.holds e).flatMap (·.patches)).eraseDups

/-! ### Power figures -/

/-- Bolt power at full activity by clock in 100 MHz units, in milliwatts (R453). -/
def fullMw (clock : Nat) : Nat :=
  match clock with
  | 16 => 35000 | 15 => 30000 | 14 => 25000 | 13 => 21500 | 12 => 18500 | 11 => 15500 | 10 => 13000 | 9 => 10500
  | _ => 8500

/-- Rail need of a clock in millivolts (R453). -/
def railNeed (clock : Nat) : Nat :=
  match clock with
  | 16 => 860 | 15 => 820 | 14 => 780 | 13 => 750 | 12 => 720 | 11 => 690 | 10 => 660 | 9 => 630 | _ => 600

/-- Clock of an operating point OP0 to OP7 in 100 MHz units (R453). -/
def opClock (op : Nat) : Nat := 16 - op

/-- Ports that are not DISABLED. -/
def State.livePorts (s : State) : Nat := ((List.range 48).filter fun p => decide ((s.port p).state ≠ .disabled)).length

/-- Full draw of a class in milliwatts, 0 links, 1 memory (R458). -/
def State.classFull (s : State) (c : Nat) : Nat := if c = 0 then 4000 * s.livePorts else if c = 1 then 180000 else 0

/-- Minimum of a class in milliwatts (R458). -/
def State.classMin (s : State) (c : Nat) : Nat := if c = 0 then 3500 * s.livePorts else if c = 1 then 120000 else 0

/-- Classes ordered before compute, which is class 2. -/
def beforeCompute : List Nat → List Nat
  | [] => []
  | c :: cs => if c = 2 then [] else c :: beforeCompute cs

/-- The compute part of a cap in milliwatts (R458). -/
def State.computePart (s : State) (capW : Nat) (order : List Nat) : Nat :=
  let b := beforeCompute order
  capW * 880 - 60000 - sumOf (b.map s.classFull) -
    sumOf ((order.filter fun c => c ≠ 2 ∧ !b.contains c).map s.classMin)

/-! ### Placements moved later -/

/-- LATE_CAUSE bit `n` (R52). -/
def causeBit (n : Nat) : BitVec 8 := BitVec.ofNat 8 (2 ^ n)

/-- A placement moved later by `k`, its work dropped (R49 to R53, R226). -/
def Run.moved (r : Run) (k : Nat) (cause : BitVec 8) : Run :=
  { r with
    place := r.place + k, shifts := r.shifts + k, lateCause := r.lateCause ||| cause
    candidates := r.candidates.map (· + k)
    phase := match r.phase with | .running => .placed | .finished => .placed | p => p
    ended := [], measured := [], overOn := [], overrun := false, watch := 0, baste := {}
    decision := none, replanned := false, arrived := false, mismatch := false }

/-- Whether a run has an uncommitted placement in stitch `e` or later. -/
def Run.placedFrom (r : Run) (e : Nat) : Bool := decide (r.stop = none) && (r.holds e || r.holdsAfter e)

/-- Move the uncommitted placements in stitch `e` or later that `pick` picks, with pins and fills of those stitches. -/
def State.shiftRuns (s : State) (pick : Run → Bool) (e k : Nat) (cause : BitVec 8) : State :=
  ({ s with runs := s.runs.map fun r => if r.placedFrom e && pick r then r.moved k cause else r } : State).updBolts (List.range 16)
    fun _ b => { b with
      pockets := b.pockets.map fun p =>
        (p.1, { p.2 with
          pinned := if p.2.pinned ≠ 0 ∧ e ≤ p.2.pinned then p.2.pinned + k else p.2.pinned
          fillFor := if p.2.fillFor ≠ 0 ∧ e ≤ p.2.fillFor then p.2.fillFor + k else p.2.fillFor }) }

/-- Move every uncommitted placement in stitch `e` or later (R49, R50, R51). -/
def State.shiftFrom (s : State) (e k : Nat) (cause : BitVec 8) : State := s.shiftRuns (fun _ => true) e k cause

/-! ### Lost patches (R142) -/

/-- Stop a run that is admitted, wherever it stands. -/
def State.stopRun (s : State) (id : Nat) (st : Status) (detail bno : Nat) : State :=
  match s.findRun id with
  | some r => s.haltRun r st detail bno
  | none => s

/-- A patch is lost: every uncommitted command that references it fails with 0x62, and later references find it
unregistered (R142, R483). -/
def State.losePatch (s : State) (h : Nat) : State :=
  let s1 := (s.updPatch h fun p => { p with lost := true })
  let s2 := { s1 with rel := { s1.rel with patchesLost := min (s1.rel.patchesLost + 1) 65535 } }
  ((s.runs.filter fun r => r.patches.contains h).map (·.id)).foldl (fun s id => s.stopRun id 0x62 h 255) s2

end Sys2Proof.Machine
end

