-- ==== Sys2Proof/Machine/Recovery.lean ====
section
/-! DEFINITION. The unravel (R49, R480, R481), class 1 and class 3 errors (R477, R488), and the module reset (R505, R506). -/
namespace Sys2Proof.Machine
open Sys2Proof

/-- A bolt reset by an unravel (R480): sequencer, queues, tallies, latch and flags reset, the local store zeros. Pockets,
lanes, pattern images and counters stay. -/
def Bolt.unravelled (b : Bolt) : Bolt :=
  { b.clear with mem := [], tags := [], mu := [], pockets := b.pockets.map fun p => (p.1, { p.2 with filling := false }) }

/-- A manager told of the unravel of `node` orders the shift for the first edge 8 us away, or 16 us where its domain shares a
group with another (R328); one whose domain shares a group with
another domain passes the report on to the top manager, which orders it for the whole system. -/
def State.orderShift (s : State) (node : Nat) : State :=
  let k := unravelK s.time.len
  let wide := s.domain.presented.any fun x => s.spansDomains x.2.group
  let s1 : State := { s with domain := { s.domain with
    unravelling := s.domain.unravelling ++ [(node, s.time.stitch.toNat + k)] } }
  if s.domain.role ≠ .topManager ∧ wide = true then s1.emit (.channel0 .unravelling)
  else s1.dueShift (if wide then 16 else 8)

/-- An unravelling module reports to its manager (R327). -/
def State.reportUnravel (s : State) : State :=
  if !s.hasManager then s else if s.isManager then s.orderShift s.domain.node else s.emit (.channel0 .unravelling)

/-- The unravel of a class 2 error on `die` (coded as in R400) with log SOURCE `source` (R480). A second error before the
bolts resume is absorbed (R481). -/
def State.unravelFrom (s : State) (die source where_ sleeve : Nat) : State :=
  match s.rel.unravel with
  | some _ => s.logError { cls := 2, source := source, loc := where_, sleeve := sleeve }
  | none =>
    let k := unravelK s.time.len
    let e := s.time.stitch.toNat
    let s1 := s.errorTrigger 8
    let s2 := ({ s1 with
      rel := { s1.rel with
        unravel := some (k, e + k), unravels := sat32 s1.rel.unravels
        ownShift := s1.rel.ownShift + if s1.hasManager then k else 0 }
      dev := { s1.dev with unravel := true }
      board := { s1.board with classTwoBlink := true }
      posts := [] } : State).updBolts (List.range 16) fun _ b => b.unravelled
    let s3 := (s2.shiftFrom e k (causeBit 0)).logError { cls := 2, source := source, loc := where_, sleeve := sleeve, k := k }
    (s3.event 0x08 255 [(16, 1, die), (17, 1, k)]).reportUnravel

/-- A class 1 error: its log record and the contained-error trigger (R477, R490). -/
def State.contained (s : State) (e : LogEntry) : State := (s.logError { e with cls := 1 }).errorTrigger 9

/-- A module reset with the rails as `stage` says (R505, R506): everything returns to its reset value but what flash and
fuses hold, the straps' pins, the input and the host's side of the link. The straps are sampled again (R501). -/
def State.moduleReset (s : State) (stage : PowerStage) (trip : Option TripCause) : State :=
  { State.reset with
    pending := s.pending, out := s.out, freeCtr := s.freeCtr, store := s.store
    board := { State.reset.board with
      modEn := s.board.modEn, perst := s.board.perst, mrst := s.board.mrst
      pinMgrEn := s.board.pinMgrEn, pinDomainSel := s.board.pinDomainSel, pinBootSlot := s.board.pinBootSlot
      mgrEn := s.board.pinMgrEn, domainSel := s.board.pinDomainSel, bootSlot := s.board.pinBootSlot
      stage := stage, pwrgd := decide (stage = .on), vinMv := s.board.vinMv, trip := trip }
    dev := { State.reset.dev with bootId := 0 } }

/-- A class 3 error: the record goes to the flash ring, then the module resets (R478, R488, R505). -/
def State.fatal (s : State) (source where_ : Nat) : State :=
  let s1 := s.logError { cls := 3, source := source, loc := where_ }
  s1.moduleReset s1.board.stage s1.board.trip

end Sys2Proof.Machine
end

