-- ==== Sys2Proof/Machine/Stack.lean ====
section
/-! DEFINITION. The activation stack (R144 to R162): frames with their codecs, and the STACK words (R213). -/
namespace Sys2Proof.Machine
open Sys2Proof

/-! ### Lossless packing (R156, R157) -/

/-- The width k of a shared-exponent element; none where SHARED is not used. -/
def sharedWidth : Nat → Option Nat
  | 0 => some 8 | 1 => some 11 | 2 => some 4 | 3 => some 3
  | _ => none

/-- The exponent field of an element's bits. -/
def expField (f bits : Nat) : Nat := let l := layoutOf f; (bits / 2 ^ l.mb) % 2 ^ l.eb

/-- An element without its exponent field: sign above mantissa. -/
def dropExp (f bits : Nat) : Nat :=
  let l := layoutOf f
  bits % 2 ^ l.mb + (bits / 2 ^ (l.mb + l.eb)) % 2 * 2 ^ l.mb

/-- An element with its exponent field put back. -/
def addExp (f ex bits : Nat) : Nat :=
  let l := layoutOf f
  bits % 2 ^ l.mb + ex * 2 ^ l.mb + (bits / 2 ^ l.mb) % 2 * 2 ^ (l.mb + l.eb)

/-- Fields of `w` bits packed from bit 0 upward, padded to whole bytes. -/
def packFields (w : Nat) (l : List Nat) : List Byte :=
  let big := l.foldr (fun x acc => acc * 2 ^ w + x % 2 ^ w) 0
  leBytes ((w * l.length + 7) / 8) big

/-- One packed group (R156): MODE byte, shared exponent, mask, present elements. -/
def packGroup (f : Nat) (g : List Nat) : List Byte :=
  if g.all (· == 0) then [0x80]
  else
    let present := g.filter (· != 0)
    let sparse := decide (present.length < g.length)
    let ex := expField f (present.headD 0)
    let shared := (sharedWidth f).isSome && present.all fun x => expField f x == ex
    let mask := sumOf (g.zipIdx.map fun e => if e.1 = 0 then 0 else 2 ^ e.2)
    BitVec.ofNat 8 ((if sparse then 1 else 0) + (if shared then 2 else 0)) ::
      ((if shared then leBytes 1 ex else []) ++ (if sparse then leBytes 4 mask else []) ++
        (if shared then packFields ((sharedWidth f).getD 0) (present.map (dropExp f)) else packFields (fmtWidth f) present))

/-- Spread present elements over the positions of a mask. -/
def spread (mask : Nat) (l : List Nat) : Nat → Nat → List Nat
  | 0, _ => []
  | n + 1, i =>
    if bitOf mask i then l.headD 0 :: spread mask (l.drop 1) n (i + 1) else 0 :: spread mask l n (i + 1)

/-- Read one group of 32 elements: its bits and the bytes after it. -/
def unpackGroup (f : Nat) (l : List Byte) : List Nat × List Byte :=
  match l with
  | [] => (List.replicate 32 0, [])
  | m :: rest =>
    let mode := m.toNat
    if bitOf mode 7 then (List.replicate 32 0, rest)
    else
      let shared := bitOf mode 1
      let sparse := bitOf mode 0
      let ex := if shared then fieldOf rest 0 1 else 0
      let r1 := if shared then rest.drop 1 else rest
      let mask := if sparse then fieldOf r1 0 4 else 2 ^ 32 - 1
      let r2 := if sparse then r1.drop 4 else r1
      let n := ((List.range 32).filter fun i => bitOf mask i).length
      let w := if shared then (sharedWidth f).getD 0 else fmtWidth f
      let bytes := (w * n + 7) / 8
      let big := leNat (r2.take bytes)
      let els := (List.range n).map fun i => (big / 2 ^ (w * i)) % 2 ^ w
      (spread mask (if shared then els.map (addExp f ex) else els) 32 0, r2.drop bytes)

/-- Groups of 32 element bits. -/
def groups32 : Nat → List Nat → List (List Nat)
  | 0, _ => []
  | n + 1, l => if l.isEmpty then [] else l.take 32 :: groups32 n (l.drop 32)

/-- Read `n` groups. -/
def unpackGroups (f : Nat) : Nat → List Byte → List Nat × List Byte
  | 0, l => ([], l)
  | n + 1, l =>
    let g := unpackGroup f l
    let t := unpackGroups f n g.2
    (g.1 ++ t.1, t.2)

/-- One row's payload (R153, R157): packed for a lossless codec unless that takes more lines than raw. -/
def makeRow (codec f : Nat) (sel : BitVec 16) (len : Nat) (bits : List Nat) (scales : List Nat) : FrameRow :=
  let sc := scales.map (BitVec.ofNat 8 ·)
  let raw := packRow f bits ++ sc
  let packed := ((groups32 (bits.length + 1) bits).flatMap (packGroup f)) ++ sc
  if (codec = 1 ∨ codec = 3) ∧ ceilDiv packed.length 128 ≤ ceilDiv raw.length 128 then ⟨sel, len, false, packed⟩
  else ⟨sel, len, codec = 1 ∨ codec = 3, raw⟩

/-- A row's element bits and block scales, `n` elements. -/
def openRow (codec f n : Nat) (r : FrameRow) : List Nat × List Nat :=
  let ns := if isMx f then n / 32 else 0
  if (codec = 1 ∨ codec = 3) ∧ r.raw = false then
    let u := unpackGroups f (n / 32) r.payload
    (u.1, (u.2.take ns).map (·.toNat))
  else
    (unpackRow f n r.payload, ((r.payload.drop (rowBytes f n)).take ns).map (·.toNat))

/-- Lines of a frame: header and row table, then each row's payload (R151, R152). -/
def Frame.lines (f : Frame) : Nat :=
  ceilDiv (32 + 8 * f.rows.length) 128 + sumOf (f.rows.map fun r => ceilDiv r.payload.length 128)

/-- Lines of a frame's header and row table (R152). -/
def Frame.headLines (f : Frame) : Nat := ceilDiv (32 + 8 * f.rows.length) 128

/-- The SELVAGE of the row whose payload section holds a line, counted over the sections from `n` on (R153). -/
def sectionSelvage : Nat → List FrameRow → Nat
  | _, [] => 0
  | n, r :: rows => if n < ceilDiv r.payload.length 128 then r.selvage.toNat else sectionSelvage (n - ceilDiv r.payload.length 128) rows

/-- SEAL of a frame's line (R117, R153): the tenant of its row's payload section; 0, the sleeve's key, for header and row table. -/
def Frame.seal (f : Frame) (line : Nat) : Nat := if line < f.headLines then 0 else sectionSelvage (line - f.headLines) f.rows

/-- The number of a bolt's lane among a command's basting. -/
def laneNo (bno lane : Nat) : Nat := 4 * bno + lane

/-- A lane's region in bytes. -/
def Bolt.laneSize (b : Bolt) (lane : Nat) : Nat := (look {} b.lanes lane).size

/-- A lane as a command sees it, its own basting first (R146). -/
def laneSeen (b : Bolt) (r : Run) (bno lane : Nat) : Lane :=
  match r.baste.lanes.find? fun l => l.1 == laneNo bno lane with
  | some l => l.2
  | none => look {} b.lanes lane

/-- A lane's frames as a command sees them. -/
def framesOf (b : Bolt) (r : Run) (bno lane : Nat) : List Frame := (laneSeen b r bno lane).frames

/-- A command's basting with a lane replaced (R145). -/
def setLane (l : List (Nat × Lane)) (n : Nat) (ln : Lane) : List (Nat × Lane) := (n, ln) :: l.filter fun e => e.1 != n

/-- A frame pushed at the end pointer (R145). -/
def Lane.push (l : Lane) (f : Frame) : Lane :=
  { l with frames := { f with prev := if l.frames = [] then 0 else l.stop - l.top } :: l.frames, top := l.stop
           stop := l.stop + f.lines }

/-- The top pointer moves back to the previous frame; a lane without frames has both pointers at its start (R145). -/
def Lane.pop (l : Lane) : Lane :=
  match l.frames with
  | f :: g :: rest => { l with frames := g :: rest, top := l.top - f.prev }
  | _ => { l with frames := [], top := 0, stop := 0 }

/-- The lane without frames. -/
def Lane.empty (l : Lane) : Lane := { l with frames := [], top := 0, stop := 0 }

/-- A PUSH would pass the end of the lane region (R149). -/
def Lane.tooLong (l : Lane) (size : Nat) (f : Frame) : Bool := decide (size < 128 * (l.stop + f.lines))

/-- A frame that a command pushes bastes: its lines from the end pointer on, and the lane's pointers (R145, R243). -/
def State.pushFrame (s : State) (id bno lane : Nat) (ln : Lane) (fr : Frame) : State :=
  (s.basteRegion id ((List.range fr.lines).map fun i => (laneArea bno lane, ln.stop + i))).updRun id fun q =>
    { q with baste := { q.baste with lanes := setLane q.baste.lanes (laneNo bno lane) (ln.push fr) } }

/-- Rows of a stack word: under a row map its entries, else one row of all tokens with SELVAGE 0 (R151). -/
def stackRows (b : Bolt) (k : StackWord) : List RowEntry :=
  if k.mapEn then rowMap b.mem (b.view k.mapCur).addr 65536 else [⟨false, k.tokens, 0, 0, false⟩]

/-- For each row, its first token. -/
def starts : Nat → List RowEntry → List (Nat × RowEntry)
  | _, [] => []
  | n, e :: es => (n, e) :: starts (n + e.len) es

/-- The first row with a source line whose tag is not its SELVAGE (R153). -/
def tagFault (b : Bolt) (v : View) (width : Nat) : List (Nat × RowEntry) → Nat → Option Nat
  | [], _ => none
  | (t0, e) :: rest, i =>
    let rb := rowBytes v.fmt width
    let bad := (List.range e.len).any fun t =>
      let a := v.row rb (t0 + t)
      ((linesOf a rb) ++ (if isMx v.fmt then linesOf (v.scaleAt v.fmt a) (width / 32) else [])).any fun l =>
        b.lineTag l != e.selvage
    if bad then some i else tagFault b v width rest (i + 1)

/-- STACK OP 0, PUSH (R145): a frame of the source tensor at the lane's end, in the codec's form (R155). -/
def execStackPush (bolt : Nat) (s : State) : Host.Outcome State Fault Refusal :=
  s.word bolt 5 0 fun b r w =>
    let k := stackWord w
    if b.room [.stack] = false then .next s
    else
      let v := b.view k.ls
      let rows := starts 0 (stackRows b k)
      let tokens := sumOf (rows.map (·.2.len))
      let narrow := decide (k.codec ≥ 2)
      if mapReserved (rows.map (·.2)) then .next (s.haltRun r 0x72 0 bolt)
      else match tagFault b v k.width rows 0 with
      | some i => .next (s.haltRun r 0x30 i bolt)
      | none =>
        let rb := rowBytes v.fmt k.width
        let h : HandOff := ⟨k.tag, 6, (r.recipe 6).rot % 15, fun _ => laneUnitStack, rows.flatMap fun e => List.replicate e.2.len e.2.selvage, []⟩
        let o := s.convert bolt b r h (if narrow then readTensor b.mem v tokens k.width else [])
        let f := if narrow then o.fmt else v.fmt
        let frows := rows.map fun e =>
          let bits := (List.range e.2.len).flatMap fun t =>
            if narrow then (((o.rows[e.1 + t]?).map (·.elems)).getD []).map (·.1)
            else unpackRow v.fmt k.width (memRead b.mem (v.row rb (e.1 + t)) rb)
          let scales := if isMx f then (List.range e.2.len).flatMap fun t =>
              if narrow then ((o.rows[e.1 + t]?).map (·.scales)).getD []
              else (memRead b.mem (v.scaleAt v.fmt (v.row rb (e.1 + t))) (k.width / 32)).map (·.toNat)
            else []
          makeRow k.codec f e.2.selvage e.2.len bits scales
        let fr : Frame :=
          { tag := BitVec.ofNat 16 k.tag, codec := k.codec, srcFmt := v.fmt, fmt := f, width := k.width, tokens := tokens,
            scale := if isMx f then 0 else if narrow then o.stat.scale else BitVec.ofNat 8 v.scale, rows := frows }
        let ln := laneSeen b r bolt k.lane
        if ln.tooLong (b.laneSize k.lane) fr then .next (s.haltRun r 0x18 b.pc bolt)
        else
          let b1 := if narrow then o.bolt.noteTag o h else b
          let s1 := s.setBolt bolt (b1.issueOn [.stack] w)
          let s2 := if narrow then s1.noteHandOff r.id o else s1
          within bolt (v.extents v.fmt tokens k.width) (s2.pushFrame r.id bolt k.lane ln fr)

/-- Whether a frame's row table agrees with the row map (R154): the first row that differs. -/
def rowTableFault : List FrameRow → List RowEntry → Nat → Option Nat
  | [], [], _ => none
  | f :: fs, e :: es, i => if f.selvage = e.selvage then rowTableFault fs es (i + 1) else some i
  | _, _, i => some i

/-- Whether a frame matches a POP (R526). -/
def popMatches (f : Frame) (k : StackWord) (tokens : Nat) (dstFmt : Nat) : Bool :=
  decide (f.tag = BitVec.ofNat 16 k.tag ∧ f.width = k.width ∧ f.tokens = tokens) &&
  (if k.widen then decide (fmtWidth f.fmt ≤ fmtWidth k.wfmt) else decide (f.fmt = dstFmt))

/-- One token's widened row (R158): decoded, then handed off to WFMT, nearest even, without counts. DESIGN CHOICE (log entry 114):
a plain cursor whose SCALE byte is 0xFF, which has no exponent, gives exponent 0. -/
def widenRow (wf : Nat) (sb : Nat) (vals : List Num) : HandedRow :=
  (handRow wf 0 (((scaleExp sb).getD 0)) ⟨0, 0, fun _ => laneUnitStack, false⟩ {} 0 vals).1

/-- STACK OP 1, POP (R526): the lane's top frame, checked and delivered to the local store. -/
def execStackPop (bolt : Nat) (s : State) : Host.Outcome State Fault Refusal :=
  s.word bolt 5 1 fun b r w =>
    let k := stackWord w
    if b.room [.stack] = false then .next s
    else
      let v := b.view k.ls
      let rows := stackRows b k
      let tokens := sumOf (rows.map (·.len))
      if mapReserved rows then .next (s.haltRun r 0x72 0 bolt)
      else match framesOf b r bolt k.lane with
      | [] => .next (s.haltRun r 0x1A b.pc bolt)
      | f :: _ =>
        if f.lost then .next (s.haltRun r 0x63 k.lane bolt)
        else if popMatches f k tokens v.ownFmt = false then .next (s.haltRun r 0x19 b.pc bolt)
        else match if k.mapEn then rowTableFault f.rows rows 0 else none with
          | some i => .next (s.haltRun r 0x30 i bolt)
          | none =>
            let df := if k.widen then k.wfmt else f.fmt
            let toks : List (HandedRow × BitVec 16) := f.rows.flatMap fun fr =>
              let op := openRow f.codec f.fmt (fr.len * f.width) fr
              (List.range fr.len).map fun t =>
                let bits := (op.1.drop (t * f.width)).take f.width
                let sc := (op.2.drop (t * (f.width / 32))).take (f.width / 32)
                let hr : HandedRow :=
                  if k.widen then
                    widenRow k.wfmt v.ownScale (bits.zipIdx.map fun e =>
                      readElem f.fmt e.1 (if isMx f.fmt then sc.getD (e.2 / 32) 0 else f.scale.toNat))
                  else ⟨bits.map fun x => (x, .plain), sc, false⟩
                (hr, fr.selvage)
            let b1 := b.placeRows v df (toks.map (·.2)) (List.range toks.length) (toks.map (·.1))
            within bolt (v.extents df tokens f.width) ((s.setBolt bolt (b1.issueOn [.stack] w)).updRun r.id fun q =>
              { q with baste := { q.baste with
                  lanes := setLane q.baste.lanes (laneNo bolt k.lane) (laneSeen b r bolt k.lane).pop } })

/-- The rank-latch format of a base (R121, R526): INT8 where its matrix layers are INT8. -/
def State.baseLatchFmt (s : State) (base : Nat) : Nat :=
  match s.slotOf base with
  | none => 2
  | some n =>
    match (s.slot n).layers.find? fun l => l.kind == 0 with
    | some l => latchFmt l.fmt
    | none => 2

/-- STACK OP 2, PUSH_T (R162): the rank latch with its row scales, each row's tokens under the row's tag. DESIGN CHOICE (log entry
114): where no instruction of the command left a latch, the frame holds no tokens and has width 0. -/
def execStackPushT (bolt : Nat) (s : State) : Host.Outcome State Fault Refusal :=
  s.word bolt 5 2 fun b r w =>
    let k := stackWord w
    if b.room [.stack] = false then .next s
    else if mapReserved (stackRows b k) then .next (s.haltRun r 0x72 0 bolt)
    else
      let lf := s.baseLatchFmt r.base
      let la : RankLatch := b.latch.getD ⟨[], [], 0⟩
      let width := maxOf (la.rows.map (·.length))
      let map := stackRows b k
      let place := rowsFor map la.tok la.rows.length
      let enc (i : Nat) : List Nat :=
        let sb := (la.scales.getD i 0).toNat
        let row := la.rows.getD i []
        (List.range width).map fun j =>
          if sb = 255 then 0 else (handOffElem lf .nearest ((row.getD j zero).scale (127 - (sb : Int)))).1
      let frows : List FrameRow := map.zipIdx.map fun e =>
        let mine := (List.range la.rows.length).filter fun i =>
          match place.getD i none with | some (n, _) => n == e.2 | none => false
        ⟨e.1.selvage, mine.length, false, packRow lf (mine.flatMap enc) ++ mine.map fun i => la.scales.getD i 0⟩
      let fr : Frame :=
        { tag := BitVec.ofNat 16 k.tag, codec := 0, srcFmt := lf, fmt := lf, width := width, tokens := la.rows.length,
          scale := 0, rows := frows }
      let ln := laneSeen b r bolt k.lane
      if ln.tooLong (b.laneSize k.lane) fr then .next (s.haltRun r 0x18 b.pc bolt)
      else .next ((s.setBolt bolt (b.issueOn [.stack] w)).pushFrame r.id bolt k.lane ln fr)

/-- The first token of a popped rank latch in a row map (R162): the rows before the frame's first tokens come whole before
it, and a frame that goes on past its first row holds that row's last tokens (log entry 91). -/
def frameToken : List FrameRow → List RowEntry → Nat
  | f :: fs, e :: es =>
    if f.len = 0 then e.len + frameToken fs es
    else if fs.any (fun g => decide (g.len ≠ 0)) then e.len - f.len else 0
  | _, _ => 0

/-- STACK OP 3, POP_T (R162): a frame into the rank latch, with its row scales. -/
def execStackPopT (bolt : Nat) (s : State) : Host.Outcome State Fault Refusal :=
  s.word bolt 5 3 fun b r w =>
    let k := stackWord w
    if b.room [.stack] = false then .next s
    else if mapReserved (stackRows b k) then .next (s.haltRun r 0x72 0 bolt)
    else
      let lf := s.baseLatchFmt r.base
      match framesOf b r bolt k.lane with
      | [] => .next (s.haltRun r 0x1A b.pc bolt)
      | f :: _ =>
        if f.lost then .next (s.haltRun r 0x63 k.lane bolt)
        else if f.tag ≠ BitVec.ofNat 16 k.tag ∨ f.fmt ≠ lf then .next (s.haltRun r 0x19 b.pc bolt)
        else match rowTableFault f.rows (stackRows b k) 0 with
          | some i => .next (s.haltRun r 0x30 i bolt)
          | none =>
            let got : List (List Num × BitVec 8) := f.rows.flatMap fun fr =>
              let bits := unpackRow lf (fr.len * f.width) fr.payload
              (List.range fr.len).map fun t =>
                let sb := (fr.payload.drop (rowBytes lf (fr.len * f.width))).getD t 0
                (((bits.drop (t * f.width)).take f.width).map fun x => readElem lf x sb.toNat, sb)
            let la : RankLatch := { rows := got.map Prod.fst, scales := got.map Prod.snd, tok := frameToken f.rows (stackRows b k) }
            let b1 := { b with latch := some la }
            .next ((s.setBolt bolt (b1.issueOn [.stack] w)).updRun r.id fun q =>
              { q with baste := { q.baste with
                  lanes := setLane q.baste.lanes (laneNo bolt k.lane) (laneSeen b r bolt k.lane).pop } })

end Sys2Proof.Machine
end

