-- ==== Sys2Proof/Machine/Ports.lean ====
section
/-! DEFINITION. What a Seam port sends (R264 to R266, R274 to R278): flits, the order in which waiting segments take them, and the
messages of this module as segments. -/
namespace Sys2Proof.Machine
open Sys2Proof

/-! ### Flits (R264, R265) -/

/-- VC of a flit header (R265). -/
def flitVc (f : Flit) : Nat := f.header.toNat / 2 ^ 27

/-- TYPE: 0 DATA, 1 IDLE, 2 LINK. -/
def flitKind (f : Flit) : Nat := f.header.toNat / 2 ^ 24 % 8

/-- SEQ. -/
def flitSeq (f : Flit) : BitVec 12 := BitVec.ofNat 12 (f.header.toNat / 2 ^ 12)

/-- ACK. -/
def flitAck (f : Flit) : BitVec 12 := BitVec.ofNat 12 f.header.toNat

/-- The header word of a flit (R265). -/
def flitHeader (vc kind : Nat) (seq ack : BitVec 12) : BitVec 32 :=
  BitVec.ofNat 32 (vc % 32 * 2 ^ 27 + kind % 8 * 2 ^ 24 + seq.toNat * 2 ^ 12 + ack.toNat)

/-- One step of CRC-32 on its register (IEEE 802.3, bits least significant first). -/
def crcBit (c : Nat) : Nat := if c % 2 = 1 then (c / 2) ^^^ 0xEDB88320 else c / 2

/-- CRC-32 over one more byte. -/
def crcByte (c : Nat) (b : Byte) : Nat := (List.range 8).foldl (fun c _ => crcBit c) (c ^^^ b.toNat)

/-- CRC-32 with the polynomial of IEEE 802.3 (R264); the rest of its form is that standard's. -/
def crc32 (l : List Byte) : Nat := (l.foldl crcByte 0xFFFFFFFF) ^^^ 0xFFFFFFFF

/-- Whether a flit's CRC covers its header and payload (R264). -/
def flitCrcOk (f : Flit) : Bool := decide (crc32 (leBytes 4 f.header.toNat ++ f.payload) = f.crc.toNat)

/-- Payload bytes of a flit (R264). -/
def Port.flitPayload (p : Port) : Nat := if p.fecH then 224 else 240

/-- Bytes that the two codewords of a flit can correct (R264). -/
def Port.correctable (p : Port) : Nat := if p.fecH then 12 else 4

/-- SEQ of the last flit received in order, which every header acknowledges (R265). -/
def Port.ackNow (p : Port) : BitVec 12 := p.expect - 1

/-- Flits that carry a segment of `n` data bytes with header and tag (R264, R278). -/
def Port.flitsOf (p : Port) (n : Nat) : Nat := ceilDiv (32 + n + 16) p.flitPayload

/-! ### Arbitration (R266, R274 to R276) -/

/-- Whether a port carries flits of a channel (R271, R274). -/
def Port.carries (p : Port) (vc : Nat) : Bool :=
  decide (vc < 24) && (decide (p.state = .up) || (decide (p.state = .standby) && decide (vc < 2)))

/-- Flits of the replay buffer (R266). -/
def replayFlits : Nat := 1024

/-- Whether the replay buffer is full (R266). -/
def Port.full (p : Port) : Bool := decide (replayFlits ≤ (p.sent - p.acked).toNat)

/-- Flits of channels 0 and 1 in a window of 1,024 (R274). -/
def ctlLimit : Nat := 16

/-- Channels of which a flit waits and has a credit (R276). -/
def Port.ready (p : Port) : List Nat :=
  ((p.queue.map (·.1.vc)).eraseDups).filter fun c => p.carries c && decide (0 < look 0 p.credits c)

/-- The channel furthest behind its quota: the lowest `served / quota`, the lowest number on a tie (R275). -/
def Port.behind (p : Port) (cs : List Nat) : Option Nat :=
  (sorted (fun a b => decide (a ≤ b)) cs).foldl (fun acc c => match acc with
    | none => some c
    | some a => if look 0 p.served c * look 0 p.quotas a < look 0 p.served a * look 0 p.quotas c then some c else some a) none

/-- The channel that sends the next flit: channels 0 and 1 first, within their limit, then by quota (R274, R275). -/
def Port.nextChannel (p : Port) : Option Nat :=
  let cs := p.ready
  if cs.contains 0 && decide (p.ctlSent < ctlLimit) then some 0
  else if cs.contains 1 && decide (p.ctlSent < ctlLimit) then some 1
  else p.behind (cs.filter fun c => decide (2 ≤ c))

/-- The first waiting segment of a channel loses one flit; a segment whose last flit goes leaves the queue. -/
def takeFlit (vc : Nat) : List (Segment × Nat) → List (Segment × Nat) × Option Segment
  | [] => ([], none)
  | (g, n) :: rest =>
    if g.vc ≠ vc then let x := takeFlit vc rest; ((g, n) :: x.1, x.2)
    else if n ≤ 1 then (rest, some g) else ((g, n - 1) :: rest, none)

/-- A flit passes in the port's windows (R274, R275). -/
def Port.count (p : Port) (vc : Nat) : Port :=
  let c := p.ctlWindow + 1
  let w := p.window + 1
  { p with
    ctlWindow := c % 1024, ctlSent := if c = 1024 then 0 else p.ctlSent + if vc < 2 then 1 else 0
    window := w % 4096, served := if w = 4096 then [] else put 0 p.served vc (look 0 p.served vc + 1) }

/-- The header of a segment (R278). -/
def segHeader (g : Segment) : List Byte :=
  leBytes 2 g.keyId ++ leBytes 2 g.src ++ leBytes 2 g.dst ++ leBytes 1 g.vc ++ leBytes 1 (if g.last then 1 else 0) ++
    leBytes 8 g.counter ++ leBytes 4 g.length ++ leBytes 4 g.msgId.toNat ++ List.replicate 8 0

/-- The 96-bit nonce of a segment (R278). -/
def segNonce (g : Segment) : Nat := g.src % 65536 * 2 ^ 80 + g.vc % 256 * 2 ^ 72 + g.counter % 2 ^ 64

/-- One DATA flit of a channel goes out. -/
def Port.sendFlit (p : Port) (n vc : Nat) : Port × List Output :=
  let x := takeFlit vc p.queue
  let q := ({ p with queue := x.1, sent := p.sent + 1, credits := put 0 p.credits vc (look 0 p.credits vc - 1) } : Port).count vc
  (q, .flits n (flitHeader vc 0 p.sent p.ackNow) 1 :: match x.2 with
    | some g => [.segment n (segHeader g) (segNonce g)]
    | none => [])

/-- An IDLE flit (R266). It and a LINK flit take no number of their own (DESIGN CHOICE, log entry 117). -/
def Port.idleFlit (p : Port) (n : Nat) : Output := .flitIdle n (flitHeader 0 1 p.sent p.ackNow)

/-- Waiting segments send the flits for which there are credits and replay room (R266, R274 to R276). Where only channels at
their limit wait, IDLE flits fill the window. -/
def Port.drainLoop (n : Nat) : Nat → Port → Port × List Output
  | 0, p => (p, [])
  | f + 1, p =>
    if p.ready = [] then (p, [])
    else if p.full then (p, [p.idleFlit n])
    else match p.nextChannel with
      | some vc =>
        let x := p.sendFlit n vc
        let y := Port.drainLoop n f x.1
        (y.1, x.2 ++ y.2)
      | none =>
        let y := Port.drainLoop n f { p with ctlWindow := 0, ctlSent := 0 }
        (y.1, p.idleFlit n :: y.2)

/-- A port sends what it can of its waiting segments; in Rest the data lanes idle (R283). -/
def State.drain (s : State) (port : Nat) : State :=
  let p := s.port port
  if s.power.pstate = .rest then s
  else
    let x := p.drainLoop port (2 * sumOf (p.queue.map (·.2)) + 2)
    x.2.foldl State.emit (s.updPort port fun _ => x.1)

/-! ### Segments and messages (R278) -/

/-- Seam ports of a module (R262). -/
def portCount : Nat := 48

/-- A segment goes out on a port (R265, R276): its flits take sequence numbers as credits and replay room allow. -/
def State.sendSegment (s : State) (port : Nat) (g : Segment) : State :=
  if port < portCount then (s.updPort port fun p => { p with queue := p.queue ++ [(g, p.flitsOf g.length)] }).drain port else s

/-- Data bytes of the largest segment (R278). -/
def segBytes : Nat := 65472

/-- The next COUNTER of a key and channel (R278). -/
def State.counterOf (s : State) (key vc : Nat) : Nat :=
  match s.domain.counters.find? fun c => c.1 == key && c.2.1 == vc with
  | some c => c.2.2
  | none => 0

/-- The segments of a message of `len` data bytes (R278). -/
def State.segmentsOf (s : State) (dst key vc len : Nat) : List Segment :=
  let n := max 1 (ceilDiv len segBytes)
  (List.range n).map fun i =>
    { keyId := key, src := s.domain.node, dst := dst, vc := vc, last := decide (i + 1 = n), counter := s.counterOf key vc + i
      length := min segBytes (len - segBytes * i), msgId := s.domain.nextMsg }

/-- A message of this module goes out as segments on a port (R278). -/
def State.sendMessage (s : State) (port dst key vc len : Nat) (m : SeamMsg) : State × Output :=
  let gs := s.segmentsOf dst key vc len
  let o := Output.seam port gs m
  let rest := s.domain.counters.filter fun c => !(c.1 == key && c.2.1 == vc)
  let s1 : State := { s with domain := { s.domain with
    counters := (key, vc, s.counterOf key vc + gs.length) :: rest, nextMsg := s.domain.nextMsg + 1 } }
  (gs.foldl (fun s g => s.sendSegment port g) (s1.emit o), o)

/-- A message of a run goes out over the Seam; it stays basted until the run's command commits (R28, R282). -/
def State.sendSeam (s : State) (run port dst key vc len : Nat) (m : SeamMsg) : State :=
  let x := s.sendMessage port dst key vc len m
  { x.1 with domain := { x.1.domain with sent := x.1.domain.sent ++ [(run, x.2)] } }

end Sys2Proof.Machine
end

