-- ==== Sys2Proof/Machine/Rings.lean ====
section
/-! DEFINITION. Plans, routes and schedules over the Seam (R299 to R301, R317): the ports that a plan uses, rings and trees of a
group, and what their passes cost. -/
namespace Sys2Proof.Machine
open Sys2Proof

/-! ### Ports of a plan (R267, R271, R277, R317) -/

/-- Payload of a port in bytes a microsecond (R267). -/
def Port.payload (p : Port) : Nat :=
  let lanes := match p.widthCode with | 0 => 2 | 1 => 4 | _ => 8
  let gbps := match p.rateCode with | 0 => 56 | 1 => 112 | _ => 224
  lanes * gbps * 125 * (if p.fecH then 14 else 15) / 16

/-- The ports that are UP, as an edge finds them (R271, R277). -/
def State.portsNow (s : State) : List EdgePort :=
  ((List.range portCount).filter fun n => decide ((s.port n).state = .up)).map fun n =>
    ⟨n, (s.port n).payload, (s.port n).tickRtt, (s.port n).quotas⟩

/-- The membership whose traffic a channel carries: a group on channels 4 to 19, a span on 20 to 23 (R275, R341). -/
def channelMembership (ch : Nat) : Membership := if ch < 20 then ch - 4 else 256 + ch

/-- The ports over which the plan in force routes a channel of group or span traffic, of those that were UP at the last edge
(R271, R317). -/
def State.planPorts (s : State) (ch : Nat) : List EdgePort :=
  s.edgePorts.filter fun p => Config.planUses s.domain.plan (channelMembership ch) s.domain.node p.port

/-- The port by which a message of ring or tree `ring` of a channel goes to another member: the manager's choice among the ports of
its plan that are still UP (R299); none where there is no such port. -/
def State.ringPort (s : State) (ch ring to_ : Nat) : Nat :=
  let ps := (s.planPorts ch).filter fun p => decide ((s.port p.port).state = .up)
  match ps[Config.ringPort s.domain.plan ch (64 * to_ + ring) % max 1 ps.length]? with
  | some p => p.port
  | none => portCount

/-! ### Rings and trees (R299, R300) -/

/-- This module's rank in a group's member list. -/
def State.rankIn (s : State) (g : Group) : Nat := g.block.members.idxOf s.domain.node

/-- The ring or tree of a block and its chunk within it: R equal ranges, each of G chunks (R299). -/
def placeOfBlock (b : GroupBlock) (blocks i : Nat) : Nat × Nat :=
  let range := max 1 (ceilDiv blocks (max 1 b.width))
  let chunk := max 1 (ceilDiv range (max 1 b.members.length))
  (i / range, i % range / chunk)

/-- A rank's label in tree `t` (R300). -/
def treeRank (g r t : Nat) : Nat := (r + t) % max 1 g

/-- The rank that carries a label in tree `t`. -/
def rankOfLabel (g l t : Nat) : Nat := (l + (max 1 g - t % max 1 g)) % max 1 g

/-- Labels of the children of a label. -/
def treeKids (g l : Nat) : List Nat := [2 * l + 1, 2 * l + 2].filter fun c => decide (c < g)

/-- How many they are. -/
def treeChildren (g l : Nat) : Nat := (treeKids g l).length

/-- Arrivals that a member adds in the reduce phase of block `i`: one in a ring unless it starts the chunk, its children's
in a tree. -/
def expectedAdds (b : GroupBlock) (tree : Bool) (rank blocks i : Nat) : Nat :=
  let g := b.members.length
  let p := placeOfBlock b blocks i
  if tree then treeChildren g (treeRank g rank p.1) else if p.2 % max 1 g = rank then 0 else 1

/-- Whether the member holds the block's total at the end of the reduce phase. -/
def holdsTotal (b : GroupBlock) (tree : Bool) (rank blocks i : Nat) : Bool :=
  let g := max 1 b.members.length
  let p := placeOfBlock b blocks i
  if tree then decide (treeRank g rank p.1 = 0) else decide ((rank + 1) % g = p.2 % g)

/-- The ranks to which a member sends block `i`: in a ring the next in rank order, but for a total that has gone round; in a tree
its parent, floor((label - 1) / 2), in the reduce phase, and its children with a total (R299, R300). -/
def receivers (b : GroupBlock) (tree : Bool) (rank blocks i : Nat) (total : Bool) : List Nat :=
  let g := max 1 b.members.length
  let p := placeOfBlock b blocks i
  let label := treeRank g rank p.1
  if tree then
    if total then (treeKids g label).map fun l => rankOfLabel g l p.1
    else if label = 0 then [] else [rankOfLabel g ((label - 1) / 2) p.1]
  else if total && decide ((rank + 2) % g = p.2 % g) then [] else [(rank + 1) % g]

/-! ### Prices (R301, R307, R313) -/

/-- The decision bound B at 1.6 GHz: 2 us inside one domain, 6 us across domains (R307); a collective barrier's release takes as
long (R326). -/
def collectiveCycles (spans : Bool) : Nat := if spans then 9600 else 3200

/-- Whether a group's members lie in more than one domain (R307). -/
def groupWide (b : GroupBlock) : Bool := decide (1 < (b.members.map (· / 512)).eraseDups.length)

/-- ceil of log2. -/
def ceilLog2 (n : Nat) : Nat := if n ≤ 1 then 0 else (n - 1).log2 + 1

/-- Cycles at 1.6 GHz in which `p` bytes go through each port of the channel's plan over `hops` hops (R301): by the slowest of
them; none carries it where the plan uses no port. -/
def State.seamCycles (s : State) (ch p hops : Nat) : Nat :=
  let ports := s.planPorts ch
  let rate := minOf (2 ^ 40) (ports.map fun p => p.payload * look 0 p.quotas ch / 256)
  let lat := maxOf (ports.map fun p => p.rtt / 2000 + 200)
  if ports = [] ∨ rate = 0 then 2 ^ 40
  else ceilDiv ((p + 48 * ceilDiv p 65472) * 1600) rate + ceilDiv (hops * lat * 16) 10

/-- Cycles of one pass of `d` bytes over `g` members in `width` rings or trees (R301). -/
def State.passCycles (s : State) (ch g width : Nat) (tree : Bool) (d : Nat) : Nat :=
  if g ≤ 1 then 0
  else if tree then s.seamCycles ch (ceilDiv d width) (2 * ceilLog2 g)
  else s.seamCycles ch (ceilDiv (2 * (g - 1) * d) (g * width)) (2 * (g - 1))

/-- Cycles of the exponent and data passes of a post of `blocks` blocks (R301). -/
def State.passesCycles (s : State) (g : GroupBlock) (tree : Bool) (blocks : Nat) : Nat :=
  let price (d : Nat) : Nat := s.passCycles (4 + g.group) g.members.length (max 1 g.width) tree d
  price blocks + price (132 * blocks)

/-- Whether a post's passes run over trees: as the group's block says, or whichever prices lower (R301), a ring where they price
alike (DESIGN CHOICE, log entry 116). -/
def State.treeFor (s : State) (g : GroupBlock) (blocks : Nat) : Bool :=
  match g.schedule with
  | 1 => false
  | 2 => true
  | _ => decide (s.passesCycles g true blocks < s.passesCycles g false blocks)

/-- Cycles of a post's passes (R301, R313): exponent, then data; an E1 post of `blocks` blocks of 34 bytes is one ring
gather. -/
def State.postCycles (s : State) (g : GroupBlock) (blocks : Nat) : Nat :=
  let n := g.members.length
  if g.format = 1 then s.seamCycles (4 + g.group) (ceilDiv ((n - 1) * 34 * blocks) (max 1 g.width)) (n - 1)
  else s.passesCycles g (s.treeFor g blocks) blocks

end Sys2Proof.Machine
end

