-- ==== Sys2Proof/Machine/Stream.lean ====
section
/-! DEFINITION. STREAM words: LOAD, STORE and the transposed TLOAD (R212, R255 to R259), the reads and basted writes of
device memory and host windows they make (R243, R254), and the translation walk (R248, R528); ROTATE (R211). -/
namespace Sys2Proof.Machine
open Sys2Proof

/-! ### Bytes with the tag of the line they come from -/

/-- One byte on its way to an address, with its source line's tag. -/
structure Moved where
  addr : Nat
  byte : Byte
  tag : BitVec 16
deriving DecidableEq, Repr

/-- The tag of each destination line, none where a line would draw on two tags (R205). -/
def lineTags : List Moved → Option (List (Nat × BitVec 16)) → Option (List (Nat × BitVec 16))
  | [], acc => acc
  | _, none => none
  | m :: ms, some acc =>
    match acc.find? fun e => e.1 == m.addr / 128 with
    | some e => if e.2 = m.tag then lineTags ms (some acc) else none
    | none => lineTags ms (some ((m.addr / 128, m.tag) :: acc))

/-! ### Device memory as a command sees it -/

/-- The basted copy of a line, its own writes first (R243). -/
def bastedLine (r : Run) (line : Nat) : Option DevLine := r.baste.dev.find? fun l => l.line == line

/-- A byte of device memory as a command reads it: its own basting, else the committed byte (R243). -/
def devByte (v : Sleeve) (r : Run) (a : Nat) : Byte :=
  match bastedLine r (a / 128) with
  | some l => l.bytes.getD (a % 128) 0
  | none => memGet v.mem a

/-- The tag of a device-memory line as a command reads it. -/
def devTag (v : Sleeve) (r : Run) (line : Nat) : BitVec 16 :=
  match bastedLine r line with
  | some l => l.tag
  | none => look 0 v.tags line

/-- A line with a command's new bytes laid over it. -/
def layLine (v : Sleeve) (r : Run) (line : Nat) (tag : BitVec 16) (ms : List Moved) : DevLine :=
  { line := line, tag := tag,
    whole := (List.range 128).all fun i => (ms.any fun m => m.addr == 128 * line + i) ||
      (match bastedLine r line with | some l => l.whole | none => false),
    bytes := (List.range 128).map fun i =>
      match ms.reverse.find? fun m => m.addr == 128 * line + i with
      | some m => m.byte
      | none => devByte v r (128 * line + i) }

/-- A command's basting with new device-memory bytes (R243). -/
def basteDev (v : Sleeve) (r : Run) (tags : List (Nat × BitVec 16)) (ms : List Moved) : List DevLine :=
  (tags.map fun t => layLine v r t.1 t.2 ms) ++ r.baste.dev.filter fun l => !(tags.any fun t => t.1 == l.line)

/-- Whether a walk for an address meets a bad table line, through the levels its leaf needs (R247, R528). -/
def State.walkBad (s : State) (sl a code : Nat) : Bool :=
  s.memSide.badTables.any fun e => e.1 == sl && decide (e.2.1 ≥ code) && e.2.2 == a / tableRange e.2.1

/-- What a walk finds: the page's base where it succeeds, else the status that stops the command (R248, R528). -/
def State.walk (s : State) (v : Sleeve) (a : Nat) : Except Status Nat :=
  if s.walkBad v.id a (v.walkEnd a) then .error 0x14
  else match v.leafAt a with
    | none => .error 0x10
    | some l => .ok l.dva

/-- The first address of a list whose translation fails, with its status, and the translation cache after the walks. A
page the cache holds is not walked; the cache keeps 512 pages (R248). -/
def State.translate (s : State) (v : Sleeve) : List Nat → List Nat → List Nat × Option (Nat × Status)
  | [], cache => (cache, none)
  | a :: as, cache =>
    match v.leafAt a with
    | some l =>
      if cache.contains l.dva then s.translate v as cache
      else match s.walk v a with
        | .ok p => s.translate v as ((p :: cache).take 512)
        | .error st => (cache, some (a, st))
    | none => (cache, some (a, match s.walk v a with | .ok _ => 0x10 | .error st => st))

/-- Each row's start on one side of a LOAD or STORE, with the start of its scale array's part. -/
def streamRow (v : View) (rb f i : Nat) : Nat × Nat := (v.row rb i, if isMx f then v.scaleAt f (v.row rb i) else 0)

/-- The (source, destination, length) pieces of a LOAD or STORE: rows, then each MX row's scales (R202, R212). -/
def streamPieces (src dst : View) (rows lines : Nat) : List (Nat × Nat × Nat) :=
  let rb := 128 * lines
  (List.range rows).flatMap fun i =>
    let a := streamRow src rb src.fmt i
    let d := streamRow dst rb src.fmt i
    (a.1, d.1, rb) :: (if isMx src.fmt then [(a.2, d.2, rb / blockBytes src.fmt)] else [])

/-- Cut a list of bytes to the lengths of pieces; bytes past its end are 0. -/
def dealBytes : List Byte → List Nat → List (List Byte)
  | _, [] => []
  | l, n :: ns => (l.take n ++ List.replicate (n - l.length) 0) :: dealBytes (l.drop n) ns

/-- Give a piece's bytes their destination addresses. -/
def placePiece (d : Nat) (bytes : List (Byte × BitVec 16)) : List Moved :=
  bytes.zipIdx.map fun e => ⟨d + e.2, e.1.1, e.1.2⟩

/-- The bolt with moved bytes in its local store, under the lines' tags: `es` the ranges that they fill. -/
def Bolt.land (b : Bolt) (tags : List (Nat × BitVec 16)) (es : List (Nat × Nat)) (ms : List Moved) : Bolt :=
  { b with
    mem := ms.foldl (fun m x => memSet m x.addr x.byte) b.mem
    baseRegs := es.foldl cutBase b.baseRegs
    tags := tags.foldl (fun t e => put 0 t e.1 e.2) b.tags }

/-- The first group of bytes that makes a line draw on two tags. -/
def firstMixed (groups : List (List Moved)) : Nat :=
  ((List.range groups.length).find? fun i => (lineTags (groups.take (i + 1)).flatten (some [])).isNone).getD 0

/-- The row of a LOAD or STORE whose bytes make a line draw on two tags: an MX row is two pieces. -/
def mixedRow (f : Nat) (groups : List (List Moved)) : Nat := firstMixed groups / (if isMx f then 2 else 1)

/-- The outcome of a read of device-memory bytes: a translation fault (R248), a poisoned line (R249, status 0x15), or a
tenant line whose key is not held (R438, status 0x3B); none where all is well. -/
def State.readFault (s : State) (v : Sleeve) (r : Run) (cache : List Nat) (addrs : List Nat) :
    List Nat × Option (Nat × Status) :=
  let t := s.translate v addrs cache
  match t.2 with
  | some e => (t.1, some e)
  | none =>
    (t.1, match addrs.find? fun a => v.poison.contains (a / 128) &&
        (match bastedLine r (a / 128) with | some l => !l.whole | none => true) with
      | some a => some (a, 0x15)
      | none =>
        match addrs.find? fun a => devTag v r (a / 128) ≠ 0 && !s.heldTenants.contains (devTag v r (a / 128)).toNat with
        | some a => some (a, 0x3B)
        | none => none)

/-- The start address of every line of the pieces' sources. -/
def pieceLines (ps : List (Nat × Nat × Nat)) : List Nat :=
  (ps.flatMap fun p => (linesOf p.1 p.2.2).map (· * 128)).eraseDups

/-- Whether the pieces touch a 64 KiB page of a list. -/
def meetsPage (pages : List Nat) (ps : List (Nat × Nat × Nat)) : Bool :=
  pages.any fun n => ps.any fun p => decide (p.1 < 65536 * (n + 1) ∧ 65536 * n < p.1 + p.2.2)

/-- What a read of the command's base finds: a page lost for want of a peer (R482), a page being fetched, for which the
stream waits (R260, R339), or the bytes. -/
inductive BaseRead where
  | lost
  | waits
  | got (data : List (List (Byte × BitVec 16)))
deriving DecidableEq, Repr

/-- A read of the command's base image. -/
def State.baseRead (s : State) (r : Run) (ps : List (Nat × Nat × Nat)) : BaseRead :=
  match s.slotOf r.base with
  | none => .waits
  | some n =>
    let sl := s.slot n
    if meetsPage sl.lost ps then .lost
    else if meetsPage sl.refetch ps then .waits
    else .got (ps.map fun p => (memRead sl.mem p.1 p.2.2).map fun x => (x, 0))

/-! ### Host windows (R250 to R252, R356) -/

/-- The window and offset of a SPACE 2 address (R250). -/
def windowOf (a : Nat) : Nat × Nat := (bitsOf a 47 44, bitsOf a 43 0)

/-- The PASID and host-virtual address behind a SPACE 2 address. -/
def Sleeve.hostAddr (v : Sleeve) (a : Nat) : Option (Nat × Nat) :=
  let w := windowOf a
  (v.windows.find? fun x => x.id == w.1).map fun x => (x.pasid, x.base + w.2)

/-- The address translation cache's entry for a page. -/
def State.atcFind (s : State) (pasid page : Nat) : Option AtcEntry :=
  s.hif.atc.find? fun e => e.pasid == pasid && decide (e.page ≤ page ∧ page < e.page + e.size)

/-- The host-physical 64-byte line behind a SPACE 2 address. -/
def State.hostLine (s : State) (v : Sleeve) (a : Nat) : Option Nat :=
  match v.hostAddr a with
  | none => none
  | some (pasid, h) => (s.atcFind pasid (h / 4096)).map fun e => (e.phys + (h / 4096 - e.page)) * 64 + h % 4096 / 64

/-- The first host page of a list of SPACE 2 addresses that has no translation with the read right. -/
def State.missingPage (s : State) (v : Sleeve) (as : List Nat) : Option (Nat × Nat) :=
  as.findSome? fun a => match v.hostAddr a with
    | none => none
    | some (pasid, h) => match s.atcFind pasid (h / 4096) with
      | some e => if e.r then none else some (pasid, h / 4096)
      | none => some (pasid, h / 4096)

/-- The 64-byte lines that the pieces' sources touch. -/
def hostReads (ps : List (Nat × Nat × Nat)) : List Nat :=
  (ps.flatMap fun p => (List.range ((p.1 + p.2.2 - 1) / 64 + 1 - p.1 / 64)).map fun i => 64 * (p.1 / 64 + i)).eraseDups

/-- Lines of a sleeve's partition of the host line cache (R357). -/
def partitionLines : Nat := 4096

/-- Lines read into the sleeve's partition, kept in Shared: RdShared for each that it does not keep, CleanEvictNoData for each
that a full partition drops, oldest first (R356, R357). -/
def State.keepLines (s : State) (sl : Nat) (lines : List Nat) : State :=
  let kept := s.hif.lineCache.filter fun e => e.1 == sl
  let mine := (kept.filter fun e => !lines.contains e.2) ++ lines.map fun l => (sl, l)
  let excess := mine.length - partitionLines
  let asks := (lines.filter fun l => !kept.contains (sl, l)).map Output.readShared
  { s with
    hif := { s.hif with lineCache := (s.hif.lineCache.filter fun e => e.1 != sl) ++ mine.drop excess }
    out := s.out ++ asks ++ (mine.take excess).map fun e => .cleanEvict e.2 }

/-- A host-window read: none where it cannot be made now, because the link is not in L0, the module is in D3hot, or a
translation is missing, which the streamer requests (R252, R346, R372). -/
def State.hostRead (s : State) (v : Sleeve) (ps : List (Nat × Nat × Nat)) : State × Bool :=
  let as := hostReads ps
  if s.hif.link ≠ .l0 ∨ s.hif.d3hot then (s, false)
  else match s.missingPage v as with
    | some (pasid, page) => (s.emit (.atsRequest pasid page), false)
    | none => (s.keepLines v.id (as.filterMap (s.hostLine v)), true)

/-- The bytes that a LOAD of the base image delivers to its rows (R134, R135): where a row's patch darns an embedding, the rows
that it replaces come from the patch, under the row's SELVAGE. Row `i` of the word is row `i` of the last RAIL-bearing
instruction (log entry 23). -/
def State.embedRows (s : State) (base : Nat) (b : Bolt) (f : Nat) (ps : List (Nat × Nat × Nat))
    (data : List (List (Byte × BitVec 16))) : List (List (Byte × BitVec 16)) :=
  (List.zip ps data).zipIdx.map fun e =>
    let side := b.sideRows.getD (if isMx f then e.2 / 2 else e.2) (none, 0)
    if side.1 = none then e.1.2
    else e.1.2.zipIdx.map fun y => match s.embedByte base (e.1.1.1 + y.2) side.1 with
      | some x => (x, side.2)
      | none => y.1

/-- STREAM OP 0, LOAD (R212): a source of SPACE 1, 2 or 3 to the local store; `host` holds the bytes that a host window
gives, in the order of the rows. -/
def execStreamLoad (bolt : Nat) (host : List Byte) (s : State) : Host.Outcome State Fault Refusal :=
  s.word bolt 4 0 fun b r w =>
    let sw := streamWord w
    let src := b.view sw.src
    let dst := b.view sw.dst
    let ps := streamPieces src dst sw.rows sw.len
    if b.room [.streamer] = false then .next s
    else
      let land (s : State) (b : Bolt) (data : List (List (Byte × BitVec 16))) : Host.Outcome State Fault Refusal :=
        let groups := (List.zip ps data).map fun e => placePiece e.1.2.1 e.2
        let ms := groups.flatten
        match lineTags ms (some []) with
        | none => .next (s.haltRun r 0x30 (mixedRow src.fmt groups) bolt)
        | some tags => within bolt (ps.map fun p => (p.2.1, p.2.2)) (s.setBolt bolt
            (({ b.land tags (ps.map fun p => (p.2.1, p.2.2)) ms with
              baseRegs := (if src.space = 3 then ps.map fun p => (p.2.1, p.2.2, p.1) else []) ++
                (b.land tags (ps.map fun p => (p.2.1, p.2.2)) ms).baseRegs } : Bolt).issueOn [.streamer] w))
      match src.space with
      | 1 =>
        match s.sleeve (ownerNum r.hdr.owner) with
        | none => .next s
        | some v =>
          let f := s.readFault v r b.xlate (pieceLines ps)
          let b1 := { b with xlate := f.1 }
          match f.2 with
          | some (a, st) => .next ((s.setBolt bolt b1).haltRun r st (if st = 0x3B then 0 else a) bolt)
          | none => land s b1 (ps.map fun p => (List.range p.2.2).map fun i =>
              (devByte v r (p.1 + i), devTag v r ((p.1 + i) / 128)))
      | 2 =>
        match s.sleeve (ownerNum r.hdr.owner) with
        | none => .next s
        | some v =>
          let h := s.hostRead v ps
          if h.2 then land h.1 b ((dealBytes host (ps.map (·.2.2))).map fun l => l.map fun x => (x, 0)) else .next h.1
      | 3 =>
        match s.baseRead r ps with
        | .lost => .next (s.haltRun r 0x64 0 bolt)
        | .waits => .next s
        | .got d => land s b (s.embedRows r.base b src.fmt ps d)
      | _ => .next s

/-- Lines that a store bastes at the I/O die (R254): whole lines from the first address of each piece. -/
def hostLines (ps : List (Nat × Nat × Nat)) (data : List (List (Byte × BitVec 16))) : List HostLine :=
  (List.zip ps data).flatMap fun e =>
    (List.range (ceilDiv e.1.2.2 128)).map fun i =>
      let part := (e.2.drop (128 * i)).take 128
      { window := (windowOf (e.1.2.1 + 128 * i)).1, off := (windowOf (e.1.2.1 + 128 * i)).2,
        bytes := part.map (·.1), tag := (part.headD (0, 0)).2 }

/-- A line stored to a span mapping goes to the member in whose share it lies, on the span's channel (R342), under the job key of
its load operation (R433). -/
def State.sendSpan (s : State) (r : Run) (node : Nat) (l : DevLine) : State :=
  match s.slotOf r.base with
  | none => s
  | some n =>
    let ch := (s.slot n).spanChannel
    s.sendSeam r.id (s.ringPort ch 0 node) node (s.slot n).jobKey ch l.bytes.length (.spanStore (128 * l.line) l.bytes l.tag)

/-- STREAM OP 1, STORE (R212): local-store lines into basting in device memory or a host window; a line of a span
mapping travels to its member (R342). A store whose lines would pass a die's full spill region waits (R243). -/
def execStreamStore (bolt : Nat) (s : State) : Host.Outcome State Fault Refusal :=
  s.word bolt 4 1 fun b r w =>
    let sw := streamWord w
    let src := b.view sw.src
    let dst := b.view sw.dst
    let ps := streamPieces src dst sw.rows sw.len
    let data := ps.map fun p => (memRead b.mem p.1 p.2.2).zipIdx.map fun e => (e.1, b.lineTag ((p.1 + e.2) / 128))
    let groups := (List.zip ps data).map fun e => placePiece e.1.2.1 e.2
    let ms := groups.flatten
    if b.room [.streamer] = false then .next s
    else match lineTags ms (some []) with
      | none => .next (s.haltRun r 0x30 (mixedRow src.fmt groups) bolt)
      | some tags =>
        let done (s : State) (b : Bolt) : Host.Outcome State Fault Refusal :=
          within bolt (ps.map fun p => (p.1, p.2.2)) (s.setBolt bolt (b.issueOn [.streamer] w))
        match dst.space with
        | 1 =>
          match s.sleeve (ownerNum r.hdr.owner) with
          | none => .next s
          | some v =>
            let t := s.translate v (tags.map fun e => e.1 * 128) b.xlate
            let b1 := { b with xlate := t.1 }
            match t.2 with
            | some (a, st) => .next ((s.setBolt bolt b1).haltRun r st (if st = 0x3B then 0 else a) bolt)
            | none =>
              let spanned (l : Nat) : Option Nat := match v.leafAt (l * 128) with
                | some lf => if lf.node = 0xFFFF then none else some lf.node
                | none => none
              let own := tags.filter fun e => (spanned e.1).isNone
              let away := tags.filterMap fun e => (spanned e.1).map fun n => (n, layLine v r e.1 e.2 ms)
              let new := (own.filter fun e => (bastedLine r e.1).isNone).map fun e => (v.id, e.1)
              let s1 := away.foldl (fun s e => s.sendSpan r e.1 e.2) s
              if s.spillFull new then .next s
              else done (s1.updRun r.id fun q => { q with baste := { q.baste with
                dev := basteDev v q own ms, spilled := q.baste.spilled ++ s.spillsOf new } }) b1
        | 2 => done (s.updRun r.id fun q =>
            { q with baste := { q.baste with host := q.baste.host ++ hostLines ps data } }) b
        | _ => .next s

/-! ### Transposed loads (R258, R259) -/

/-- The element at row `i`, column `j` of a source as its tag and value. -/
structure SrcRow where
  bits : List Nat
  vals : List Num
  tags : List (BitVec 16)
deriving DecidableEq, Repr

/-- One transposed row: element bits and block scales. A plain format transposes exactly; an MX source is re-blocked
(R259). -/
def transposeRow (f : Nat) (src : List SrcRow) (j : Nat) : List Nat × List Nat :=
  if isMx f then
    let r := (chunks 32 (src.length + 1) (src.map fun x => x.vals.getD j zero)).map (reblock f)
    (r.flatMap (·.1), r.map (·.2))
  else (src.map fun x => x.bits.getD j 0, [])

/-- STREAM OP 2, TLOAD (R258): `rows` rows of `len` elements arrive as `len` rows of `rows` elements. -/
def execStreamTload (bolt : Nat) (s : State) : Host.Outcome State Fault Refusal :=
  s.word bolt 4 2 fun b r w =>
    let sw := streamWord w
    let src := b.view sw.src
    let dst := b.view sw.dst
    let f := src.fmt
    let rb := rowBytes f sw.len
    let rowAt (i : Nat) : Nat := src.row rb i
    let ps : List (Nat × Nat × Nat) := (List.range sw.rows).flatMap fun i =>
      (rowAt i, 0, rb) :: (if isMx f then [(src.scaleAt f (rowAt i), 0, sw.len / 32)] else [])
    if b.room [.streamer] = false then .next s
    else
      let finish (b : Bolt) (get : Nat → Byte) (tagOf : Nat → BitVec 16) : Host.Outcome State Fault Refusal :=
        let rows : List SrcRow := (List.range sw.rows).map fun i =>
          let a := rowAt i
          let bits := unpackRow f sw.len ((List.range rb).map fun k => get (a + k))
          { bits := bits
            vals := bits.zipIdx.map fun e =>
              readElem f e.1 (if isMx f then (get (src.scaleAt f a + e.2 / 32)).toNat else src.scale)
            tags := (List.range sw.len).map fun j => tagOf ((a + j * fmtWidth f / 8) / 128) }
        let orb := rowBytes f sw.rows
        let ms : List Moved := (List.range sw.len).flatMap fun j =>
          let t := transposeRow f rows j
          let a := dst.row orb j
          let tagOfByte (k : Nat) : BitVec 16 := ((rows.getD (min (8 * k / fmtWidth f) (sw.rows - 1)) ⟨[], [], []⟩).tags).getD j 0
          ((packRow f t.1).zipIdx.map fun e => (⟨a + e.2, e.1, tagOfByte e.2⟩ : Moved)) ++
          (t.2.zipIdx.map fun e =>
            (⟨dst.scaleAt f a + e.2, BitVec.ofNat 8 e.1, ((rows.getD (32 * e.2) ⟨[], [], []⟩).tags).getD j 0⟩ : Moved))
        let mixedAt (j : Nat) : Bool :=
          (List.range sw.rows).any fun i =>
            let line := (dst.row orb j + i * fmtWidth f / 8) / 128
            let lead := (List.range sw.rows).find? fun k => (dst.row orb j + k * fmtWidth f / 8) / 128 == line
            (rows.getD i ⟨[], [], []⟩).tags.getD j 0 != (rows.getD (lead.getD i) ⟨[], [], []⟩).tags.getD j 0
        let firstMixedRow := ((List.range sw.len).find? mixedAt).getD 0
        match (List.range sw.len).any mixedAt, lineTags ms (some []) with
        | false, some tags =>
          let es := dst.extents f sw.len sw.rows
          let b1 := b.land tags es ms
          within bolt es (s.setBolt bolt (({ b1 with
            baseRegs := (if src.space = 3 then es.map fun p => (p.1, p.2, src.addr) else []) ++ b1.baseRegs } : Bolt).issueOn
              [.streamer] w))
        | _, _ => .next (s.haltRun r 0x30 firstMixedRow bolt)
      match src.space with
      | 1 =>
        match s.sleeve (ownerNum r.hdr.owner) with
        | none => .next s
        | some v =>
          let e := s.readFault v r b.xlate (pieceLines ps)
          let b1 := { b with xlate := e.1 }
          match e.2 with
          | some (a, st) => .next ((s.setBolt bolt b1).haltRun r st (if st = 0x3B then 0 else a) bolt)
          | none => finish b1 (devByte v r) (devTag v r)
      | 3 =>
        match s.baseRead r ps, s.slotOf r.base with
        | .lost, _ => .next (s.haltRun r 0x64 0 bolt)
        | .got _, some n => finish b (memGet (s.slot n).mem) (fun _ => 0)
        | _, _ => .next s
      | _ => .next s

/-- TRANSLATION_WALK: a streamer that misses walks the tables for an address of its command (R248): a success fills the
translation cache; a bad table line stops the command with 0x14 (R528). -/
def execTranslationWalk (bolt dva : Nat) (s : State) : Host.Outcome State Fault Refusal :=
  .next (match s.liveRun bolt with
  | none => s
  | some r =>
    match s.sleeve (ownerNum r.hdr.owner) with
    | none => s
    | some v =>
      let t := s.translate v [dva] (s.bolt bolt).xlate
      let s1 := s.updBolt bolt fun b => { b with xlate := t.1 }
      match t.2 with
      | some (a, st) => s1.haltRun r st (if st = 0x3B then 0 else a) bolt
      | none => s1)

/-- ROTATE (R211): the normalised transform of a local-store tensor, handed off under TAG and KIND; a rotation that the
recipe names runs at the hand-off (R185). DESIGN CHOICE (log entry 114): where both rotate, the record and later checks show
the recipe's length. -/
def execRotate (bolt : Nat) (s : State) : Host.Outcome State Fault Refusal :=
  s.word bolt 3 0 fun b r w =>
    let rw := rotateWord w
    if b.room [.rotation] = false then .next s
    else
      let vs := b.view rw.src
      let vd := b.view rw.dst
      let vals := (readTensor b.mem vs rw.rows rw.cols).map (rotateRow rw.log2l)
      let rcp := r.recipe rw.kind
      let rot := s.rotationOf r b rcp rw.consEn rw.consS
      let h : HandOff := ⟨rw.tag, rw.kind, rot, fun _ => laneUnitRotation, [], b.rowTags vs rw.rows rw.cols⟩
      let s1 := (s.setBolt bolt (b.issueOn [.rotation] w)).handOff bolt r vd h (List.range rw.rows) vals
      let s2 := if rot = 0 then
          (s1.updBolt bolt fun b => { b with tagInfo := b.tagInfo.map fun t => if t.tag = rw.tag then { t with rot := rw.log2l } else t }).updRun
            r.id fun q => { q with baste := { q.baste with
              stats := q.baste.stats.map fun x => if x.tag = rw.tag ∧ x.rot = 0 then { x with rot := rw.log2l } else x } }
        else s1
      within bolt (vs.extents vs.fmt rw.rows rw.cols ++ vd.extents rcp.format rw.rows rw.cols) s2

end Sys2Proof.Machine
end

