-- ==== Sys2Proof/Machine/MemoryEvents.lean ====
section
/-! DEFINITION. Memory-side events: uncorrectable lines (R239, R260, R478), retirement and scrub (R249), settling (R244),
base refetch (R339), and host-window faults during a run (R252). -/
namespace Sys2Proof.Machine
open Sys2Proof

/-- Count an uncorrectable line at a memory-side die (R485, R495). -/
def State.countUncorrectable (s : State) (die : Nat) : State :=
  let d := look {} s.memSide.dies die
  { s with
    memSide := { s.memSide with dies := put {} s.memSide.dies die { d with uncorrected := d.uncorrected + 1 } }
    rel := { s.rel with uncorr := sat32 s.rel.uncorr } }

/-- The frame that a POP of the bolt's command would read. -/
def State.seenFrame (s : State) (b lane : Nat) : Option Frame :=
  (match s.liveRun b with
  | some r => framesOf (s.bolt b) r b lane
  | none => (look ({} : Lane) (s.bolt b).lanes lane).frames).head?

/-- SEAL and OWNER of what a line holds, for the integrity event (R247, R449). -/
def State.sealOwner (s : State) : LineHolds → Nat × Nat
  | .sleeveData sl dva => (match s.sleeve sl with | some v => (look 0 v.tags (dva / 128)).toNat | none => 0, sl)
  | .tableLine _ _ _ => (0, 16)
  | .baseLine slot _ _ => (0, 17 + slot)
  | .patchState h => match s.patch h with | some p => (p.tenant, p.sleeve) | none => (0, 16)
  | .pocket _ h _ => match s.patch h with | some p => (p.tenant, p.sleeve) | none => (0, 16)
  | .stackFrame b lane line => (match s.seenFrame b lane with | some f => f.seal line | none => 0, match s.ownerOf b with | some v => v.id | none => 16)
  | _ => (0, 16)

/-- Whether a waiting event is the SECURITY event of this stitch for one SEAL, OWNER and die: all of it but the count of
mismatches (R449). -/
def EventRec.sameIntegrity (e : EventRec) (stitch place : Nat) : Bool :=
  e.type == 5 && e.stitch == stitch && e.detail.setWidth 96 == (detailOf [(16, 1, 0), (24, 8, place)]).setWidth 96

/-- An integrity mismatch counts and raises a SECURITY event, which waits for the hem and counts the mismatches of its SEAL,
OWNER and die until then (R239, R449, R485). -/
def State.integrity (s : State) (holds : LineHolds) (die : Nat) : State :=
  let so := s.sealOwner holds
  let place := so.1 + so.2 * 2 ^ 16 + die * 2 ^ 24
  let same (e : EventRec) : Bool := e.sameIntegrity s.time.stitch.toNat place
  let bump (e : EventRec) : EventRec := if same e then { e with detail := e.detail + BitVec.ofNat 128 (2 ^ 96) } else e
  let s1 : State := { s with rel := { s.rel with integrity := sat32 s.rel.integrity } }
  if s1.evq.waiting.any same then
    ({ s1 with evq := { s1.evq with waiting := s1.evq.waiting.map bump } } : State).errorTrigger 13
  else s1.security 0 (place + 2 ^ 32)

/-- The frame at a list's head is lost. -/
def loseHead : List Frame → List Frame
  | [] => []
  | f :: fs => { f with lost := true } :: fs

/-- A lane's top frame is lost. -/
def Lane.loseTop (l : Lane) : Lane := { l with frames := loseHead l.frames }

/-- The committed frame that a command has at the top of its lane after it popped some: it has as many frames below it. -/
def Lane.loseAt (l : Lane) (n : Nat) : Lane :=
  { l with frames := l.frames.take (l.frames.length - n) ++ loseHead (l.frames.drop (l.frames.length - n)) }

/-- The frame that a POP of the bolt's command would read is lost (R150): the one at the top of the lane as the command sees
it, in its basted copy and among the committed frames; without such a copy, the committed top frame. -/
def State.loseFrame (s : State) (b lane : Nat) : State :=
  let committed (f : Lane → Lane) (s : State) : State :=
    s.updBolt b fun x => { x with lanes := put {} x.lanes lane (f (look {} x.lanes lane)) }
  match (s.liveRun b).bind fun r => (r.baste.lanes.find? fun l => l.1 == laneNo b lane).map fun l => (r.id, l.2) with
  | some (id, l) =>
    (committed (·.loseAt l.frames.length) s).updRun id fun q =>
      { q with baste := { q.baste with lanes := setLane q.baste.lanes (laneNo b lane) l.loseTop } }
  | none => committed Lane.loseTop s

/-- A page of an area holds an uncorrectable line whose address the event does not give. -/
def State.badSomewhere (s : State) (area : Nat) : State :=
  let f := s.fresh
  f.2.pageIsBad area (Config.badPage f.1)

/-- Whether a commit is that of a run. -/
def isCommitOf (r : Run) (c : Commit) : Bool :=
  decide (c.owner = r.hdr.owner ∧ c.record.queue = r.hdr.queue ∧ c.record.slot = r.hdr.slot ∧ c.record.tag = r.hdr.tag)

/-- Whether a command of the hem has committed on the device's side and nothing of it has left the module yet. -/
def State.undoable (s : State) (r : Run) : Bool := s.hif.commits.any fun c => !c.issued && isCommitOf r c

/-- A sleeve with the parts that device-side commits write as the commit log holds them; its commands `ids` are admitted
again. -/
def Sleeve.undone (v : Sleeve) (old : List Sleeve) (ids : List Nat) : Sleeve :=
  match old.find? fun o => o.id == v.id with
  | none => v
  | some o =>
    { v with
      mem := o.mem, tags := o.tags, poison := o.poison, leaves := o.leaves, windows := o.windows, hist := o.hist
      recTrain := o.recTrain, recServe := o.recServe, patterns := o.patterns, raised := o.raised
      accepted := v.accepted.map fun a => if ids.contains a.run then { a with status := none } else a }

/-- The device-side effects of the commits from a point of the commit log on are undone (R47): their commands are back in the
book, with those that ended after it and whose records are not out. -/
def State.undoTo (s : State) (p : LogPoint) : State :=
  let back := p.runs.filter fun r => (s.findRun r.id).isSome || s.undoable r
  let ids := back.map (·.id)
  ({ s with
    runs := back ++ s.runs.filter fun r => !ids.contains r.id
    sleeves := s.sleeves.map fun v => v.undone p.sleeves ids
    tenants := p.tenants, patches := p.patches, groups := p.groups
    memSide := { s.memSide with
      unsettled := s.memSide.unsettled.filter p.unsettled.contains, spilled := s.memSide.spilled.filter p.spilled.contains }
    sec := { s.sec with keys := p.keys }
    time := { s.time with lenNext := p.lenNext, floorNext := p.floorNext, log := [] }
    snap := { s.snap with armed := p.armed }
    bases := { s.bases with ingest := p.ingest }
    hif := { s.hif with commits := s.hif.commits.filter fun c => c.issued || !(back.any fun r => isCommitOf r c) } } :
    State).updBolts (List.range 16) fun n b => match p.bolts.find? fun x => x.1 == n with
      | some x => { b with lanes := x.2.1, pockets := x.2.2 }
      | none => b

/-- A fault during a commit (R47): of the hem's commands of which nothing has left the module, the first ones may have their
commit record written, which is an amount of time and free (log entry 103); they stand, and the rest are undone. -/
def State.undoCommits (s : State) : State :=
  let l := s.time.log.dropWhile fun p => !(p.runs.any fun r => r.id == p.run && s.undoable r)
  if l = [] ∨ s.time.hem = false then s
  else
    let f := s.fresh
    match l.drop (Config.recordsWritten f.1 % (l.length + 1)) with
    | [] => f.2
    | p :: _ => f.2.undoTo p

/-- What follows an uncorrectable line (R249, R260, R478), by what it holds: its page is to be retired. -/
def State.badLine (s : State) (die : Nat) : LineHolds → State
  | .sleeveData sl dva =>
    ((s.updSleeve sl fun v => { v with
        poison := if v.poison.contains (dva / 128) then v.poison else dva / 128 :: v.poison }).contained
      { cls := 1, source := 0x11, loc := (4 + die) * 16, sleeve := sl, status := 0x15, addr := BitVec.ofNat 64 dva })
      |> fun t => t.pageIsBad sl (dva / 65536)
  | .tableLine sl dva level =>
    ((({ s with memSide := { s.memSide with badTables := (sl, level, dva / tableRange level) :: s.memSide.badTables } } : State).contained
      { cls := 1, source := 0x12, loc := (4 + die) * 16, sleeve := sl, status := 0x14 }).badSomewhere (tableArea sl))
  | .baseLine slot offset peer =>
    let h := (s.slot slot).handle
    let e : LogEntry := { cls := 1, source := 0x13, loc := (4 + die) * 16, status := if peer then 0 else 0x64
                          addr := BitVec.ofNat 64 (h * 2 ^ 48 + offset % 2 ^ 48) }
    let page := offset / 65536
    if (s.slot slot).state = .free then s
    else if peer then
      (((s.pageIsBad (slotArea slot) page).updSlot slot fun q => { q with refetch := if q.refetch.contains page then q.refetch else page :: q.refetch }).contained e).emit
        (.refetch slot page (Config.nearestPeer s.domain.plan h))
    else ((s.pageIsBad (slotArea slot) page).updSlot slot fun q => { q with lost := if q.lost.contains page then q.lost else page :: q.lost }).contained e
  | .patchState h =>
    ((s.losePatch h).contained
      { cls := 1, source := 0x14, loc := (4 + die) * 16, status := 0x62, addr := BitVec.ofNat 64 h }).badSomewhere (patchArea h)
  | .stackFrame b lane _ =>
    ((({ s with rel := { s.rel with framesLost := min (s.rel.framesLost + 1) 65535 } } : State).loseFrame b lane).contained
      { cls := 1, source := 0x15, loc := (4 + die) * 16, status := 0x63, info := BitVec.ofNat 64 lane
        sleeve := match s.ownerOf b with | some v => v.id | none => 255 }).badSomewhere (laneArea b lane)
  | .bastedLine => s.unravelFrom (4 + die) 0x16 ((4 + die) * 16) 255
  | .commitWrite => s.undoCommits.unravelFrom 8 0x22 0x80 255
  | .pocket b h ok =>
    let s1 := s.contained { cls := 1, source := 0x03, loc := b / 4 * 16 + b % 4, addr := BitVec.ofNat 64 h
                            status := if ok then 0 else 0x62 }
    if ok then s1 else s1.losePatch h

/-- LINE_UNCORRECTABLE (R239, R260). -/
def execLineUncorrectable (holds : LineHolds) (die : Nat) (integrity : Bool) (s : State) :
    Host.Outcome State Fault Refusal :=
  let s1 := s.countUncorrectable die
  .next ((if integrity then s1.integrity holds die else s1).badLine die holds)

/-! ### Retirement and scrub -/

/-- Whether a page's area is one that a page of can be retired: mapped, the firmware store or a spill region, or a region, slot or
sleeve that exists. -/
def State.pageExists (s : State) (area dva : Nat) : Bool :=
  if area < 16 then (match s.sleeve area with | some v => (v.leafAt dva).isSome | none => false)
  else decide (firmwareArea ≤ area ∧ area ≤ spillArea 3) ||
    ((List.range 4).any fun n => slotArea n == area && decide ((s.slot n).state ≠ .free)) ||
    s.sleeves.any fun v => area ≠ v.id && (s.areasOf v).contains area

/-- Whether a placed command of the present stitch writes a 64 KiB page of an area: a granule of its sleeve's space, its
patches' state, its lanes, its sleeve's images and histories, a die's spill region. -/
def State.writesPage (s : State) (area page : Nat) : Bool :=
  s.runs.any fun r => r.holds s.time.stitch.toNat && (
    (decide (ownerNum r.hdr.owner = area) && r.writeGran.contains page) ||
    (r.regions.any fun h => patchArea h == area) || (isUpdate r.body && r.patches.any fun h => patchArea h == area) ||
    decide (shareArea (ownerNum r.hdr.owner) = area) || (r.baste.spilled.any fun e => spillArea (s.dieOf e.1 e.2) == area) ||
    r.lanes.any fun n => laneArea (n / 4) (n % 4) == area)

/-- The spare pool is empty (R249): retirement stops and the condition is reported once. -/
def State.sparesEmpty (s : State) : State :=
  if s.memSide.sparesReported then s
  else ({ s with memSide := { s.memSide with sparesReported := true } } : State).event 0x0A 255 []

/-- PAGE_RETIRE (R249): a page with 16 corrected lines in 24 hours or an uncorrectable one is copied to a spare page in the working
part of a stitch in which no placed command writes it; its entry is switched in that stitch's hem. -/
def execPageRetire (area dva : Nat) (s : State) : Host.Outcome State Fault Refusal :=
  let page := dva / 65536
  .next (
    if s.time.hem = true ∨ s.pageExists area dva = false ∨ s.pageFails area page = false ∨ s.writesPage area page = true ∨
        (s.memSide.retiring.any fun e => e.1 == area && e.2.1 == page) = true then s
    else if s.memSide.spares = 0 then s.sparesEmpty
    else
      let f := s.fresh
      { f.2 with memSide := { f.2.memSide with
          spares := f.2.memSide.spares - 1
          retiring := f.2.memSide.retiring ++ [(area, page, Config.dpaPick f.1)] } })

/-- PATROL_SCRUB (R249): one pass over every line; `corrected` lists the lines that needed correction since the last pass,
whatever read met them (log entry 98), as area and byte address. Each counts against its page. -/
def execPatrolScrub (corrected : List (Nat × Nat)) (s : State) : Host.Outcome State Fault Refusal :=
  let s1 := corrected.foldl (fun (s : State) c =>
    let die := s.dieOf c.1 (c.2 / 128)
    let d := look {} s.memSide.dies die
    { s with
      memSide := { s.memSide with
        pageCorr := (c.1, c.2 / 65536, s.time.us) :: s.memSide.pageCorr
        dies := put {} s.memSide.dies die { d with corrected := d.corrected + 1 } }
      rel := { s.rel with corrected := s.rel.corrected + 1 } }) s
  .next (if s1.memSide.spares = 0 ∧ (s1.memSide.pageCorr.any fun e => s1.pageFails e.1 e.2.1) = true then s1.sparesEmpty else s1)

/-- LINE_SETTLE (R244): a committed line reaches its home address, which frees its place in the cache or its spill slot;
reads see no difference. -/
def execLineSettle (area line : Nat) (s : State) : Host.Outcome State Fault Refusal :=
  .next (s.forgetLines fun a l => a == area && l == line)

/-- A page copied to a spare page is replaced by it (R249): in its sleeve's tables, whose split leaves may take spare pages for
their new tables (R527), or in another area. -/
def State.switchCopied (s : State) (e : Nat × Nat × BitVec 25) : State :=
  let was := match s.sleeve e.1 with | some v => splitPages v.leaves | none => 0
  let s1 := if e.1 < 16 then s.updSleeve e.1 fun v => { v with leaves := switchPage v.leaves e.2.1 e.2.2 }
    else { s with memSide := { s.memSide with
      moved := e :: s.memSide.moved.filter fun x => !(x.1 == e.1 && x.2.1 == e.2.1) } }
  let now := match s1.sleeve e.1 with | some v => splitPages v.leaves | none => 0
  let s2 := { s1 with
    memSide := { s1.memSide with
      spares := s1.memSide.spares - (now - was)
      pageCorr := s1.memSide.pageCorr.filter fun x => !(x.1 == e.1 && x.2.1 == e.2.1)
      pageBad := s1.memSide.pageBad.filter fun x => !(x.1 == e.1 && x.2 == e.2.1) }
    rel := { s1.rel with retired := sat32 s1.rel.retired } }
  let sl := if e.1 < 16 then e.1 else 255
  (s2.logError { cls := 0, source := 0x10, loc := (4 + s.dieOf e.1 (pageLines * e.2.1)) * 16, sleeve := sl
                 addr := BitVec.ofNat 64 (65536 * e.2.1) }).event 0x09 sl [(16, 2, s2.memSide.spares)]

/-- BASE_PAGE_REFETCH (R339): the page a peer sent is written into a replacement page, while the spare pool has one. -/
def execBasePageRefetch (slot page : Nat) (data : List Byte) (s : State) : Host.Outcome State Fault Refusal :=
  .next (
    if (s.slot slot).refetch.contains page then
      let s1 := s.updSlot slot fun q => { q with
        refetch := q.refetch.filter (· != page), mem := memWrite q.mem (65536 * page) (data.take 65536) }
      let s2 : State := { s1 with rel := { s1.rel with refetched := sat32 s1.rel.refetched } }
      if s2.memSide.spares = 0 then s2.sparesEmpty
      else
        let f := s2.fresh
        ({ f.2 with memSide := { f.2.memSide with spares := f.2.memSide.spares - 1 } } : State).switchCopied
          (slotArea slot, page, Config.dpaPick f.1)
    else s)

/-! ### Host-window faults -/

/-- HOST_READ_POISON (R252): the command ends with 0x1B, and no copy of the line is kept in any partition. -/
def execHostReadPoison (bolt addr : Nat) (s : State) : Host.Outcome State Fault Refusal :=
  .next (match s.liveRun bolt with
  | none => s
  | some r =>
    let s1 := match (s.sleeve (ownerNum r.hdr.owner)) with
      | none => s
      | some v => match s.hostLine v addr with
        | none => s
        | some l => { s with hif := { s.hif with lineCache := s.hif.lineCache.filter fun e => e.2 != l } }
    s1.haltRun r 0x1B addr bolt)

/-- Page requests that may still go out for a sleeve: 512 outstanding in the module, 32 in a sleeve (R364). -/
def State.pageRoom (s : State) (sl : Nat) : Nat :=
  let out := s.hif.pageReqs.filter fun q => decide (q.stage = .sent)
  min (512 - out.length) (32 - (out.filter fun q => q.sleeve == sl).length)

/-- A group number that no outstanding page request has. -/
def State.freeGroup (s : State) : Nat :=
  ((List.range 513).find? fun g => !(s.hif.pageReqs.any fun q => decide (q.stage = .sent) && q.group == g)).getD 0

/-- A host page joins those that are waited for. -/
def State.waitPage (s : State) (q : PageReq) : State := { s with hif := { s.hif with pageReqs := s.hif.pageReqs ++ [q] } }

/-- Whether two awaited pages belong to one command and window. -/
def PageReq.sameGroup (a b : PageReq) : Bool := a.run == b.run && a.sleeve == b.sleeve && a.window == b.window

/-- The absent pages of one command and window go out as one page request group, once every translation of them is
answered (R251, R364); what the limits leave over goes out when there is room. -/
def State.sendGroup (s : State) (q : PageReq) : State :=
  let mine := s.hif.pageReqs.filter q.sameGroup
  let go := (mine.filter fun x => decide (x.stage = .absent)).take (s.pageRoom q.sleeve)
  if go = [] ∨ (mine.any fun x => decide (x.stage = .asked)) = true then s
  else
    let g := s.freeGroup
    go.foldl (fun (s : State) x => s.emit (.pageRequest x.pasid x.page x.write)) { s with hif := { s.hif with
      pageReqs := s.hif.pageReqs.map fun x => if go.contains x then { x with group := g, stage := .sent } else x } }

/-- Every group that may go out does. -/
def State.sendGroups (s : State) : State := s.hif.pageReqs.foldl State.sendGroup s

/-- HOST_TRANSLATION_FAULT (R252): the page is absent or not permitted; the command ends with 0x12 and a page request goes
out. -/
def execHostTranslationFault (bolt addr : Nat) (s : State) : Host.Outcome State Fault Refusal :=
  .next (match s.liveRun bolt with
  | none => s
  | some r =>
    let s1 := s.haltRun r 0x12 addr bolt
    match (s.sleeve (ownerNum r.hdr.owner)) with
    | none => s1
    | some v => match v.hostAddr addr, v.windows.find? fun x => x.id == (windowOf addr).1 with
      | some (pasid, h), some w =>
        let q : PageReq := { group := 0, sleeve := v.id, pasid := pasid, page := h / 4096, write := w.w, run := 0
                             window := w.id, stage := .absent }
        (s1.waitPage q).sendGroup q
      | _, _ => s1)

end Sys2Proof.Machine
end

