-- ==== Sys2Proof/Machine/HostWrites.lean ====
section
/-! DEFINITION. What the I/O die writes to the host: commit writes and their GOs (R360, R361, R372), completion records
(R391 to R393), MSI-X messages (R366), event records (R398), and the teardown of sleeves (R374, R410). -/
namespace Sys2Proof.Machine
open Sys2Proof

/-- Whether the module may send requests and messages to the host (R346, R372). -/
def State.hostOpen (s : State) : Bool := decide (s.hif.link = .l0) && !s.hif.d3hot

/-! ### MSI-X -/

/-- A vector is signalled (R366): a masked vector sets its pending bit; a closed link holds the message. -/
def State.msix (s : State) (v : Nat) : State :=
  if !s.hif.msixEnable then s
  else if s.hif.msixMaskAll || (look {} s.hif.msixTable v).masked then
    { s with hif := { s.hif with msixPending := if s.hif.msixPending.contains v then s.hif.msixPending else s.hif.msixPending ++ [v] } }
  else if s.hostOpen then s.emit (.msix v)
  else { s with hif := { s.hif with msixDue := if s.hif.msixDue.contains v then s.hif.msixDue else s.hif.msixDue ++ [v] } }

/-- Send the messages that a closed link held. -/
def State.flushMsix (s : State) : State :=
  if s.hostOpen then s.hif.msixDue.foldl State.msix { s with hif := { s.hif with msixDue := [] } } else s

/-- Send pending messages that are no longer masked (R366). -/
def State.sendPending (s : State) : State :=
  if !s.hif.msixEnable || s.hif.msixMaskAll then s
  else
    let go := s.hif.msixPending.filter fun v => !(look {} s.hif.msixTable v).masked
    go.foldl State.msix { s with hif := { s.hif with msixPending := s.hif.msixPending.filter fun v => !go.contains v } }

/-! ### Completion queues -/

/-- The completion queues of an owner. -/
def State.cqs (s : State) : Owner → List Cq
  | .admin => s.admCqs
  | .sleeve n => match s.sleeve n with | some v => v.cqs | none => []

/-- Change one completion queue. -/
def State.updCq (s : State) (o : Owner) (q : Nat) (f : Cq → Cq) : State :=
  match o with
  | .admin => { s with admCqs := s.admCqs.map fun c => if c.id = q then f c else c }
  | .sleeve n => s.updSleeve n fun v => { v with cqs := v.cqs.map fun c => if c.id = q then f c else c }

/-- Whether the next record would leave no free slot (R392). -/
def Cq.appearsFull (c : Cq) : Bool := decide ((c.tail + 1) % c.size = c.head % c.size)

/-- The 32 bytes of a completion record (R393). -/
def CompRec.bytes (phase : Bool) (r : CompRec) : List Byte :=
  leBytes 2 r.tag.toNat ++ [r.status, r.watch] ++
  leBytes 2 (r.late % 2 ^ 12 + (if r.committed then 2 ^ 14 else 0) + (if phase then 2 ^ 15 else 0)) ++ [r.lateCause] ++
  leBytes 1 (r.queue % 8) ++ leBytes 6 r.submit ++ leBytes 2 (r.slot % 2 ^ 12) ++ leBytes 2 r.delta ++ leBytes 2 r.cost ++
  leBytes 2 r.measured ++ leBytes 2 r.handle ++ leBytes 7 r.detail.toNat ++ leBytes 1 r.bolt

/-- The host line cache drops its copies of the lines of a host range before they are written (R356). -/
def State.dropKept (s : State) (pasid addr n : Nat) : State :=
  let lines := (List.range ((addr % 64 + n + 63) / 64)).filterMap fun i =>
    let a := addr / 64 * 64 + 64 * i
    (s.atcFind pasid (a / 4096)).map fun e => (e.phys + (a / 4096 - e.page)) * 64 + a % 4096 / 64
  { s with hif := { s.hif with lineCache := s.hif.lineCache.filter fun e => !lines.contains e.2 } }

/-- A record at the queue's tail. -/
def Cq.place (c : Cq) (r : CompRec) : Output := .compRec c.pasid (c.base + 32 * c.tail) c.phase r

/-- Write one record to a queue (R391, R393): the phase flips on each lap. -/
def State.putRecord (s : State) (o : Owner) (c : Cq) (r : CompRec) : State :=
  let wrap := decide (c.tail + 1 = c.size)
  ((s.dropKept c.pasid (c.base + 32 * c.tail) 32).emit (c.place r)).updCq o c.id fun c =>
    { c with tail := if wrap then 0 else c.tail + 1, phase := if wrap then !c.phase else c.phase }

/-- A ring that appears full: its head word is read (R392), and its records are held. -/
def State.fillCq (s : State) (o : Owner) (q : Cq) : State :=
  if q.full then s else (s.emit (.readCurr q.pasid q.headAddr)).updCq o q.id fun c => { c with full := true }

/-- The requests of one host write, a 64-byte line each: ItoMWr for a whole line, WOWrInv with byte enables for a part (R356). -/
def lineWrites (pasid : Nat) (sealed : Option (Nat × BitVec 128)) : Nat → Nat → List Byte → List Output
  | 0, _, _ => []
  | n + 1, a, d =>
    let k := min d.length (64 - a % 64)
    if k = 0 then [] else .lineWrite (decide (k = 64)) pasid a (d.take k) sealed :: lineWrites pasid sealed n (a + k) (d.drop k)

/-- A commit write goes out: the host line cache drops its copies, then the line requests leave (R356). -/
def State.sendWrite (s : State) (o : Output) : State :=
  match o with
  | .hostWrite p a d x => (lineWrites p x (d.length / 64 + 2) a d).foldl State.emit (s.dropKept p a d.length)
  | .sealedImage p a _ _ x => (s.dropKept p a (imageBytes x.length)).emit o
  | _ => s.emit o

/-- Go through the commits in order: issue writes not yet out, write the records whose GOs have come, and keep every commit until
its record has its own GO. A record waits behind an earlier one of its queue (`held`: queues with a waiting record); a full queue
holds its records (R360, R391, R392). -/
def State.pumpFrom (s : State) : List Commit → List (Owner × Nat) → State × List Commit
  | [], _ => (s, [])
  | c :: cs, held =>
    if c.sent.isSome then
      let r := s.pumpFrom cs held
      (r.1, c :: r.2)
    else
      let s1 := if c.issued then s else c.writes.foldl State.sendWrite s
      let c1 := { c with issued := true, answered := c.answered || c.writes.isEmpty }
      match (s1.cqs c.owner).find? fun q => q.id == c.cq with
      | none => s1.pumpFrom cs held
      | some q =>
        if !c1.answered || held.contains (c.owner, c.cq) || q.full || q.appearsFull then
          let s2 := if c1.answered && !held.contains (c.owner, c.cq) then s1.fillCq c.owner q else s1
          let r := s2.pumpFrom cs ((c.owner, c.cq) :: held)
          (r.1, c1 :: r.2)
        else
          let r := (s1.putRecord c.owner q c1.record).pumpFrom cs held
          (r.1, { c1 with sent := some (q.place c1.record) } :: r.2)

/-- The vector that a waiting commit's queue signals. -/
def State.commitVector (s : State) (c : Commit) : Option Nat :=
  ((s.cqs c.owner).find? fun q => q.id == c.cq).map (·.vector)

/-! ### Event records -/

/-- Slots of the event ring (R397): a SIZE above 10, which R397 leaves out, is taken as 10 (log entry 77). -/
def evqSlots (size : BitVec 4) : Nat := 2 ^ (min 10 size.toNat + 6)

/-- The 32 bytes of an event record (R399). -/
def EventRec.bytes (phase : Bool) (r : EventRec) : List Byte :=
  leBytes 1 r.type ++ leBytes 1 (if phase then 128 else 0) ++ leBytes 1 r.sleeve ++ leBytes 1 0 ++ leBytes 6 r.stitch ++ leBytes 6 0 ++
  leBytes 16 r.detail.toNat

/-- Write one event record (R398, R399). -/
def State.putEvent (s : State) (e : EventRec) : State :=
  let n := evqSlots s.evq.size
  let wrap := decide (s.evq.tail.toNat + 1 = n)
  let pasid := match s.session with | some x => x.pasid | none => 0
  let a := s.evq.base.toNat + 32 * s.evq.tail.toNat
  { (s.dropKept pasid a 32).emit (.eventRec pasid a s.evq.phase e) with
    evq := { s.evq with tail := if wrap then 0 else s.evq.tail + 1, phase := if wrap then !s.evq.phase else s.evq.phase } }

/-- Whether the event ring has no room for another record. -/
def State.evqFull (s : State) : Bool :=
  decide ((s.evq.tail.toNat + 1) % evqSlots s.evq.size = s.evq.head.toNat % evqSlots s.evq.size)

/-- Write the waiting events in order: a full ring drops them and counts LOST; after a loss the first record written is
EVENTS_LOST (R398). The flag says that some record was written. -/
def State.writeEvents (s : State) : List EventRec → Bool → State × Bool
  | [], w => (s, w)
  | e :: es, w =>
    if s.evqFull then
      ({ s with evq := { s.evq with lost := if s.evq.lost = 0xFFFF then s.evq.lost else s.evq.lost + 1, owed := true } } : State).writeEvents es w
    else
      let s1 := if s.evq.owed then
          ({ s with evq := { s.evq with owed := false } } : State).putEvent
            ⟨0, 255, s.time.stitch.toNat, detailOf [(16, 2, s.evq.lost.toNat)]⟩
        else s
      if s1.evqFull then
        ({ s1 with evq := { s1.evq with lost := if s1.evq.lost = 0xFFFF then s1.evq.lost else s1.evq.lost + 1, owed := true } } : State).writeEvents es true
      else (s1.putEvent e).writeEvents es true

/-- The host-write phase as far as it can go (R27, R28, R360, R398): commit writes and records, then event records, then
messages, one a vector after the GO of the last record it covers (R366). -/
def State.pump (s : State) : State :=
  if !s.hostOpen then s
  else
    let r := s.pumpFrom s.hif.commits []
    let s1 := { r.1 with hif := { r.1.hif with commits := r.2 } }
    let busy := (r.2.filter fun c => !c.answered || c.sent.isSome).filterMap s1.commitVector
    let ready := s1.hif.msixDue.filter fun v => !busy.contains v
    let s4 := ready.foldl State.msix { s1 with hif := { s1.hif with msixDue := s1.hif.msixDue.filter fun v => busy.contains v } }
    if r.2.any fun c => !c.answered then s4
    else
      let w := ({ s4 with evq := { s4.evq with waiting := [] } } : State).writeEvents s4.evq.waiting false
      if w.2 then w.1.msix 1025 else w.1

/-- Whether a commit awaits a GO: of its host writes, or of its record. -/
def Commit.awaits (c : Commit) : Bool := c.issued && (!c.answered || c.sent.isSome)

/-- HOST_WRITE_GO (R360): the commit that has waited longest has the GOs of its writes, and its record follows, or that of its
record, which its queue's message may then cover. -/
def State.answer (s : State) (err : Bool) : State :=
  let i := s.hif.commits.findIdx Commit.awaits
  match s.hif.commits[i]? with
  | none => s
  | some c =>
    let due := s.hif.msixDue ++ ((s.commitVector c).toList.filter fun v => !s.hif.msixDue.contains v)
    (if c.sent.isSome then { s with hif := { s.hif with commits := s.hif.commits.eraseIdx i, msixDue := due } }
    else
      let c1 := { c with answered := true, record := if err then { c.record with status := 0x40 } else c.record }
      { s with hif := { s.hif with commits := s.hif.commits.set i c1 } }).pump

/-- Whether a commit whose host writes are not all answered writes into a range of 4 KiB pages (R253). -/
def State.commitCovers (s : State) (pasid page size : Nat) : Bool :=
  let meets (p a n : Nat) : Bool := p == pasid && decide (a < 4096 * (page + size) ∧ 4096 * page < a + n)
  s.hif.commits.any fun c => !c.answered && c.writes.any fun o => match o with
    | .hostWrite p a d _ => meets p a d.length
    | .sealedImage p a _ _ x => meets p a (imageBytes x.length)
    | _ => false

/-- Held invalidations whose pages no unanswered commit writes any more are completed (R253, R363). -/
def State.releaseInv (s : State) : State :=
  let go := s.hif.heldInv.filter fun h => !s.commitCovers h.1 h.2.1 h.2.2
  go.foldl (fun (s : State) h => s.emit (.invalidationDone h.1 h.2.1))
    { s with hif := { s.hif with heldInv := s.hif.heldInv.filter fun h => !go.contains h } }

/-! ### Teardown (R374, R410) -/

/-- Collectives of a sleeve that this member has submitted and that end here: the manager is told (R309, R414). -/
def State.squashCollectives (s : State) (p : Run → Bool) : State :=
  (s.runs.filter fun r => p r && r.coll.isSome && decide (r.phase ≠ .waiting)).foldl (fun s r =>
    s.emit (.channel0 (.squash ⟨r.collNo, r.coll.getD 0, r.collSeq, false⟩))) s

/-- A bolt that belongs to no sleeve: local store and tags zero, no pockets, lanes or patterns (R256, R410). -/
def Bolt.disowned (b : Bolt) : Bolt :=
  { b.clear with mem := [], tags := [], pockets := [], lanes := [], resident := [], xlate := [] }

/-- Remove one sleeve with everything it holds (R374, R410). -/
def State.tearSleeve (s : State) (v : Sleeve) : State :=
  let mine (r : Run) : Bool := decide (r.hdr.owner = Owner.sleeve v.id)
  let ids := (s.runs.filter mine).map (·.id)
  let s1 := s.squashCollectives mine
  let s2 := { s1 with
    runs := s1.runs.filter fun r => !mine r
    sleeves := s1.sleeves.filter fun x => x.id != v.id
    tenants := s1.tenants.filter fun t => t.sleeve != v.id
    patches := s1.patches.filter fun p => p.sleeve != v.id
    groups := s1.groups.filter fun g => g.sleeve != v.id
    posts := s1.posts.filter fun p => !ids.contains p.run
    sec := { s1.sec with keys := s1.sec.keys.filter fun k => !(k.kind == 0 && k.sleeve == v.id) }
    hif := { s1.hif with
      lineCache := s1.hif.lineCache.filter fun e => e.1 != v.id
      pageReqs := s1.hif.pageReqs.filter fun q => q.sleeve != v.id
      atc := s1.hif.atc.filter fun e => !v.pasids.contains e.pasid
      commits := s1.hif.commits.filter fun c => !decide (c.owner = Owner.sleeve v.id) }
    memSide := { s1.memSide with badTables := s1.memSide.badTables.filter fun e => e.1 != v.id } }
  (s2.forgetAreas (s.areasOf v)).updBolts (boltsIn v.bolts) fun _ b => b.disowned

/-- Remove every sleeve. -/
def State.tearAll (s : State) : State := s.sleeves.foldl State.tearSleeve s

/-- The admin session and what goes with it end (R9, R374, R383): queues, their commands, the event queue, tenant keys. -/
def State.endSession (s : State) : State :=
  { s with
    session := none, admSqs := [], admCqs := [], admAccepted := [], admHeaders := 0, evq := {}
    runs := s.runs.filter fun r => !decide (r.hdr.owner = Owner.admin)
    hif := { s.hif with commits := s.hif.commits.filter fun c => !decide (c.owner = Owner.admin) }
    sec := { s.sec with keys := s.sec.keys.filter fun k => k.kind != 0 } }

/-- A conventional host reset (R373, R374): the I/O die drops everything of the host at once and the session ends; the
sleeves are squashed and torn down from the next hem, and TEARDOWN reads 1 from now until that has finished. -/
def State.hostReset (s : State) (cause : HostResetCause) : State :=
  let down := decide (cause = .perst ∨ cause = .hotReset ∨ cause = .dlDown)
  let s1 := s.endSession
  { s1 with
    hif := { ({} : HostIf) with
      ioReady := if down then false else s1.hif.ioReady
      cache := if down then false else s1.hif.cache
      link := if down then .down else s1.hif.link
      width := s1.hif.width, rate := s1.hif.rate }
    mbx := {}, snap := { s1.snap with ctrl := 0 }
    board := { s1.board with perst := s1.board.perst || decide (cause = .perst) }
    dev := { s1.dev with teardown := s1.dev.teardown || !s1.sleeves.isEmpty } }

end Sys2Proof.Machine
end

