-- ==== Sys2Proof/Machine/ConfigSpace.lean ====
section
/-! DEFINITION. Configuration space (R345 to R349) and the component register block (R355). -/
namespace Sys2Proof.Machine
open Sys2Proof

/-- Bytes of the address space that a BAR asks for (R349). -/
def barBytes (n : Nat) : Nat := if n = 0 then 2 ^ 20 else 2 ^ 17

/-- A BAR's 64 bits as configuration space shows them: the assigned address, memory, 64-bit, not prefetchable (R349). -/
def State.barValue (s : State) (n : Nat) : Nat := (look 0 s.hif.bars n).toNat / barBytes n * barBytes n + 4

/-- The header of an extended capability or DVSEC at an offset of R348, with the next structure's offset. -/
def extHeader (cap version next : Nat) : Nat := cap + version * 2 ^ 16 + next * 2 ^ 20

/-- A configuration word's writable bits and their value at reset (R345 to R348; log entry 78): Command, Interrupt Line, Device
Control, Link Control, Device Control 2, Link Control 2, the masks and severities of AER, the controls of ATS, PASID and PRI with
PRI's allocation, and CXL Control. -/
def cfgBits : Nat → Nat × Nat
  | 0x04 => (0x0546, 0)
  | 0x3C => (0xFF, 0)
  | 0x58 => (0x79FF, 0x2810)
  | 0x60 => (0xC3, 0)
  | 0x78 => (0x1000, 0)
  | 0x80 => (0xF, 5)
  | 0x108 => (0x5FF030, 0x400000)
  | 0x10C => (0x5FF030, 0x462030)
  | 0x114 => (0xF1C1, 0xE000)
  | 0x144 => (0x801F0000, 0)
  | 0x154 => (0x10000, 0)
  | 0x164 => (1, 0)
  | 0x16C => (0xFFFFFFFF, 0)
  | 0x18C => (1, 0)
  | _ => (0, 0)

/-- The writable bits of a configuration word as they stand. -/
def HostIf.cfgValue (h : HostIf) (off : Nat) : Nat :=
  (look (BitVec.ofNat 32 (cfgBits off).2) h.cfg off).toNat &&& (cfgBits off).1

/-- The host sets the writable bits of a configuration word. -/
def HostIf.setCfg (h : HostIf) (off v : Nat) : HostIf :=
  let d := BitVec.ofNat 32 (cfgBits off).2
  { h with cfg := put d h.cfg off (BitVec.ofNat 32 (v &&& (cfgBits off).1)) }

/-- Current Link Speed and Negotiated Link Width of Link Status. -/
def HostIf.linkStatus (h : HostIf) : Nat :=
  if h.link = .down then 0 else (if h.rate = 32 then 5 else if h.rate = 16 then 4 else 3) + h.width % 64 * 16

/-- What is read-only of configuration space, by aligned 32-bit words: the header of R347, and of the structures of R348 the fields
whose settings R345 to R348 and R373 give (log entry 78); 0 elsewhere. -/
def State.configFixed (s : State) (off : Nat) : Nat :=
  match off with
  | 0x00 => 0x52021F9E
  | 0x04 => 0x00100000
  | 0x08 => 0x12000010
  | 0x10 => s.barValue 0 % 2 ^ 32
  | 0x14 => s.barValue 0 / 2 ^ 32
  | 0x18 => s.barValue 2 % 2 ^ 32
  | 0x1C => s.barValue 2 / 2 ^ 32
  | 0x20 => s.barValue 4 % 2 ^ 32
  | 0x24 => s.barValue 4 / 2 ^ 32
  | 0x2C => s.store.part.toNat * 2 ^ 16 + 0x1F9E
  | 0x34 => 0x40
  | 0x40 => 0x00035001
  | 0x44 => 8 + (if s.hif.d3hot then 3 else 0)
  | 0x50 => 0x00029010
  | 0x54 => 0x10008022
  | 0x5C => 0x00400905
  | 0x60 => s.hif.linkStatus * 2 ^ 16
  | 0x74 => 0x30000
  | 0x7C => 0x3E
  | 0x90 => 0x07FF0011 + (if s.hif.msixMaskAll then 2 ^ 30 else 0) + (if s.hif.msixEnable then 2 ^ 31 else 0)
  | 0x94 => 0x0004
  | 0x98 => 0x8004
  | 0x100 => extHeader 0x01 2 0x140
  | 0x140 => extHeader 0x0F 1 0x150
  | 0x144 => 0x20
  | 0x150 => extHeader 0x1B 1 0x160
  | 0x154 => 0x1400
  | 0x160 => extHeader 0x13 1 0x180
  | 0x164 => 2 ^ 31 + (if s.hif.cfgValue 0x164 = 0 ∧ (s.hif.pageReqs.any fun q => decide (q.stage = .sent)) = false then 2 ^ 24 else 0)
  | 0x168 => 512
  | 0x180 => extHeader 0x23 1 0x1C0
  | 0x184 => 0x03811E98
  | 0x188 => 0x00030000
  | 0x18C => 2
  | 0x194 => 0x40010000
  | 0x1C0 => extHeader 0x23 1 0x200
  | 0x1C4 => 0x01411E98
  | 0x1C8 => 0x00030007
  | 0x1CC => 2 + (if s.hif.cache then 1 else 0)
  | 0x200 => extHeader 0x23 1 0x240
  | 0x204 => 0x01401E98
  | 0x208 => 0x00000008
  | 0x20C => 0x00010104
  | 0x240 => extHeader 0x03 1 0
  | 0x244 => s.store.serial.toNat % 2 ^ 32
  | 0x248 => s.store.serial.toNat / 2 ^ 32
  | _ => 0

/-- Configuration space by aligned 32-bit words. -/
def State.configWord (s : State) (off : Nat) : Nat := s.configFixed off + s.hif.cfgValue off

/-- BAR number that stands for configuration space in REGISTER_WRITE and SHADOW_LOW_WORD_READ (log entry 5). -/
def configBar : Nat := 7

/-- A 32-bit half of a BAR is written; the bits below its size keep reading as `barValue` shows them. -/
def State.writeBar (s : State) (n : Nat) (high : Bool) (v : Nat) : State :=
  let old := (look 0 s.hif.bars n).toNat
  let new := if high then old % 2 ^ 32 + v % 2 ^ 32 * 2 ^ 32 else old / 2 ^ 32 * 2 ^ 32 + v % 2 ^ 32
  { s with hif := { s.hif with bars := put 0 s.hif.bars n (BitVec.ofNat 64 new) } }

/-- The configuration registers that a write changes (R347 to R349): the BARs, MSI-X Message Control (Enable [15], Function
Mask [14]) in the word at 0x090, the power state in [1:0] of the word at 0x044, Initiate Function Level Reset in [15] of Device
Control (R373), and the writable bits of `cfgBits`. -/
def State.writeConfigWord (s : State) (off v : Nat) : State :=
  match off with
  | 0x10 => s.writeBar 0 false v
  | 0x14 => s.writeBar 0 true v
  | 0x18 => s.writeBar 2 false v
  | 0x1C => s.writeBar 2 true v
  | 0x20 => s.writeBar 4 false v
  | 0x24 => s.writeBar 4 true v
  | 0x44 =>
    if v % 4 = 3 then { s with hif := { s.hif with d3hot := true } }
    else if v % 4 = 0 then (({ s with hif := { s.hif with d3hot := false } } : State).flushMsix).pump
    else s
  | 0x90 => ({ s with hif := { s.hif with msixEnable := bitOf v 31, msixMaskAll := bitOf v 30 } } : State).sendPending
  | 0x58 => if bitOf v 15 then s.hostReset .flr else { s with hif := s.hif.setCfg 0x58 v }
  | o => if (cfgBits o).1 = 0 then s else { s with hif := s.hif.setCfg o v }

/-- A write of 1, 2 or 4 aligned bytes of configuration space; the word's other bytes keep their values. -/
def State.writeConfig (s : State) (off width v : Nat) : State :=
  if [1, 2, 4].contains width = true ∧ off % width = 0 then
    let old := s.configWord (off / 4 * 4)
    let sh := 8 * (off % 4)
    s.writeConfigWord (off / 4 * 4) (old - old / 2 ^ sh % 2 ^ (8 * width) * 2 ^ sh + v % 2 ^ (8 * width) * 2 ^ sh)
  else s

/-! ### The component register block (R355) -/

/-- A component register's read-only value, its writable bits and their value at reset, by offset in BAR4: the array of
capabilities, the CXL.cache RAS capability at 0x1_1100 and the link capability at 0x1_1160 (log entry 38). -/
def compBits : Nat → Nat × Nat × Nat
  | 0x11000 => (0x02110001, 0, 0)
  | 0x11004 => (0x10010002, 0, 0)
  | 0x11008 => (0x16020004, 0, 0)
  | 0x11104 => (0, 0x1CFFF, 0x1CFFF)
  | 0x11108 => (0, 0x1CFFF, 0x1CFFF)
  | 0x11110 => (0, 0x7F, 0x7F)
  | 0x11160 => (2, 0, 0)
  | _ => (0, 0, 0)

/-- Whether a 32-bit word of BAR4 is a component register. -/
def isComp (off : Nat) : Bool := decide (0x11000 ≤ off ∧ off < 0x1100C) || decide (0x11100 ≤ off ∧ off < 0x11198)

/-- A component register's value. -/
def HostIf.compWord (h : HostIf) (off : Nat) : Nat :=
  let c := compBits off
  c.1 + ((look (BitVec.ofNat 32 c.2.2) h.comp off).toNat &&& c.2.1)

/-- A write to a component register: its status bits are written 1 to clear, and no rule sets one. -/
def HostIf.setComp (h : HostIf) (off v : Nat) : HostIf :=
  let c := compBits off
  if c.2.1 = 0 then h else { h with comp := put (BitVec.ofNat 32 c.2.2) h.comp off (BitVec.ofNat 32 (v &&& c.2.1)) }

end Sys2Proof.Machine
end

