-- ==== Sys2Proof/Machine/HostIf.lean ====
section
/-! DEFINITION. Host accesses: the register map (R3, R347 to R355), reads with the shadow (R12), writes by access code (R13),
doorbells (R367, R368), the event queue's registers (R397, R398), the snapshot control block (R490) and MSI-X (R366). -/
namespace Sys2Proof.Machine
open Sys2Proof

/-- What a host write makes of the machine: nothing while no CXL.io link carries it (R507, R510). -/
def State.ioWrite (s t : State) : State := if s.hif.ioReady then t else s

/-! ### Register values -/

/-- STATE of DEV_STATE (R353). -/
def phaseCode : DevPhase → Nat
  | .boot => 1 | .memTrain => 2 | .seamTrain => 3 | .tickWait => 4 | .ready => 5 | .failed => 6

/-- DEV_STATE (R353). -/
def State.devState (s : State) : Nat :=
  let d := s.dev
  phaseCode d.phase + (if s.session.isSome then 2 ^ 10 else 0) + (if d.fwSlot then 2 ^ 11 else 0) +
    (if d.linkDegraded then 2 ^ 12 else 0) + (if d.unravel then 2 ^ 13 else 0) + (if d.admitSuspended then 2 ^ 14 else 0) +
    (if d.teardown then 2 ^ 15 else 0) + d.fail.toNat * 2 ^ 24

/-- CONTRACT_VER of the running firmware (R7). -/
def State.contractVer (s : State) : Nat :=
  match s.dev.fw with
  | some f => f.major.toNat * 2 ^ 24 + f.minor.toNat * 2 ^ 16 + f.oldest.toNat * 2 ^ 8
  | none => 0

/-- Whether firmware has made the writes of R4. -/
def State.valuesWritten (s : State) : Bool :=
  decide (s.dev.phase = .ready) || (decide (s.dev.phase = .failed) && decide (s.dev.reached = .ready))

/-- MBX_ADMIN_STATUS (R380). -/
def Mailbox.statusReg (m : Mailbox) : Nat :=
  (if m.busy then 1 else 0) + (if m.done then 2 else 0) + (if m.errBusy then 4 else 0) + m.respLenM1.toNat * 2 ^ 16 +
    m.status.toNat * 2 ^ 40 + m.seq.toNat * 2 ^ 48

/-- Whether a 64-bit register starts at an offset. -/
def is64 (bar off : Nat) : Bool :=
  if bar = 0 then
    [0x18, 0x1FF0, 0x1FF8, 0x2000, 0x1F008, 0x1A018, 0x1A020].contains off ||
    windowBases.any (fun b => off == b + 8) ||
    (List.range 16).any (fun b => decide (0x10000 + 0x800 * b + 0x100 ≤ off ∧ off < 0x10000 + 0x800 * b + 0x200 ∧ off % 8 = 0)) ||
    (List.range 4).any (fun m => off == 0x18000 + 0x400 * m + 0x40)
  else if bar = 2 then decide (off % 0x1000 = 0 ∧ off ≤ 0x10000)
  else false

/-- Memory areas: those of the mailbox, which take any naturally aligned access, and the MSI-X table and pending bits, which take
aligned accesses of 32 and 64 bits. -/
def inArea (bar off : Nat) : Bool :=
  (decide (bar = 0) && decide (0x1000 ≤ off ∧ off < 0x1FF0)) || (decide (bar = 4) && decide (off < 0x8100))

/-- Whether an area takes an access of a width. -/
def areaWidth (bar width : Nat) : Bool := if bar = 4 then width == 4 || width == 8 else [1, 2, 4, 8].contains width

/-- Whether an aligned 32-bit word of the snapshot windows holds a register (R493 to R497). -/
def snapWord (off : Nat) : Bool :=
  if off < 0x18000 then let r := off % 0x800; decide (r < 0x50) || decide (0x80 ≤ r ∧ r < 0x220)
  else if off < 0x19000 then decide (off % 0x400 < 0x50)
  else if off < 0x1A000 then
    let r := off - 0x19000
    decide (r < 0x10) || decide (0x40 ≤ r ∧ r < 0xC40 ∧ r % 0x40 < 24) || decide (0xC40 ≤ r ∧ r < 0xC48)
  else if off < 0x1A800 then decide (off < 0x1A034)
  else decide (off < 0x1A820)

/-- Whether an aligned 32-bit word of a BAR holds a register, or a part of one or of an area (R3, R350, R355, R367, R397, R474, R490);
the others are reserved (R349). -/
def regWord (bar off : Nat) : Bool :=
  if bar = 0 then decide (off < 0x20) || decide (0x1000 ≤ off ∧ off < 0x2014) || (decide (0x10000 ≤ off ∧ off < 0x1F000) && snapWord off) ||
    decide (0x1F000 ≤ off ∧ off < 0x1F014)
  else if bar = 2 then decide (off < 0x10000 ∧ off % 0x1000 < 12) || decide (0x10000 ≤ off ∧ off < 0x10008)
  else if bar = 4 then decide (off < 0x8100) || isComp off
  else false

/-- Whether an access touches a register. -/
def touches (bar off width : Nat) : Bool := (List.range width).any fun i => regWord bar ((off + i) / 4 * 4)

/-- Bytes of the MSI-X table and pending-bit array (R355). -/
def State.msixByte (s : State) (off : Nat) : Byte :=
  if off < 0x8000 then
    let e := look {} s.hif.msixTable (off / 16)
    BitVec.ofNat 8 ((e.addr.toNat + e.data.toNat * 2 ^ 64 + (if e.masked then 1 else 0) * 2 ^ 96) / 2 ^ (8 * (off % 16)))
  else BitVec.ofNat 8 (sumOf ((List.range 8).map fun i => if s.hif.msixPending.contains (8 * (off - 0x8000) + i) then 2 ^ i else 0))

/-- A byte of an area. -/
def State.areaByte (s : State) (bar off : Nat) : Byte :=
  if bar = 4 then s.msixByte off
  else if off < 0x1800 then memGet s.mbx.cmd (off - 0x1000) else memGet s.mbx.resp (off - 0x1800)

/-- A 64-bit register's value. -/
def State.reg64 (s : State) (bar off : Nat) : Nat :=
  if bar ≠ 0 then 0
  else match off with
    | 0x18 => if s.valuesWritten then s.time.stitch.toNat else 0
    | 0x1FF8 => s.mbx.statusReg
    | 0x2000 => s.evq.base.toNat
    | 0x1F008 => s.snap.stitch.toNat
    | _ =>
      if off < 0x10000 ∨ s.dev.phase = .failed then 0
      else (look 0 s.snap.window off).toNat + (look 0 s.snap.window (off + 4)).toNat * 2 ^ 32

/-- A 32-bit register's value; 0 at a reserved offset (R349). -/
def State.reg32 (s : State) (bar off : Nat) : Nat :=
  let w := s.valuesWritten
  if bar = 0 then
    match off with
    | 0x00 => 0x00520000 + s.store.part.toNat
    | 0x04 => 0x10
    | 0x08 => if w then 0xFFFF1010 else 0
    | 0x0C => if w then 0x000F07FF else 0
    | 0x10 => if w then s.contractVer else 0
    | 0x14 => s.devState
    | 0x2008 => s.evq.mask.toNat + s.evq.size.toNat * 2 ^ 16 + (if s.evq.en then 2 ^ 31 else 0)
    | 0x200C => s.evq.head.toNat
    | 0x2010 => s.evq.tail.toNat + s.evq.lost.toNat * 2 ^ 16
    | 0x1F000 => s.snap.ctrl.toNat
    | 0x1F004 => (if s.snap.latched then 1 else 0) + s.snap.source.toNat * 2 ^ 8 + s.snap.snapId.toNat * 2 ^ 16
    | 0x1F010 => s.snap.missed.toNat
    | _ => if 0x10000 ≤ off ∧ off < 0x1B000 ∧ s.dev.phase ≠ .failed then (look 0 s.snap.window off).toNat else 0
  else if bar = configBar then s.configWord off
  else if bar = 2 then
    if off % 0x1000 = 8 ∧ off < 0x10000 then (match s.sleeve (off / 0x1000) with | some v => v.latTol.toNat | none => 0) else 0
  else if bar = 4 then (if isComp off then s.hif.compWord off else 0)
  else 0

/-- The high word that a low-word read of a register latched (R12). -/
def HostIf.shadowOf (h : HostIf) (bar off : Nat) : Option (BitVec 32) :=
  (h.shadow.find? fun x => x.1 == bar && x.2.1 == off).map (·.2.2)

/-- The shadows of all registers but one. -/
def HostIf.otherShadows (h : HostIf) (bar off : Nat) : List (Nat × Nat × BitVec 32) :=
  h.shadow.filter fun x => !(x.1 == bar && x.2.1 == off)

/-- SHADOW_LOW_WORD_READ (R12): a read. The low word of a 64-bit register latches its high word; the next read of that
register's high word returns it; a whole 64-bit read and a 32-bit register's read return the value; a read of a register with wrong
width or alignment returns all ones and is logged, and a read of reserved offsets returns 0 (R349). Before CXL.io is ready every
read gives 0 (R4). -/
def execShadowLowWordRead (bar off width : Nat) (s : State) : Host.Outcome State Fault Refusal :=
  let out (s : State) (v : Nat) : State := s.emit (.readData (BitVec.ofNat 64 v))
  .next (
    if !s.hif.ioReady then out s 0
    else if bar = configBar ∧ [1, 2, 4].contains width = true ∧ off % width = 0 then
      out s (s.configWord (off / 4 * 4) / 2 ^ (8 * (off % 4)) % 2 ^ (8 * width))
    else if inArea bar off && areaWidth bar width && decide (off % width = 0) then
      out s (leNat ((List.range width).map fun i => s.areaByte bar (off + i)))
    else if width = 8 ∧ off % 8 = 0 ∧ is64 bar off = true then out s (s.reg64 bar off)
    else if width = 4 ∧ off % 4 = 0 ∧ is64 bar off = true then
      let v := s.reg64 bar off
      out { s with hif := { s.hif with shadow := (bar, off, BitVec.ofNat 32 (v / 2 ^ 32)) :: s.hif.otherShadows bar off } } (v % 2 ^ 32)
    else if width = 4 ∧ off % 4 = 0 ∧ 4 ≤ off ∧ is64 bar (off - 4) = true then
      match s.hif.shadowOf bar (off - 4) with
      | some h => out { s with hif := { s.hif with shadow := s.hif.otherShadows bar (off - 4) } } h.toNat
      | none => out s (s.reg64 bar (off - 4) / 2 ^ 32)
    else if width = 4 ∧ off % 4 = 0 then out s (s.reg32 bar off)
    else if touches bar off width then out (s.hostAccess bar off width false) (2 ^ (8 * min width 8) - 1)
    else out s 0)

/-! ### Doorbells (R367, R368) -/

/-- The submission queues of an owner. -/
def State.sqsOf (s : State) : Owner → List Sq
  | .admin => s.admSqs
  | .sleeve n => match s.sleeve n with | some v => v.sqs | none => []

/-- Change one submission queue. -/
def State.updSq (s : State) (o : Owner) (q : Nat) (f : Sq → Sq) : State :=
  match o with
  | .admin => { s with admSqs := s.admSqs.map fun x => if x.id = q then f x else x }
  | .sleeve n => s.updSleeve n fun v => { v with sqs := v.sqs.map fun x => if x.id = q then f x else x }

/-- A queue stops: the QUEUE_STOPPED event (R368, R370, R400). -/
def State.stopQueue (s : State) (o : Owner) (q : Nat) (st slot : Nat) : State :=
  (s.updSq o q fun x => { x with stopped := true }).event 0x0B (ownerNum o) [(16, 1, q), (17, 1, st), (18, 2, slot)]

/-- Whose doorbell page `page` is; a sleeve's page works from the stitch after its creation (R367, R409). -/
def State.pageOwner (s : State) (page : Nat) : Option Owner :=
  if page = 16 then some .admin
  else match s.sleeve page with
    | some v => if v.born < s.time.stitch.toNat then some (.sleeve page) else none
    | none => none

/-- Whether a doorbell's SEQ and PI are in order (R368). -/
def Sq.inOrder (q : Sq) (sq : BitVec 16) (pi : Nat) : Bool :=
  let adv := (pi + q.size - q.pi) % q.size
  let used := (q.pi + q.size - q.ci) % q.size
  decide (sq = q.d + 1 ∧ pi < q.size ∧ 1 ≤ adv ∧ used + adv ≤ q.size - 1)

/-- A doorbell write of 64 bits to a page. -/
def State.doorbell (s : State) (page : Nat) (value : BitVec 64) : State :=
  let v := value.toNat
  let k := bitsOf v 18 16
  match s.pageOwner page with
  | none => s.hostAccess 2 (0x1000 * page) 8 true
  | some o =>
    match (s.sqsOf o).find? fun q => q.id == k with
    | none => s.hostAccess 2 (0x1000 * page) 8 true
    | some q =>
      if q.stopped then s.updSq o k fun q => { q with ignored := q.ignored + 1 }
      else if q.inOrder (BitVec.ofNat 16 (bitsOf v 63 48)) (bitsOf v 11 0) then
        s.updSq o k fun q => { q with d := BitVec.ofNat 16 (bitsOf v 63 48), pi := bitsOf v 11 0 }
      else s.stopQueue o k 0x71 q.pi

/-- SQ_DOORBELL (R367, R368): `page` 0 to 15 is a sleeve's page, 16 the admin page; a doorbell written in two halves is
ignored and logged. -/
def execSqDoorbell (page width : Nat) (value : BitVec 64) (s : State) : Host.Outcome State Fault Refusal :=
  .next (s.ioWrite (if width = 8 then s.doorbell page value else s.hostAccess 2 (0x1000 * page) width true))

/-! ### Event queue, snapshot and MSI-X registers -/

/-- A write to EVQ_CTRL (R397, R398): EN rising resets TAIL to HEAD and clears LOST; SIZE is ignored while EN is 1. -/
def State.writeEvqCtrl (s : State) (value : BitVec 32) : State :=
  let v := value.toNat
  let en := bitOf v 31
  let e := { s.evq with
    en := en, mask := BitVec.ofNat 16 (bitsOf v 15 0)
    size := if s.evq.en then s.evq.size else BitVec.ofNat 4 (bitsOf v 19 16) }
  { s with evq := if en && !s.evq.en then { e with tail := e.head, lost := 0, owed := false, phase := true } else e }

/-- EVQ_ENABLE (R398). -/
def execEvqEnable (value : BitVec 32) (s : State) : Host.Outcome State Fault Refusal :=
  .next (s.ioWrite (s.writeEvqCtrl value))

/-- A write to SNAP_STATUS (R490): 1 to LATCHED releases the held snapshot. -/
def State.writeSnapStatus (s : State) (value : BitVec 32) : State :=
  if value.getLsbD 0 then { s with snap := { s.snap with latched := false } } else s

/-- SNAPSHOT_RELEASE (R490). -/
def execSnapshotRelease (value : BitVec 32) (s : State) : Host.Outcome State Fault Refusal :=
  .next (s.ioWrite (s.writeSnapStatus value))

/-- MSIX_UNMASK (R366). -/
def execMsixUnmask (vector : Nat) (s : State) : Host.Outcome State Fault Refusal :=
  .next (s.ioWrite (
    if vector < 2048 then
      ({ s with hif := { s.hif with msixTable := put {} s.hif.msixTable vector { look {} s.hif.msixTable vector with masked := false } } } : State).sendPending
    else s))

/-- Write bytes of the MSI-X table (R355). -/
def State.writeMsix (s : State) (off width v : Nat) : State :=
  let n := off / 16
  let e := look {} s.hif.msixTable n
  let old := e.addr.toNat + e.data.toNat * 2 ^ 64 + (if e.masked then 1 else 0) * 2 ^ 96
  let sh := 8 * (off % 16)
  let new := old - (old / 2 ^ sh % 2 ^ (8 * width)) * 2 ^ sh + (v % 2 ^ (8 * width)) * 2 ^ sh
  let entry : MsixEntry := ⟨BitVec.ofNat 64 new, BitVec.ofNat 32 (new / 2 ^ 64), bitOf new 96⟩
  ({ s with hif := { s.hif with msixTable := put {} s.hif.msixTable n entry } } : State).sendPending

end Sys2Proof.Machine
end

