-- ==== Sys2Proof/Machine/Mailbox.lean ====
section
/-! DEFINITION. The admin mailbox (R378 to R383): one request at a time, its checks, and the requests that take effect in a
hem. -/
namespace Sys2Proof.Machine
open Sys2Proof

/-! ### The protocol of R381 -/

/-- A request is complete: the response area, DONE, BUSY and the interrupt that the next hem sends (R380 to R382). -/
def State.mbxDone (s : State) (op : Nat) (st : Status) (payload : List Byte) : State :=
  let head := leBytes 2 op ++ [st] ++ List.replicate 13 (0 : Byte)
  let all := head ++ payload
  { s with mbx := { s.mbx with
      resp := memWrite [] 0 all, respLenM1 := BitVec.ofNat 11 (all.length - 1), status := st, done := true, busy := false
      irqDue := s.mbx.irqDue || s.mbx.irq, req := none } }

/-- A request arrives (R381, R383, R514): ignored with ERR_BUSY while one is served; refused when a reserved byte is not 0
(R14) or no session is open (`open_` says that the command opens one). -/
def State.mbxRequest (s : State) (h : MbxHdr) (op : Nat) (open_ : Bool) (k : State → State) : State :=
  if !s.hif.ioReady then s
  else if s.mbx.busy then { s with mbx := { s.mbx with errBusy := true } }
  else
    let s1 := { s with mbx := { s.mbx with seq := h.seq, busy := true, done := false, irq := h.irq, sleeve := h.sleeve } }
    if s.dev.phase = .failed then s1.mbxDone op 0x78 []
    else if h.reserved then s1.mbxDone op 0x72 []
    else if !open_ && s.session.isNone then s1.mbxDone op 0x78 []
    else k s1

/-- A request that takes effect in the next hem (R378). -/
def State.mbxDefer (s : State) (r : MbxReq) : State := { s with mbx := { s.mbx with req := some r } }

/-- Refuse with the first status whose test holds, else go on. -/
def State.mbxCheck (s : State) (op : Nat) : List (Bool × Status) → (State → State) → State
  | [], k => k s
  | (bad, st) :: cs, k => if bad then s.mbxDone op st [] else s.mbxCheck op cs k

/-- Whose queues a SLEEVE byte names (R382, R383). -/
def State.mbxOwner (s : State) (sl : Nat) : Option Owner :=
  if sl = 255 then some .admin else if (s.sleeve sl).isSome then some (.sleeve sl) else none

/-! ### Sessions and sleeves -/

/-- OPEN_SESSION (R9, R383, R428, R430). -/
def execOpenSession (h : MbxHdr) (major pasid : Nat) (s : State) : Host.Outcome State Fault Refusal :=
  .next (s.mbxRequest h 1 true fun s =>
    let f := s.dev.fw
    let served := match f with | some f => decide (f.oldest.toNat ≤ major ∧ major ≤ f.major.toNat) | none => false
    if s.dev.phase ≠ .ready ∨ s.session.isSome then s.mbxDone 1 0x78 []
    else if !served then s.mbxDone 1 0x77 []
    else if pasid ≥ 2 ^ 20 then s.mbxDone 1 0x74 []
    else if s.sec.entropyFailing then s.mbxDone 1 0x7B []
    else if s.dev.lowerLeaf ≥ 1024 then (s.security 2 (3 + 255 * 256)).mbxDone 1 0x7B []
    else
      let d := s.fresh
      ({ d.2 with
        session := some ⟨major, pasid, s.dev.sessionNo + 1, d.1⟩
        dev := { d.2.dev with sessionNo := s.dev.sessionNo + 1, lowerLeaf := s.dev.lowerLeaf + 1 } } : State).mbxDone 1 0
          (leBytes 4 s.contractVer))

/-- CLOSE_SESSION (R383). -/
def execCloseSession (h : MbxHdr) (s : State) : Host.Outcome State Fault Refusal :=
  .next (s.mbxRequest h 2 false fun s =>
    s.mbxCheck 2 [(!s.sleeves.isEmpty, 0x79)] fun s => s.mbxDefer .closeSession)

/-- Whole pages of 64 KiB. -/
def pages (bytes : Nat) : Nat := ceilDiv bytes 65536

/-- Chunks of an image (R332). -/
def chunkCount (plain : Nat) : Nat := ceilDiv plain (2 ^ 20)

/-- Byte ranges of a layer's elements and MX scales in the plaintext, as first and length (R333). -/
def layerRanges (e : LayerEntry) : List (Nat × Nat) :=
  (e.offset, layerBytes e) :: (if isMx e.fmt then [(e.soffset, layerMats e * (e.k * e.n / 32))] else [])

/-- Plaintext bytes that a member holds: of each of `rows` rows of `rowLen` bytes from `off` on, the `len` bytes from `first` on. -/
structure Stripe where
  off : Nat
  rowLen : Nat
  rows : Nat
  first : Nat
  len : Nat
deriving DecidableEq, Repr

/-- Whether a stripe has a byte of `lo` to `hi - 1`: in the first row that ends after `lo`. -/
def Stripe.meets (x : Stripe) (lo hi : Nat) : Bool :=
  let k := if lo < x.off + x.first + x.len then 0 else (lo - (x.off + x.first + x.len)) / x.rowLen + 1
  decide (0 < x.len ∧ k < x.rows ∧ x.off + k * x.rowLen + x.first < hi)

/-- The parts of a stripe within `lo` to `hi - 1`, as first byte and length. -/
def Stripe.parts (x : Stripe) (lo hi : Nat) : List (Nat × Nat) :=
  ((List.range x.rows).map fun k =>
    let a := x.off + k * x.rowLen + x.first
    (max lo a, min hi (a + x.len) - max lo a)).filter fun p => decide (0 < p.2)

/-- What member `q.member` of a span holds of a layer (R340): all of it, its columns of every row, or nothing. -/
def Slot.layerStripes (q : Slot) (e : LayerEntry) : List Stripe :=
  if e.shard = q.member then (layerRanges e).map fun r => ⟨r.1, r.2, 1, 0, r.2⟩
  else if e.shard ≠ 15 then []
  else
    let rows := e.k * layerMats e
    let part (off rowLen : Nat) : Stripe := ⟨off, rowLen, rows, q.member * (rowLen / q.span), rowLen / q.span⟩
    part e.offset (rowBytes e.fmt e.n) :: (if isMx e.fmt then [part e.soffset (e.n / 32)] else [])

/-- What a slot holds of its image (R340): all of it, or the layer table and the member's share of the layers. -/
def Slot.stripes (q : Slot) : List Stripe :=
  if q.span ≤ 1 then [⟨0, q.plainBytes, 1, 0, q.plainBytes⟩]
  else ⟨0, 32 * q.layers.length, 1, 0, 32 * q.layers.length⟩ :: q.layers.flatMap q.layerStripes

/-- Whether chunk `i` has a byte that this module holds (R332, R340). -/
def Slot.holdsChunk (q : Slot) (i : Nat) : Bool := q.stripes.any fun x => x.meets (2 ^ 20 * i) (2 ^ 20 * (i + 1))

/-- Pages that a slot takes of the pool (R335, R340): those with a byte that it holds. -/
def Slot.heldPages (q : Slot) : Nat :=
  if q.span ≤ 1 then pages q.plainBytes
  else ((List.range (pages q.plainBytes)).filter fun i => q.stripes.any fun x => x.meets (65536 * i) (65536 * (i + 1))).length

/-- Chunks that each seed of a load reads (R335). -/
def seedShare (q : Slot) : Nat := ceilDiv (chunkCount q.plainBytes) q.seeds.length

/-- A seed reads its share of an image's chunks through the ingest window, where one is open (R334, R335). The image lies in the window
from its base on (DESIGN CHOICE, log entry 119). -/
def State.seedRead (s : State) (slot : Nat) : State :=
  let q := s.slot slot
  match s.bases.ingest with
  | none => s
  | some (pasid, base, len) =>
    let chunks := chunkCount q.plainBytes
    let lo := q.seeds.idxOf s.domain.node * seedShare q
    let hi := min chunks (lo + seedShare q)
    let first := 64 + lo * (2 ^ 20 + 16)
    let last := min len (if hi = chunks then 64 + q.plainBytes + 16 * chunks else 64 + hi * (2 ^ 20 + 16))
    if q.state = .loading ∧ q.seeds.contains s.domain.node = true ∧ first < last then s.emit (.ingestRead pasid (base + first) (last - first)) else s

/-- Pages of the pool that base slots and sleeves leave (R241, R401). -/
def State.poolLeft (s : State) : Nat :=
  poolGib s.store.part * 16384 - sumOf ((List.range 4).map fun n =>
    let q := s.slot n
    if q.state = .free then 0 else q.heldPages) - sumOf (s.sleeves.map fun v => 16384 * v.memGib)

/-- Bolts that some sleeve owns. -/
def State.ownedBolts (s : State) : BitVec 16 := s.sleeves.foldl (fun m v => m ||| v.bolts) 0

/-- Bolt power in milliwatts that a set of bolts needs at a clock (R407, R456). -/
def boltsPower (bolts : BitVec 16) (clock : Nat) : Nat := (boltsIn bolts).length * fullMw clock

/-- Whether the shares of CREATE_SLEEVE fit (R401, R405 to R407). -/
def State.sharesFit (s : State) (sl : Nat) (bolts : BitVec 16) (memGib cxl seam power : Nat) : Bool :=
  (s.sleeve sl).isNone && decide (bolts ≠ 0 ∧ bolts &&& s.ownedBolts = 0) &&
  decide (1 ≤ memGib ∧ 16384 * memGib ≤ s.poolLeft) &&
  decide (cxl + sumOf (s.sleeves.map (·.cxl)) ≤ 224) && decide (seam + sumOf (s.sleeves.map (·.seam)) ≤ 252) &&
  decide (boltsPower bolts s.guard ≤ 1000 * power) &&
  decide (1000 * (power + sumOf (s.sleeves.map (·.power))) ≤ s.computePart s.power.capW s.power.order)

/-- CREATE_SLEEVE (R375, R401). -/
def execCreateSleeve (h : MbxHdr) (bolts : BitVec 16) (memGib cxl seam power : Nat) (s : State) :
    Host.Outcome State Fault Refusal :=
  .next (s.mbxRequest h 0x10 false fun s =>
    s.mbxCheck 0x10 [(s.dev.teardown, 0x41), (decide (15 < h.sleeve), 0x74),
      (!s.sharesFit h.sleeve bolts memGib cxl seam power || s.sec.entropyFailing, 0x7B)] fun s =>
        s.mbxDefer (.createSleeve bolts memGib cxl seam power))

/-- DESTROY_SLEEVE (R410). -/
def execDestroySleeve (h : MbxHdr) (s : State) : Host.Outcome State Fault Refusal :=
  .next (s.mbxRequest h 0x11 false fun s =>
    s.mbxCheck 0x11 [((s.sleeve h.sleeve).isNone, 0x7A)] fun s => s.mbxDefer .destroySleeve)

/-- RESET_SLEEVE (R414). -/
def execResetSleeve (h : MbxHdr) (s : State) : Host.Outcome State Fault Refusal :=
  .next (s.mbxRequest h 0x12 false fun s =>
    s.mbxCheck 0x12 [((s.sleeve h.sleeve).isNone, 0x7A)] fun s => s.mbxDefer .resetSleeve)

/-- The sessions' PASID. -/
def State.sessionPasid (s : State) : Nat := match s.session with | some x => x.pasid | none => 0

/-- BIND_PASID (R362, R411). -/
def execBindPasid (h : MbxHdr) (pasid : Nat) (s : State) : Host.Outcome State Fault Refusal :=
  .next (s.mbxRequest h 0x13 false fun s =>
    let v := s.sleeve h.sleeve
    let others := s.sleeves.any fun x => x.id != h.sleeve && x.pasids.contains pasid
    let full := match v with | some v => decide (16 ≤ v.pasids.length) && !v.pasids.contains pasid | none => false
    s.mbxCheck 0x13 [(v.isNone, 0x7A), (decide (2 ^ 20 ≤ pasid), 0x74),
      (others || full || decide (s.sessionPasid = pasid), 0x7B)] fun s => s.mbxDefer (.bindPasid pasid))

/-- Whether a queue of a sleeve uses a PASID. -/
def Sleeve.queueUses (v : Sleeve) (pasid : Nat) : Bool :=
  (v.sqs.any fun q => q.pasid == pasid) || v.cqs.any fun q => q.pasid == pasid

/-- UNBIND_PASID (R411). -/
def execUnbindPasid (h : MbxHdr) (pasid : Nat) (s : State) : Host.Outcome State Fault Refusal :=
  .next (s.mbxRequest h 0x14 false fun s =>
    match s.sleeve h.sleeve with
    | none => s.mbxDone 0x14 0x7A []
    | some v => s.mbxCheck 0x14 [(!v.pasids.contains pasid, 0x7A), (v.queueUses pasid, 0x79)] fun s =>
        s.mbxDefer (.unbindPasid pasid))

/-! ### Queues -/

/-- A power of two within bounds. -/
def powerOfTwo (n lo hi : Nat) : Bool := decide (lo ≤ n ∧ n ≤ hi ∧ n = 2 ^ n.log2)

/-- Whether an owner may name a PASID for a queue (R382, R411); admin queues use the session PASID. -/
def State.pasidOk (s : State) (o : Owner) (pasid : Nat) : Bool :=
  match o with
  | .admin => true
  | .sleeve n => match s.sleeve n with | some v => v.pasids.contains pasid | none => false

/-- The PASID that a queue uses. -/
def State.queuePasid (s : State) (o : Owner) (pasid : Nat) : Nat :=
  match o with | .admin => s.sessionPasid | .sleeve _ => pasid

/-- CREATE_CQ (R383, R391). -/
def execCreateCq (h : MbxHdr) (cq vector pasid base slots head : Nat) (s : State) : Host.Outcome State Fault Refusal :=
  .next (s.mbxRequest h 0x20 false fun s =>
    match s.mbxOwner h.sleeve with
    | none => s.mbxDone 0x20 0x7A []
    | some o => s.mbxCheck 0x20
        [(decide (8 ≤ cq ∨ base % 4096 ≠ 0 ∨ head % 8 ≠ 0) || !powerOfTwo slots 16 65536, 0x74),
         (if o = .admin then decide (cq ≠ 0) else decide (64 ≤ vector), 0x74),
         (!s.pasidOk o pasid, 0x7A), ((s.cqs o).any fun q => q.id == cq, 0x7B)] fun s =>
        s.mbxDefer (.createCq cq vector pasid base slots head))

/-- CREATE_SQ (R368, R383). -/
def execCreateSq (h : MbxHdr) (queue cq : Nat) (seq0 : BitVec 16) (pasid base slots : Nat) (s : State) :
    Host.Outcome State Fault Refusal :=
  .next (s.mbxRequest h 0x21 false fun s =>
    match s.mbxOwner h.sleeve with
    | none => s.mbxDone 0x21 0x7A []
    | some o => s.mbxCheck 0x21
        [(decide (8 ≤ queue ∨ base % 4096 ≠ 0) || !powerOfTwo slots 16 4096, 0x74),
         (decide (o = .admin ∧ queue ≠ 0), 0x74),
         (!s.pasidOk o pasid || !((s.cqs o).any fun q => q.id == cq), 0x7A),
         ((s.sqsOf o).any fun q => q.id == queue, 0x74)] fun s =>
        s.mbxDefer (.createSq queue cq seq0 pasid base slots))

/-- Whether a queue holds an admitted, uncommitted command. -/
def State.queueBusy (s : State) (o : Owner) (q : Nat) : Bool := s.runs.any fun r => decide (r.hdr.owner = o) && r.hdr.queue == q

/-- DELETE_QUEUE (R383). -/
def execDeleteQueue (h : MbxHdr) (isCq : Bool) (number : Nat) (s : State) : Host.Outcome State Fault Refusal :=
  .next (s.mbxRequest h 0x22 false fun s =>
    match s.mbxOwner h.sleeve with
    | none => s.mbxDone 0x22 0x7A []
    | some o =>
      let there := if isCq then (s.cqs o).any fun q => q.id == number else (s.sqsOf o).any fun q => q.id == number
      let busy := if isCq then (s.sqsOf o).any fun q => q.cq == number else s.queueBusy o number
      s.mbxCheck 0x22 [(!there, 0x7A), (busy, 0x79)] fun s => s.mbxDefer (.deleteQueue isCq number))

/-- RESTART_SQ (R370, R383). -/
def execRestartSq (h : MbxHdr) (queue : Nat) (seq0 : BitVec 16) (ci : Nat) (s : State) : Host.Outcome State Fault Refusal :=
  .next (s.mbxRequest h 0x23 false fun s =>
    match s.mbxOwner h.sleeve with
    | none => s.mbxDone 0x23 0x7A []
    | some o => match (s.sqsOf o).find? fun q => q.id == queue with
      | none => s.mbxDone 0x23 0x7A []
      | some q => s.mbxCheck 0x23 [(!q.stopped, 0x79), (decide (q.size ≤ ci), 0x74)] fun s =>
          s.mbxDefer (.restartSq queue seq0 ci))

/-! ### Keys and firmware -/

/-- KEM_GET (R430): the session's encapsulation key of 1,568 bytes. -/
def execKemGet (h : MbxHdr) (s : State) : Host.Outcome State Fault Refusal :=
  .next (s.mbxRequest h 0x30 false fun s =>
    let n := match s.session with | some x => x.ek | none => 0
    s.mbxDone 0x30 0 ((List.range 1568).map fun i => Config.encapsulationKey n i))

/-- Key handles of a kind in use. -/
def State.keyHandles (s : State) (kind : Nat) : List Nat := (s.sec.keys.filter fun k => k.kind == kind).map (·.handle)

/-- First handle of a kind and how many there are (R431). -/
def keyRange (kind : Nat) : Nat × Nat := match kind with | 0 => (0, 65536) | 1 => (0x8000, 0x8000) | _ => (1, 0x7FFF)

/-- Keys of a kind that a module or domain holds at most (R431). -/
def keyLimit (kind : Nat) : Nat := match kind with | 0 => 65536 | 1 => 64 | _ => 1024

/-- A handle of a range: the free value if unused, else the lowest unused. -/
def handleIn (lo n : Nat) (used : List Nat) (pick : Nat) : Nat :=
  let p := lo + pick % n
  if used.contains p then lo + ((List.range (used.length + 1)).find? fun i => !used.contains (lo + i)).getD 0 else p

/-- KEY_ESTABLISH (R430, R431): any ciphertext yields a key. -/
def execKeyEstablish (h : MbxHdr) (kind : Nat) (ciphertext : List Byte) (s : State) : Host.Outcome State Fault Refusal :=
  .next (s.mbxRequest h 0x31 false fun s =>
    s.mbxCheck 0x31
      [(decide (2 < kind) || decide (ciphertext.length ≠ 1568), 0x74), (decide (kind ≠ 0) && !s.isManager, 0x73),
       (if kind = 0 then (s.sleeve h.sleeve).isNone else decide (h.sleeve ≠ 255), 0x74),
       (decide (keyLimit kind ≤ (s.keyHandles kind).length) || s.sec.entropyFailing, 0x7B)] fun s =>
      let f := s.fresh
      let used := s.keyHandles kind
      let handle := handleIn (keyRange kind).1 (keyRange kind).2 used (Config.handlePick f.1)
      let ek := match s.session with | some x => x.ek | none => 0
      ({ f.2 with sec := { f.2.sec with
          keys := ⟨handle, kind, h.sleeve, Config.keyMaterial (3 * ek + kind) ciphertext⟩ :: f.2.sec.keys } } : State).mbxDone
        0x31 0 (leBytes 2 handle))

/-- Bytes of a firmware slot (R422). -/
def slotBytes : Nat := 64 * 2 ^ 20

/-- Write bytes into the inactive slot (R424). -/
def State.writeSlot (s : State) (offset : Nat) (data : List Byte) : State :=
  { s with store :=
      if s.dev.fwSlot then { s.store with imageA := memWrite s.store.imageA offset data }
      else { s.store with imageB := memWrite s.store.imageB offset data } }

/-- FW_WRITE (R424). -/
def execFwWrite (h : MbxHdr) (offset : Nat) (data : List Byte) (s : State) : Host.Outcome State Fault Refusal :=
  .next (s.mbxRequest h 0x40 false fun s =>
    s.mbxCheck 0x40 [(decide (slotBytes < offset + data.length), 0x74), (decide (s.dev.writerLock = some .me), 0x79)] fun s =>
      (({ s with dev := { s.dev with writerLock := some .host } } : State).writeSlot offset data).mbxDone 0x40 0 [])

/-- FW_ACTIVATE (R424): `verdict` is what the verification of R423 finds in the inactive slot. -/
def execFwActivate (h : MbxHdr) (verdict : Option FwBundle) (s : State) : Host.Outcome State Fault Refusal :=
  .next (s.mbxRequest h 0x41 false fun s =>
    match verdict with
    | none => s.mbxDone 0x41 0x36 []
    | some f =>
      if f.svn < s.store.svnMin then s.mbxDone 0x41 0x36 []
      else ({ s with
        store := { s.store with activation := some (!s.dev.fwSlot) }
        dev := { s.dev with writerLock := none } } : State).mbxDone 0x41 0 [])

/-! ### A request as the command area spells it -/

/-- Fields of a payload that an opcode lists, as (first byte, bytes, bits of each byte that have a meaning) (R383). -/
def payloadFields (op : Nat) : List (Nat × Nat × Nat) :=
  let full (a n : Nat) : Nat × Nat × Nat := (a, n, 255)
  match op with
  | 0x01 => [full 16 1, full 20 4]
  | 0x10 => [full 16 2, full 20 4, full 24 1, full 25 1, full 26 2]
  | 0x13 => [full 16 4]
  | 0x14 => [full 16 4]
  | 0x20 => [full 16 1, full 18 2, full 20 4, full 24 8, full 32 4, full 40 8]
  | 0x21 => [full 16 1, full 17 1, full 18 2, full 20 4, full 24 8, full 32 4]
  | 0x22 => [(16, 1, 1), full 17 1]
  | 0x23 => [full 16 1, full 18 2, full 20 4]
  | 0x31 => [full 16 1, full 20 1568]
  | 0x40 => [full 16 8, full 24 4, full 28 4]
  | _ => []

/-- Whether a reserved byte or bit of the header or payload, within the length used, is not 0 (R14, R382). -/
def areaReserved (m : Mem) (op len : Nat) : Bool :=
  (List.range (len - 3)).any fun i =>
    let a := i + 3
    let mask := match (payloadFields op).find? fun f => decide (f.1 ≤ a ∧ a < f.1 + f.2.1) with | some f => f.2.2 | none => 0
    decide ((memGet m a).toNat &&& mask ≠ (memGet m a).toNat)

/-- A write of MBX_ADMIN_DB (R379): the request that the command area holds. FW_WRITE and FW_ACTIVATE need what the module
reads outside the area, so they come as rows of their own (log entry 5). -/
def State.mbxDoorbell (s : State) (value : BitVec 64) : Host.Outcome State Fault Refusal :=
  let v := value.toNat
  let m := s.mbx.cmd
  let n (a k : Nat) : Nat := memNat m a k
  let op := n 0 2
  let h : MbxHdr := ⟨BitVec.ofNat 16 (bitsOf v 63 48), bitOf v 12, n 2 1, areaReserved m op (bitsOf v 11 0 + 1)⟩
  match op with
  | 0x01 => execOpenSession h (n 16 1) (n 20 4) s
  | 0x02 => execCloseSession h s
  | 0x10 => execCreateSleeve h (BitVec.ofNat 16 (n 16 2)) (n 20 4) (n 24 1) (n 25 1) (n 26 2) s
  | 0x11 => execDestroySleeve h s
  | 0x12 => execResetSleeve h s
  | 0x13 => execBindPasid h (n 16 4) s
  | 0x14 => execUnbindPasid h (n 16 4) s
  | 0x20 => execCreateCq h (n 16 1) (n 18 2) (n 20 4) (n 24 8) (n 32 4) (n 40 8) s
  | 0x21 => execCreateSq h (n 16 1) (n 17 1) (BitVec.ofNat 16 (n 18 2)) (n 20 4) (n 24 8) (n 32 4) s
  | 0x22 => execDeleteQueue h (bitOf (n 16 1) 0) (n 17 1) s
  | 0x23 => execRestartSq h (n 16 1) (BitVec.ofNat 16 (n 18 2)) (n 20 4) s
  | 0x30 => execKemGet h s
  | 0x31 => execKeyEstablish h (n 16 1) (memRead m 20 1568) s
  | 0x40 => .next s
  | 0x41 => .next s
  | _ => .next (s.mbxRequest h op false fun s => s.mbxDone op 0x73 [])

/-! ### REGISTER_WRITE -/

/-- A write to the mailbox command area (R381). -/
def State.writeArea (s : State) (off width v : Nat) : State :=
  if s.mbx.busy then s.hostAccess 0 off width true
  else { s with mbx := { s.mbx with cmd := memWrite s.mbx.cmd (off - 0x1000) (leBytes width v) } }

/-- Offsets of BAR0 registers that exist and are read-only to a 32-bit write. -/
def readOnly32 (off : Nat) : Bool :=
  [0x00, 0x04, 0x08, 0x0C, 0x10, 0x14, 0x2010, 0x1F010].contains off || (decide (0x10000 ≤ off ∧ off < 0x1B000) && snapWord off)

/-- REGISTER_WRITE (R12, R13): a write by the field access codes; a write of wrong width or alignment or to a reserved
offset is ignored and logged (R349). So is a 32-bit half write of MBX_ADMIN_DB, which R12 allows any 64-bit register and R379 does
not (log entry 77). -/
def execRegisterWrite (bar off width : Nat) (value : BitVec 64) (s : State) : Host.Outcome State Fault Refusal :=
  let v := value.toNat
  let v32 := BitVec.ofNat 32 v
  if bar = 0 ∧ off = 0x1FF0 ∧ width = 8 then s.mbxDoorbell value
  else .next (s.ioWrite (
    if bar = configBar then s.writeConfig off width v
    else if bar = 0 then
      if 0x1000 ≤ off ∧ off < 0x1800 ∧ [1, 2, 4, 8].contains width ∧ off % width = 0 then s.writeArea off width v
      else if 0x1800 ≤ off ∧ off < 0x1FF0 ∧ [1, 2, 4, 8].contains width ∧ off % width = 0 then s
      else if off = 0x1FF0 ∨ off = 0x1FF4 then s.hostAccess 0 off width true
      else if off = 0x1FF8 ∧ (width = 8 ∨ width = 4) then
        if bitOf v 2 then { s with mbx := { s.mbx with errBusy := false } } else s
      else if off = 0x1FFC ∧ width = 4 then s
      else if (off = 0x2000 ∧ (width = 8 ∨ width = 4)) then
        if s.evq.en then s
        else { s with evq := { s.evq with base := BitVec.ofNat 64 (
          (if width = 8 then v else s.evq.base.toNat / 2 ^ 32 * 2 ^ 32 + v % 2 ^ 32) / 4096 * 4096) } }
      else if off = 0x2004 ∧ width = 4 then
        if s.evq.en then s
        else { s with evq := { s.evq with base := BitVec.ofNat 64 (s.evq.base.toNat % 2 ^ 32 + v % 2 ^ 32 * 2 ^ 32) } }
      else if off = 0x2008 ∧ width = 4 then s.writeEvqCtrl v32
      else if off = 0x200C ∧ width = 4 then { s with evq := { s.evq with head := BitVec.ofNat 16 v } }
      else if off = 0x1F000 ∧ width = 4 then { s with snap := { s.snap with ctrl := v32 &&& 0x00003F1E } }
      else if off = 0x1F004 ∧ width = 4 then s.writeSnapStatus v32
      else if width = 4 ∧ off % 4 = 0 ∧ (readOnly32 off = true ∨ is64 0 off = true ∨ is64 0 (off - 4) = true) then s
      else if width = 8 ∧ off % 8 = 0 ∧ is64 0 off = true then s
      else s.hostAccess 0 off width true
    else if bar = 2 then
      if off % 0x1000 = 0 ∧ off ≤ 0x10000 ∧ width = 8 then s.doorbell (off / 0x1000) value
      else if off % 0x1000 = 8 ∧ off < 0x10000 ∧ width = 4 ∧ (s.sleeve (off / 0x1000)).isSome = true then
        s.updSleeve (off / 0x1000) fun x => { x with latTol := BitVec.ofNat 24 v }
      else s.hostAccess 2 off width true
    else if bar = 4 then
      if off < 0x8000 ∧ (width = 4 ∨ width = 8) ∧ off % width = 0 then s.writeMsix off width v
      else if 0x8000 ≤ off ∧ off < 0x8100 ∧ (width = 4 ∨ width = 8) ∧ off % width = 0 then s
      else if isComp off = true ∧ width = 4 ∧ off % 4 = 0 then { s with hif := s.hif.setComp off v }
      else s.hostAccess 4 off width true
    else s.hostAccess bar off width true))

end Sys2Proof.Machine
end

