-- ==== Sys2Proof/Machine/Image.lean ====
section
/-! DEFINITION. The structure check of a pattern image when it is loaded (R207 to R220, R227 to R230, R232): reserved fields
and codes are refused with 0x72 and everything else with 0x75 (R396), with the first failing word. -/
namespace Sys2Proof.Machine
open Sys2Proof

/-- What an image check found. -/
inductive ImageCheck where
  | good (p : Pattern)
  | bad (status : Status) (word : Nat)
deriving DecidableEq, Repr

/-- The word at an address; an address past the image reads as a reserved class. -/
def wordAt (ws : List PWord) (a : Nat) : PWord := ws.getD a (BitVec.ofNat 128 (13 * 2 ^ 124))

/-- Whether an OP value of a class is reserved (R206 to R220). -/
def opReserved (cls op : Nat) : Bool :=
  match cls with
  | 0 => decide (2 < op)
  | 1 => decide (1 < op)
  | 2 => decide (op ≠ 0)
  | 3 => decide (op ≠ 0)
  | 4 => decide (2 < op)
  | 5 => decide (3 < op)
  | 6 => decide (op ≠ 0)
  | 7 => decide (1 < op)
  | 8 => decide (1 < op)
  | 9 => decide (1 < op)
  | 10 => decide (op ≠ 0)
  | 11 => decide (op ≠ 0)
  | 12 => decide (5 < op ∧ op ≠ 15)
  | 15 => decide (op ≠ 1 ∧ op ≠ 2)
  | _ => true

/-- Whether a word holds a reserved code or a nonzero reserved field (R14, R177, R206). -/
def wordReserved (w : PWord) : Bool :=
  let h := wordHdr w
  opReserved h.cls h.op || decide (h.reserved ≠ 0) ||
  match h.cls with
  | 0 => let x := matrixWord w; decide (x.reserved ≠ 0 ∨ 10 < x.kind)
  | 1 => decide ((railWord w).reserved ≠ 0)
  | 2 => let x := vectorWord w; decide (x.reserved ≠ 0 ∨ 10 < x.kind ∨ 0x19 < x.func)
  | 3 => let x := rotateWord w; decide (x.reserved ≠ 0 ∨ 10 < x.kind)
  | 4 => decide ((streamWord w).reserved ≠ 0)
  | 5 => let x := stackWord w; decide (x.reserved ≠ 0) || (x.widen && decide (10 < x.wfmt))
  | 6 => decide ((statWord w).reserved ≠ 0)
  | 7 => decide ((reduceWord w).reserved ≠ 0)
  | 8 => decide ((barrierWord w).reserved ≠ 0)
  | 9 => decide ((waitWord w).reserved ≠ 0)
  | 10 => decide (bitsOf w.toNat 95 0 ≠ 0)
  | 11 => decide ((loopWord w).reserved ≠ 0)
  | 12 => decide ((branchWord w).reserved ≠ 0)
  | 15 => if h.op = 1 then let x := extBackward w; decide (x.reserved ≠ 0 ∨ 10 < x.dwKind)
          else decide ((extConv w).reserved ≠ 0)
  | _ => false

/-- Whether a word is a MATRIX that an EXT follows (R207). -/
def wantsExt (w : PWord) : Bool := let h := wordHdr w; decide (h.cls = 0 ∧ 1 ≤ h.op)

/-- Whether a word is a VECTOR whose chain goes on in the next word (R210). -/
def chains (w : PWord) : Bool := decide ((wordHdr w).cls = 2) && (vectorWord w).chain

/-- The words of the VECTOR chain at an address, by address; the flag says that the chain ends inside the image. -/
def chainFrom (ws : List PWord) (a : Nat) : Nat → List Nat × Bool
  | 0 => ([], false)
  | f + 1 =>
    if ws.length ≤ a ∨ (wordHdr (wordAt ws a)).cls ≠ 2 then ([], false)
    else if chains (wordAt ws a) then
      let r := chainFrom ws (a + 1) f
      (a :: r.1, r.2)
    else ([a], true)

/-- Array masks of a MATRIX: one array, a row pair or all four (R88). -/
def maskOk (m : Nat) : Bool := [1, 2, 4, 8, 3, 12, 15].contains m

/-! ### Loops and paths -/

/-- LOOP words with their bodies: (address, END, rod). -/
def loopsOf (ws : List PWord) : List (Nat × Nat × Nat) :=
  ws.zipIdx.filterMap fun e =>
    if (wordHdr e.1).cls = 11 then some (e.2, (loopWord e.1).last, (loopWord e.1).rod) else none

/-- The loops whose bodies hold an address, innermost last: bodies nest, so the innermost starts last (R227). -/
def bodiesOf (ls : List (Nat × Nat × Nat)) (a : Nat) : List (Nat × Nat × Nat) :=
  ls.filter fun l => decide (l.1 < a ∧ a ≤ l.2.1)

/-- The address of the LOOP whose body is the innermost that holds an address. -/
def innermost (ls : List (Nat × Nat × Nat)) (a : Nat) : Option Nat := (bodiesOf ls a).getLast?.map (·.1)

/-- Where issue can go after the word at an address, forward: the repeat of a loop goes back to words already reached
(R207, R227, R228). -/
def nextsOf (ws : List PWord) (a : Nat) : List Nat :=
  let w := wordAt ws a
  match (wordHdr w).cls with
  | 11 => if (loopWord w).scalar then [a + 1, (loopWord w).last + 1] else [a + 1]
  | 12 => if (wordHdr w).op = 15 then [] else if (wordHdr w).op = 0 then [(branchWord w).target]
          else [a + 1, (branchWord w).target]
  | _ => if wantsExt w then [a + 2] else [a + 1]

/-- The addresses that issue can reach, going through `n` words from `a` upward. -/
def reachFrom (ws : List PWord) : Nat → Nat → List Nat → List Nat
  | 0, _, seen => seen
  | n + 1, a, seen =>
    if seen.contains a then reachFrom ws n (a + 1) ((nextsOf ws a).filter (fun x => !seen.contains x) ++ seen)
    else reachFrom ws n (a + 1) seen

/-- The addresses that issue can reach from word 0; the image's length stands for running past the last word. -/
def reachable (ws : List PWord) : List Nat := reachFrom ws ws.length 0 [0]

/-! ### Checks of one word -/

/-- EXT placement (R207). -/
def extOk (ws : List PWord) (a : Nat) : Bool :=
  let h := wordHdr (wordAt ws a)
  if h.cls = 15 then
    decide (0 < a ∧ h.setf = none) && wantsExt (wordAt ws (a - 1)) && decide ((wordHdr (wordAt ws (a - 1))).op = h.op)
  else !wantsExt (wordAt ws a) || decide ((wordHdr (wordAt ws (a + 1))).cls = 15)

/-- An epilogue's placement and words (R229): `reach` the reachable addresses. -/
def epilogueOk (ws : List PWord) (reach : List Nat) (e : Nat) : Bool :=
  let c := chainFrom ws e ws.length
  c.2 && (vectorWord (wordAt ws e)).aT &&
    c.1.all fun a => !reach.contains a && decide ((vectorWord (wordAt ws a)).func < 0x17)

/-- A VECTOR word's place in its chain (R210); `epis` are the addresses that EPI fields name. -/
def chainOk (ws : List PWord) (epis : List Nat) (a : Nat) : Bool :=
  let w := vectorWord (wordAt ws a)
  let first := decide (a = 0) || !chains (wordAt ws (a - 1))
  (!w.chain || (decide ((wordHdr (wordAt ws (a + 1))).cls = 2 ∧ w.func < 0x17) &&
    decide ((vectorWord (wordAt ws (a + 1))).rows = w.rows ∧ (vectorWord (wordAt ws (a + 1))).cols = w.cols))) &&
  (!first || !w.aT || epis.contains a)

/-- Whether an address starts a word that issue may go to: not an EXT, not the inside of a chain (log entry 16). -/
def startsWord (ws : List PWord) (a : Nat) : Bool :=
  decide ((wordHdr (wordAt ws a)).cls ≠ 15) && (decide (a = 0) || !chains (wordAt ws (a - 1)))

/-- The fields of a word against the rules that need only the image (R207 to R220, R227 to R229). -/
def structureOk (ws : List PWord) (ls : List (Nat × Nat × Nat)) (reach epis : List Nat) (a : Nat) : Bool :=
  let w := wordAt ws a
  let op := (wordHdr w).op
  extOk ws a &&
  match (wordHdr w).cls with
  | 0 =>
    let x := matrixWord w
    maskOk x.mask && (!(x.hold || x.cont) || decide (op ≠ 1)) &&
      (!x.hold || decide (x.tag = 0 ∧ x.kind = 0 ∧ x.epi = 0)) && (decide (x.epi = 0) || epilogueOk ws reach x.epi)
  | 1 => let x := railWord w; decide (op = 1) || decide (x.x = 0 ∧ x.gtag = 0)
  | 2 => chainOk ws epis a
  | 3 => decide (5 ≤ (rotateWord w).log2l ∧ (rotateWord w).log2l ≤ 12)
  | 5 =>
    let x := stackWord w
    (decide (op = 0) || decide (x.codec = 0)) && (decide (op < 2) || decide (x.ls = 0 ∧ x.mapEn = true)) &&
      (!x.mapEn || decide (x.tokens = 1)) && (if x.widen then decide (op = 1) else decide (x.wfmt = 0))
  | 8 =>
    let x := barrierWord w
    if op = 0 then decide (x.group = 0 ∧ x.span = false) else decide (x.mask = 0)
  | 9 =>
    let x := waitWord w
    if op = 0 then decide (1 ≤ x.count) else decide (x.mask = 0 ∧ x.count = 0 ∧ x.clear = false)
  | 11 =>
    let x := loopWord w
    decide (a < x.last ∧ x.last < ws.length) && startsWord ws (x.last + 1) && !chains (wordAt ws x.last) &&
      (bodiesOf ls a).all fun l => decide (x.last ≤ l.2.1 ∧ x.rod ≠ l.2.2)
  | 12 =>
    let x := branchWord w
    decide (op = 15) ||
      (decide (a < x.target ∧ x.target < ws.length) && startsWord ws x.target &&
        decide (innermost ls x.target = innermost ls a) &&
        (decide (op = 0) || x.leftScalar && decide (op ≠ 5) || decide (x.left < 16)) &&
        (decide (op ≠ 5) || (bodiesOf ls a).any fun l => decide (l.2.2 = x.left)))
  | _ => true

/-- The check of an image (R230): header and length, reserved bytes, then each word in turn, then END reachability. -/
def checkImage (l : List Byte) (len : Nat) : ImageCheck :=
  match imageOf l len with
  | none => .bad 0x75 0
  | some p =>
    let ws := p.words
    let ls := loopsOf ws
    let reach := reachable ws
    let epis := ws.filterMap fun w =>
      if (wordHdr w).cls = 0 ∧ (matrixWord w).epi ≠ 0 then some (matrixWord w).epi else none
    if !imageReservedOk l || p.cursors.any (fun c => decide (10 < c.fmt)) then .bad 0x72 0
    else match (List.range ws.length).find? fun a => wordReserved (wordAt ws a) || !structureOk ws ls reach epis a with
      | some a => .bad (if wordReserved (wordAt ws a) then 0x72 else 0x75) a
      | none => if reach.contains ws.length then .bad 0x75 (ws.length - 1) else .good p

end Sys2Proof.Machine
end

