-- ==== Sys2Proof/Machine/Sequencer.lean ====
section
/-! DEFINITION. The words the sequencer itself completes: STAT, BARRIER, WAIT, DRAIN, SNAP, LOOP, BRANCH (R214, R216 to
R220, R224 to R229), and the completions and releases of the units (R221). -/
namespace Sys2Proof.Machine
open Sys2Proof

/-- STAT (R214): TAG becomes a privileged tensor of the command on this bolt. -/
def execStat (bolt : Nat) (s : State) : Host.Outcome State Fault Refusal :=
  s.word bolt 6 0 fun b _ w =>
    let k := statWord w
    .next (s.setBolt bolt (({ b with privTags := (k.tag, k.histBase) :: b.privTags } : Bolt).issueHere w))

/-! ### WAIT and DRAIN -/

/-- The flags that a mask selects. -/
def flagsIn (m : BitVec 8) : List Nat := (List.range 8).filter fun i => m.getLsbD i

/-- Every selected flag holds at least COUNT (R217). -/
def Bolt.flagsReady (b : Bolt) (m : BitVec 8) (count : Nat) : Bool :=
  (flagsIn m).all fun f => decide (count ≤ look 0 b.flags f)

/-- Subtract COUNT from each selected flag. -/
def Bolt.takeFlags (b : Bolt) (m : BitVec 8) (count : Nat) : Bolt :=
  { b with flags := (flagsIn m).foldl (fun fl f => put 0 fl f (look 0 fl f - count)) b.flags }

/-- A satisfied WAIT: the count is subtracted under CLEAR and the word completes. -/
def Bolt.passWait (b : Bolt) (w : PWord) (m : BitVec 8) (count : Nat) (clear : Bool) : Bolt :=
  (({ (if clear then b.takeFlags m count else b) with stall := .none } : Bolt)).issueHere w

/-- WAIT OP 0 (R217): passes at once when satisfied, else the sequencer stalls at it. -/
def execWait (bolt : Nat) (s : State) : Host.Outcome State Fault Refusal :=
  s.word bolt 9 0 fun b _ w =>
    let k := waitWord w
    .next (s.setBolt bolt
      (if b.flagsReady k.mask k.count then b.passWait w k.mask k.count k.clear
       else { b with stall := .wait k.mask k.count k.clear }))

/-- WAIT OP 1, DRAIN (R217): passes once every earlier primitive of the bolt has completed. -/
def execDrain (bolt : Nat) (s : State) : Host.Outcome State Fault Refusal :=
  s.word bolt 9 1 fun b _ w =>
    .next (s.setBolt bolt (if b.idle then b.issueHere w else { b with stall := .drain }))

/-- WAIT_RELEASE: a stalled WAIT or DRAIN that is satisfied lets issue resume (R221). -/
def execWaitRelease (bolt : Nat) (s : State) : Host.Outcome State Fault Refusal :=
  .next (match s.liveRun bolt with
  | none => s
  | some _ =>
    let b := s.bolt bolt
    if s.time.hem then s
    else match b.stall, b.pattern[b.pc]? with
      | .wait m c clear, some w => if b.flagsReady m c then s.setBolt bolt (b.passWait w m c clear) else s
      | .drain, some w => if b.idle then s.setBolt bolt (({ b with stall := .none } : Bolt).issueHere w) else s
      | _, _ => s)

/-! ### Completion -/

/-- A unit completes the primitive at the head of its queue (R221): SETF adds 1 to its flag. A MATRIX completes when the
last of its arrays does, and the rail engine's entry with it; a cold array has issued no row to complete (R462). -/
def Bolt.complete (b : Bolt) (u : UnitId) : Bolt :=
  match b.queue u with
  | [] => b
  | p :: rest =>
    let b1 := b.setQueue u rest
    match u with
    | .matrix a =>
      if (look {} b.mu a).cold && !(look {} b.mu a).stalled then b
      else
        let b2 : Bolt := { b1 with mu := put {} b1.mu a { look {} b1.mu a with
          cold := false
          level := if rest.isEmpty then 6 else if (look {} b.mu a).keeper then max 2 (look {} b.mu a).level else 8
          keeper := rest.isEmpty, dependent := false, stalled := false, ramping := false } }
        if (List.range 4).any fun x => (b2.queue (.matrix x)).any fun q => q.no == p.no then b2
        else
          let b3 := b2.setQueue .rail (b2.q.rail.filter fun q => q.no != p.no)
          b3.addFlags p
    | .rail => b
    | _ => b1.addFlags p

/-- A REDUCE OP 1 is accepted only when its reduced tensor is back in the local store (R293). -/
def State.postPending (s : State) (bolt : Nat) (unit : UnitId) : Bool :=
  match unit, ((s.bolt bolt).queue unit).head? with
  | .seam, some h => s.posts.any fun p => p.bolt == bolt && p.prim == h.no && !p.gradient && decide (p.pass ≠ .done)
  | _, _ => false

/-! ### BARRIER OP 0 -/

/-- Whether the streamer still holds a STORE of the bolt (R224). -/
def Bolt.storing (b : Bolt) : Bool :=
  b.q.streamer.any fun p =>
    match b.pattern[p.addr]? with
    | some w => decide ((wordHdr w).cls = 4 ∧ (wordHdr w).op = 1)
    | none => false

/-- BARRIER OP 0 (R224): the bolt arrives and waits for the others of BOLT_MASK. -/
def execBarrierBolts (bolt : Nat) (s : State) : Host.Outcome State Fault Refusal :=
  s.word bolt 8 0 fun b _ w =>
    let k := barrierWord w
    .next (s.setBolt bolt { b with stall := .barrier k.id k.mask })

/-- Every bolt of the barrier has arrived, and its earlier STOREs are visible (R224). -/
def State.barrierFull (s : State) (run : Option Nat) (id : Nat) (mask : BitVec 16) : Bool :=
  (boltsIn mask).all fun x =>
    let b := s.bolt x
    decide (b.run = run) && decide (b.stall = .barrier id mask) && !b.storing

/-- A bolt goes on past the word it is stalled at. -/
def Bolt.resume (b : Bolt) : Bolt :=
  match b.pattern[b.pc]? with
  | some w => ({ b with stall := .none } : Bolt).issueHere w
  | none => { b with stall := .none }

/-- BARRIER_RELEASE (R224): the release reaches every joining bolt once the last has arrived. -/
def execBarrierRelease (bolt : Nat) (s : State) : Host.Outcome State Fault Refusal :=
  .next (if s.time.hem then s else match s.liveRun bolt with
    | none => s
    | some r =>
      match (s.bolt bolt).stall with
      | .barrier id mask =>
        if s.barrierFull (some r.id) id mask then s.updBolts (boltsIn mask) fun _ b => b.resume else s
      | _ => s)

/-! ### BARRIER OP 1 (R326) -/

/-- A BARRIER tick word (R320). -/
def barrierTick (kind id coll count node : Nat) : BitVec 56 :=
  BitVec.ofNat 56 (kind % 16 * 2 ^ 52 + id % 16 * 2 ^ 48 + coll % 65536 * 2 ^ 32 + count % 65536 * 2 ^ 16 + node % 65536)

/-- Tick word types (R320). -/
def tickEdge : Nat := 0xA1
def tickBarrier : Nat := 0xA2
def tickTrigger : Nat := 0xA3

/-- Every bolt of a command waits at the collective barrier `id` or has ended, and one waits: the module arrives. -/
def State.moduleArrived (s : State) (r : Run) (id : Nat) : Bool :=
  let mine (x : Nat) : Bool := decide ((s.bolt x).run = some r.id)
  ((boltsIn r.hdr.bolts).any fun x => mine x && decide ((s.bolt x).stall = .collective id)) &&
  (boltsIn r.hdr.bolts).all fun x =>
    (!mine x && ((s.findRun r.id).any fun q => q.ended.contains x)) ||
    (mine x && ((s.bolt x).ended || decide ((s.bolt x).stall = .collective id)))

/-- Children of this module in the tick tree whose ARRIVE words it combines: counted in `barriers` by (collective, ID)
until its own subtree has arrived (R326). -/
def arriveCount (l : List (BitVec 16 × Nat × Nat)) (coll : BitVec 16) (id : Nat) : Nat :=
  match l.find? fun e => e.1 == coll && e.2.1 == id with
  | some e => e.2.2
  | none => 0

/-- Add arrivals. -/
def addArrivals (l : List (BitVec 16 × Nat × Nat)) (coll : BitVec 16) (id n : Nat) : List (BitVec 16 × Nat × Nat) :=
  (coll, id, arriveCount l coll id + n) :: l.filter fun e => !(e.1 == coll && e.2.1 == id)

/-- The membership of a numbered collective in the manager's table. -/
def State.collMembership (s : State) (coll : BitVec 16) : Option Membership :=
  (s.domain.colls.find? fun c => decide (c.number = some coll)).map (·.membership)

/-- The bolts that wait at a collective barrier go on (R326). -/
def State.resumeColl (s : State) (coll : BitVec 16) (id : Nat) : State :=
  match s.runs.find? fun r => decide (r.collNo = some coll) with
  | none => s
  | some r => s.updBolts (boltsIn r.hdr.bolts) fun _ b =>
      if b.run = some r.id ∧ b.stall = .collective id then b.resume else b

/-- The arrivals counted for a barrier are spent. -/
def State.clearArrivals (s : State) (coll : BitVec 16) (id : Nat) : State :=
  { s with domain := { s.domain with barriers := s.domain.barriers.filter fun e => !(e.1 == coll && e.2.1 == id) } }

/-- Change the manager's entry of a numbered collective. -/
def State.updColl (s : State) (coll : BitVec 16) (f : MgrColl → MgrColl) : State :=
  { s with domain := { s.domain with colls := s.domain.colls.map fun c => if c.number = some coll then f c else c } }

/-- A deciding manager sends RELEASE down the tree and its own bolts go on (R326). -/
def State.sendRelease (s : State) (coll : BitVec 16) (id : Nat) : State :=
  (((s.clearArrivals coll id).updColl coll fun c => { c with released := c.released + 1 }).emit (.tickWord tickBarrier (barrierTick 1 id coll.toNat 0 s.domain.node))).resumeColl coll id

/-- The subtree's one ARRIVE goes up the tick tree once all of it has arrived (R326). -/
def State.passUp (s : State) (coll : BitVec 16) (id total : Nat) : State :=
  if max 1 (Config.subtreeMembers s.domain.plan coll.toNat) ≤ total then
    (s.clearArrivals coll id).emit (.tickWord tickBarrier (barrierTick 0 id coll.toNat total s.domain.node))
  else s

/-- Every member has arrived: at the next BARRIER OP 1 of the collective, which releases, or past the last of them at the
completion barrier, which lets the manager decide RELEASE (R307, R326). -/
def State.allArrived (s : State) (coll : BitVec 16) (id : Nat) (c : MgrColl) : State :=
  if c.released < c.arrivals.length then s.sendRelease coll id
  else (s.clearArrivals coll id).updColl coll fun c => { c with complete := true }

/-- Arrivals at a collective barrier (R307, R326): a deciding manager counts them toward all; any other module combines
them into one ARRIVE for its parent once its subtree has arrived. -/
def State.countArrivals (s : State) (coll : BitVec 16) (id n : Nat) : State :=
  let bs := addArrivals s.domain.barriers coll id n
  let total := arriveCount bs coll id
  let s1 : State := { s with domain := { s.domain with barriers := bs } }
  match s.domain.colls.find? fun c => decide (c.number = some coll) with
  | some c =>
    if s.decides c.membership then (if s.memberCount c.membership ≤ total then s1.allArrived coll id c else s1)
    else s1.passUp coll id total
  | none => s1.passUp coll id total

/-- The module's own arrival at a collective barrier. -/
def State.arrive (s : State) (r : Run) (id : Nat) : State :=
  match r.collNo with
  | none => s
  | some coll => s.countArrivals coll id 1

/-- The arrival, once every bolt of the command has arrived or ended. -/
def State.arriveIfAll (s : State) (r : Run) (id : Nat) : State := if s.moduleArrived r id then s.arrive r id else s

/-- BARRIER OP 1 (R326): the bolt waits; the module's ARRIVE goes up the tick tree when its last bolt has arrived. -/
def execBarrierCollective (bolt : Nat) (s : State) : Host.Outcome State Fault Refusal :=
  s.word bolt 8 1 fun b r w =>
    let k := barrierWord w
    .next ((s.setBolt bolt { b with stall := .collective k.id }).arriveIfAll r k.id)

/-- The module arrives at the completion barrier of a collective (R307): the command has finished on its bolts, and each of its posts
has ended with every check passed. Its ARRIVE carries ID 0 (DESIGN CHOICE, log entry 116). -/
def State.arriveComplete (s : State) (id : Nat) : State :=
  match s.findRun id with
  | none => s
  | some r =>
    match r.collNo with
    | none => s
    | some coll =>
      if r.arrived || r.mismatch || decide (r.stop ≠ none ∨ r.phase ≠ .finished) ||
          s.posts.any (fun p => p.run == id && decide (p.pass ≠ .done)) then s
      else (s.updRun id fun q => { q with arrived := true }).countArrivals coll 0 1

/-- PRIMITIVE_COMPLETE (R221). -/
def execPrimitiveComplete (bolt : Nat) (unit : UnitId) (s : State) : Host.Outcome State Fault Refusal :=
  .next (if s.time.hem || s.postPending bolt unit then s else match s.liveRun bolt with
    | none => s
    | some r => (((s.meterOn r bolt).updBolt bolt fun b => b.complete unit).settle bolt).arriveComplete r.id)

/-! ### SNAP, LOOP and BRANCH -/

/-- SNAP (R218): fires the common trigger where SNAP_CTRL arms the pattern source; else it has no effect. -/
def execSnap (bolt : Nat) (s : State) : Host.Outcome State Fault Refusal :=
  s.word bolt 0xA 0 fun _ _ w =>
    let s1 := if s.snapArmed 2 then s.trigger 2 (snapWordId w) else s
    .next (s1.updBolt bolt fun b => b.issueHere w)

/-- LOOP (R227): the rod is set to 0 and the body begins; a scalar count of 0 skips the body. -/
def execLoop (bolt : Nat) (s : State) : Host.Outcome State Fault Refusal :=
  s.word bolt 0xB 0 fun b _ w =>
    let k := loopWord w
    let n := if k.scalar then (b.scalar k.countS).toNat else k.count
    let b1 := ({ b with issued := b.issued + 1 } : Bolt).addFlag (wordHdr w).setf
    .next (s.setBolt bolt
      (if n = 0 then ({ b1 with rods := put 0 b1.rods k.rod 0 } : Bolt).after k.last
       else { b1 with rods := put 0 b1.rods k.rod 0, loops := (b.pc, k.rod, k.last, n) :: b1.loops, pc := b.pc + 1 }))

/-- LEFT of a BRANCH (R220). -/
def branchLeft (b : Bolt) (k : BranchWord) : Nat := if k.leftScalar then (b.scalar k.left).toNat else b.rod (k.left % 16)

/-- The right operand of a BRANCH. -/
def branchRight (b : Bolt) (k : BranchWord) : Nat := if k.rightScalar then (b.scalar k.rightS).toNat else k.imm

/-- Whether the loop whose rod LEFT names is in its final iteration (R228). -/
def branchLast (b : Bolt) (k : BranchWord) : Bool :=
  b.loops.any fun l => l.2.1 == k.left && decide (l.2.2.2 ≤ b.rod k.left + 1)

/-- A BRANCH of operation `op` under condition `cond` (R228): issue goes to TARGET, or on to the next word. -/
def branchStep (op : Nat) (cond : Bolt → BranchWord → Bool) (bolt : Nat) (s : State) :
    Host.Outcome State Fault Refusal :=
  s.word bolt 0xC op fun b _ w =>
    let k := branchWord w
    .next (s.setBolt bolt (if cond b k then { b.issueHere w with loops := b.loops, rods := b.rods, pc := k.target }
      else b.issueHere w))

/-- BRANCH ALWAYS. -/
def execBranchAlways (bolt : Nat) (s : State) : Host.Outcome State Fault Refusal := branchStep 0 (fun _ _ => true) bolt s

/-- BRANCH EQ. -/
def execBranchEq (bolt : Nat) (s : State) : Host.Outcome State Fault Refusal :=
  branchStep 1 (fun b k => branchLeft b k == branchRight b k) bolt s

/-- BRANCH NE. -/
def execBranchNe (bolt : Nat) (s : State) : Host.Outcome State Fault Refusal :=
  branchStep 2 (fun b k => branchLeft b k != branchRight b k) bolt s

/-- BRANCH LT, unsigned. -/
def execBranchLt (bolt : Nat) (s : State) : Host.Outcome State Fault Refusal :=
  branchStep 3 (fun b k => decide (branchLeft b k < branchRight b k)) bolt s

/-- BRANCH GE, unsigned. -/
def execBranchGe (bolt : Nat) (s : State) : Host.Outcome State Fault Refusal :=
  branchStep 4 (fun b k => decide (branchRight b k ≤ branchLeft b k)) bolt s

/-- BRANCH LAST. -/
def execBranchLast (bolt : Nat) (s : State) : Host.Outcome State Fault Refusal := branchStep 5 branchLast bolt s

/-- BRANCH END (R229): issue stops; the command ends on the bolt when its earlier primitives complete. A module whose
other bolts wait at a collective barrier arrives there. -/
def execBranchEnd (bolt : Nat) (s : State) : Host.Outcome State Fault Refusal :=
  s.word bolt 0xC 15 fun b r w =>
    let s1 := s.setBolt bolt { b.issueHere w with loops := b.loops, rods := b.rods, pc := b.pc, ended := true }
    let waiting := (boltsIn r.hdr.bolts).filterMap fun x =>
      if (s1.bolt x).run = some r.id then match (s1.bolt x).stall with | .collective id => some id | _ => none else none
    .next (((match waiting with
      | [] => s1
      | id :: _ => s1.arriveIfAll r id).settle bolt).arriveComplete r.id)

end Sys2Proof.Machine
end

