-- ==== Sys2Proof/Machine/Reduction.lean ====
section
/-! DEFINITION. Gradient reduction (chapter 11): the REDUCE words, blocks that arrive, and the ends of passes. -/
namespace Sys2Proof.Machine
open Sys2Proof

/-! ### BSR16 blocks -/

/-- RESIDUE of mantissas (R289). -/
def residueOf (l : List Int) : Nat := ((l.foldl (· + ·) 0).emod 255).toNat

/-- A mantissa saturated to the range the module writes (R287). -/
def satMant (n : Int) : Int := if n > 32767 then 32767 else if n < -32767 then -32767 else n

/-- A block's 132 bytes (R286, R288). -/
def bsrBytes (b : Bsr16) : List Byte :=
  b.mant.flatMap (fun m => leBytes 2 (m.emod 65536).toNat) ++
    [b.exp, BitVec.ofNat 8 b.residue, BitVec.ofNat 8 (b.esc % 16 * 4 + (if b.nonfin then 2 else 0) + (if b.ovf then 1 else 0)),
     BitVec.ofNat 8 b.contrib]

/-- Byte `i` of a list, 0 past its end. -/
def byteAt (l : List Byte) (i : Nat) : Nat := (l.getD i 0).toNat

/-- The block that 132 bytes hold (R286, R288). -/
def bsrOf (l : List Byte) : Bsr16 :=
  let f := byteAt l 130
  { mant := (List.range 64).map fun j => (BitVec.ofNat 16 (byteAt l (2 * j) + 256 * byteAt l (2 * j + 1))).toInt
    exp := BitVec.ofNat 8 (byteAt l 128), residue := byteAt l 129, esc := f / 4 % 16
    nonfin := decide (f / 2 % 2 = 1), ovf := decide (f % 2 = 1), contrib := byteAt l 131 }

/-- RESIDUE formed from the mantissas' bytes, high byte and low byte less the sign bit (R289): the packer's second path (R297). -/
def residueBytes (l : List Byte) : Nat :=
  residueOf ((List.range 64).map fun j =>
    (byteAt l (2 * j + 1) + byteAt l (2 * j) : Int) - (byteAt l (2 * j + 1) / 128 : Nat))

/-- The packer's check (R297). -/
def packOk (b : Bsr16) : Bool := decide (residueBytes (bsrBytes b) = b.residue)

/-- The agreed exponent byte (R294): 0xFF for a non-finite block or one above +127. As e is at least -127, X exceeds the clamp by at
least 1 + h, and each escalation raises it by 2 (R303). -/
def agreedExp (emax : Int) (nonfin : Bool) (h esc : Nat) : BitVec 8 :=
  let x := emax + 1 + h + 2 * esc
  if nonfin ∨ x > 127 then 0xFF else BitVec.ofNat 8 ((max x (-127)) + 127).toNat

/-- A value's mantissa at exponent byte EXP (R295): v * 2^(15 - X), to nearest even. -/
def packMant (exp : BitVec 8) (v : Num) : Int :=
  match v with
  | .fin s m e =>
    if exp = 0xFF then 0
    else
      let n := roundTo .nearest m e ((exp.toNat : Int) - 127 - 15)
      satMant (if s then -(n : Int) else n)
  | _ => 0

/-- A kept mantissa divided by 4^ESC, to nearest even (R303). -/
def escalate (m : Int) (esc : Nat) : Int :=
  let n := roundTo .nearest m.natAbs 0 (2 * esc)
  if m < 0 then -(n : Int) else n

/-- An own contribution as a block (R286). -/
def ownBlock (kept : List Int) (exp : BitVec 8) (esc : Nat) (nonfin : Bool) : Bsr16 :=
  let ms := kept.map fun m => escalate m esc
  ⟨ms, exp, residueOf ms, esc, nonfin, false, 1⟩

/-- An adder (R296). -/
def addBlocks (a b : Bsr16) : Bsr16 :=
  let sums := List.zipWith (· + ·) a.mant b.mant
  let ms := sums.map satMant
  ⟨ms, a.exp, residueOf ms, a.esc, a.nonfin || b.nonfin, a.ovf || b.ovf || decide (sums ≠ ms), (a.contrib + b.contrib) % 256⟩

/-- An adder's check of its own sum: one whose output did not saturate gives the inputs' residues added (R289, R297). -/
def adderOk (a b out : Bsr16) : Bool :=
  decide (List.zipWith (· + ·) a.mant b.mant ≠ out.mant ∨ out.residue = (a.residue + b.residue) % 255)

/-- The arrival check (R297). -/
def arrivalOk (b : Bsr16) (exp : BitVec 8) (esc : Nat) : Bool :=
  decide (b.residue = residueOf b.mant ∧ b.exp = exp ∧ b.esc = esc) && b.mant.all fun m => decide (-32767 ≤ m ∧ m ≤ 32767)

/-- The value of element `j` of a final block (R287). -/
def blockValue (b : Bsr16) (j : Nat) : Num :=
  if b.exp = 0xFF then .nan else ofSigned (b.mant.getD j 0) ((b.exp.toNat : Int) - 142)

/-! ### Posts -/

/-- Values cut into blocks of `n`, the last padded with +0. -/
def padBlocks (n : Nat) (l : List Num) : List (List Num) :=
  (chunks n (l.length + 1) l).map fun c => c ++ List.replicate (n - c.length) zero

/-- A gradient-region value as the command sees it: its own basting first (R292). -/
def gradOf (r : Run) (p : Patch) (e : Nat) : Num :=
  match r.baste.grads.find? fun g => g.1 == p.handle && g.2.1 == e with
  | some g => g.2.2
  | none => look zero p.grad e

/-- The elements of a patch that a post of LAYER takes (R292): dA then dB of a target, else a darned layer's. -/
def State.postPart (s : State) (p : Patch) (layer : Nat) : Option (Nat × Nat) :=
  match (s.darnPlaces p (s.factorElems p) p.darns).find? fun d => d.1.layer == layer with
  | some d => some (d.2.1, d.2.2)
  | none => (s.placeOf p layer).map fun f => (f.off, f.rs * (f.k + f.n))

/-- The sleeve's group of that number. -/
def State.group (s : State) (sl g : Nat) : Option Group :=
  s.groups.find? fun x => x.sleeve == sl && x.block.group == g && x.ready && !x.removed

/-- floor(log2 a) of a block, -127 when all are zero, and NONFIN (R294). The byte of the exponent pass has room for -127 to 127: a
magnitude below or above counts as the nearest of these (DESIGN CHOICE, log entry 116). -/
def blockExp (l : List Num) : Int × Bool :=
  (max (-127) (min 127 (((amaxOf l).log2?).getD (-127))), l.any fun v => !v.isFinite)

/-- The byte of the exponent pass: e + 127, 0xFF for NONFIN (R294; log entry 116). -/
def expByte (e : Int × Bool) : Byte := if e.2 then 0xFF else BitVec.ofNat 8 (e.1 + 127).toNat

/-- A byte of the exponent pass joins the maximum (R294). -/
def joinExp (e : Int × Bool) (v : Byte) : Int × Bool := if v = 0xFF then (e.1, true) else (max e.1 ((v.toNat : Int) - 127), e.2)

/-- The key of a block in the escalations that the manager recorded for a re-run: the run, the post, the block (R305). -/
def escKey (run no i : Nat) : Nat := (run * 2 ^ 20 + no) * 2 ^ 24 + i

/-- The number of error-memory entry `e` of a post's object (R312). -/
def errKey (gradient : Bool) (obj e : Nat) : Nat := 2 * (obj * 2 ^ 40 + e) + (if gradient then 0 else 1)

/-- The error-memory entry of each element of a post's blocks of `n`; padding has none (R311, R312). -/
def Post.errKeys (p : Post) (n : Nat) : List (Option Nat) :=
  p.parts.flatMap fun q =>
    ((List.range q.2.2).map fun e => some (errKey p.gradient (if p.gradient then q.1 else p.tag) (q.2.1 + e))) ++
      List.replicate (ceilDiv q.2.2 n * n - q.2.2) none

/-- Error memory as the command sees it. -/
def errOf (r : Run) (g : Group) (k : Nat) : BitVec 16 :=
  match r.baste.errs.find? fun e => e.1 == g.block.group && e.2.1 == k with
  | some e => e.2.2
  | none => look 0 g.err k

/-- One E1 block of this member (R312): signs, SCALE, and the new error memory. -/
def e1Encode (vals : List Num) (errs : List (BitVec 16)) : List Bool × BitVec 16 × Option (List (BitVec 16)) :=
  let u := List.zipWith (fun v (e : BitVec 16) => toTally (v.add (decodeBits 0 e.toNat))) vals errs
  if u.any fun x => !x.isFinite then (u.map Num.isNeg, 0x7FC0, none)
  else
    let sum := u.foldl (fun a x => tallyAdd a x.abs) zero
    let sc := BitVec.ofNat 16 (handOffElem 0 .nearest (sum.scale (-8))).1
    let c (x : Num) : Num := (decodeBits 0 sc.toNat).withSign x.isNeg
    (u.map Num.isNeg, sc, some (u.map fun x => BitVec.ofNat 16 (handOffElem 0 .nearest (toTally (x.add (c x).neg))).1))

/-- An E1 block's 34 bytes (R311). -/
def e1Bytes (signs : List Bool) (scale : BitVec 16) : List Byte :=
  ((List.range 32).map fun i => BitVec.ofNat 8 (sumOf ((List.range 8).map fun j => if signs.getD (8 * i + j) false then 2 ^ j else 0))) ++
    leBytes 2 scale.toNat

/-- Signs and SCALE of an E1 block's bytes (R311). -/
def e1Decode (l : List Byte) : List Bool × BitVec 16 :=
  ((List.range 256).map fun j => decide (byteAt l (j / 8) / 2 ^ (j % 8) % 2 = 1), BitVec.ofNat 16 (byteAt l 32 + 256 * byteAt l 33))

/-- The post a group is reducing: its first that is not done (R301). -/
def State.activePost (s : State) (g : Nat) : Option Post := s.posts.find? fun p => p.group == g && p.pass ≠ .done

/-- Replace a post. -/
def State.setPost (s : State) (p : Post) : State :=
  { s with posts := s.posts.map fun q => if q.run = p.run ∧ q.group = p.group ∧ q.no = p.no then p else q }

/-- What the engine says of a post goes to some ranks of its group over the Seam, on the group's channel (R290, R299). -/
def State.sendTo (s : State) (g : Group) (p : Post) (i ring len : Nat) (b : RedBlock) (ranks : List Nat) : State :=
  ranks.foldl (fun s r =>
    let node := g.block.members.getD r 0xFFFF
    s.sendSeam p.run (s.ringPort (4 + g.block.group) ring node) node g.block.keyId (4 + g.block.group) len (.reduce g.block.group i b)) s

/-- The next rank of a ring. -/
def nextRank (g : Group) (rank : Nat) : Nat := (rank + 1) % max 1 g.block.members.length

/-- Block `i` goes on by the post's schedule (R299, R300). -/
def State.sendBlock (s : State) (g : Group) (p : Post) (i : Nat) (total : Bool) (len : Nat) (b : RedBlock) : State :=
  s.sendTo g p i (placeOfBlock g.block p.blocks i).1 len b (receivers g.block p.tree (s.rankIn g) p.blocks i total)

/-- A pass starts: the member's blocks go out where it waits for none to add (R299, R300). `which` selects the blocks of the pass;
the others stay as they are. -/
def State.startPass (s : State) (g : Group) (p : Post) (which : List Bool) (pass : Pass) (len : Nat) (b : Nat → RedBlock) : State :=
  let rank := s.rankIn g
  let starts (i : Nat) : Bool := which.getD i true && decide (expectedAdds g.block p.tree rank p.blocks i = 0)
  let p1 := { p with
    pass := pass
    added := p.added.zipIdx.map fun e => if which.getD e.2 true then 0 else e.1
    total := p.total.zipIdx.map fun e => if which.getD e.2 true then starts e.2 && holdsTotal g.block p.tree rank p.blocks e.2 else e.1 }
  ((List.range p.blocks).filter starts).foldl (fun s i => s.sendBlock g p i false len (b i)) (s.setPost p1)

/-- A post's first pass starts (R291, R294, R313): the exponents by its schedule and the shape list round the ranks; or a member's
E1 blocks round the ring. -/
def State.beginPost (s : State) (g : Group) (p : Post) : State :=
  let rank := s.rankIn g
  if g.block.format = 1 then
    (p.e1.filter fun e => e.2.1 == rank).foldl (fun s e =>
      s.sendTo g p e.1 (placeOfBlock g.block p.blocks e.1).1 34 (.e1 rank (e1Bytes e.2.2.1 e.2.2.2)) [nextRank g rank]) s
  else
    (s.startPass g p [] .exponent 1 fun i => .exponent (expByte (p.emax.getD i (-127, false)))).sendTo g p 0 0 (8 * p.shape.length)
      (.shape rank p.shape) [nextRank g rank]

/-- The group's next post starts where the one before it has ended (R301). -/
def State.beginNextPost (s : State) (g : Group) : State :=
  match s.activePost g.block.group with
  | some p => s.beginPost g p
  | none => s

/-- A member's E1 blocks with the error memory that each leaves: entries and, where it changes, values (R312). -/
def e1Blocks (r : Run) (g : Group) (p : Post) : List (List (Option Nat) × List Bool × BitVec 16 × Option (List (BitVec 16))) :=
  let keys := p.errKeys 256
  p.vals.zipIdx.map fun e =>
    let ks := (List.range 256).map fun j => keys.getD (256 * e.2 + j) none
    (ks, e1Encode e.1 (ks.map fun k => match k with | some k => errOf r g k | none => 0))

/-- A post joins its group's posts (R291, R312); it starts at once where none is before it (R301). -/
def State.addPost (s : State) (r : Run) (g : Group) (p : Post) : State :=
  let first := (s.activePost g.block.group).isNone
  let begin_ (s : State) : State := if first then s.beginNextPost g else s
  if g.block.format = 1 then
    let enc := e1Blocks r g p
    let new := enc.flatMap fun e => match e.2.2.2 with
      | some errs => (List.zip e.1 errs).filterMap fun x => x.1.map fun k => (k, x.2)
      | none => []
    let q : Post := { p with e1 := enc.zipIdx.map (fun e => (e.2, s.rankIn g, e.1.2.1, e.1.2.2.1)), pass := .data }
    begin_ (({ s with posts := s.posts ++ [q] } : State).updRun r.id fun x => { x with baste := { x.baste with
      errs := overlay x.baste.errs g.block.group new } })
  else begin_ { s with posts := s.posts ++ [p] }

/-- How many posts a run has made to a group. -/
def State.postCount (s : State) (run g : Nat) : Nat := (s.posts.filter fun p => p.run == run && p.group == g).length

/-- A post as the engine takes it: `parts` with the values of each, in blocks (R291, R292). -/
def State.newPost (s : State) (r : Run) (g : Group) (bolt cursor source tag : Nat) (gradient : Bool) (shape : List ShapeEntry)
    (parts : List ((Nat × Nat × Nat) × List Num)) : Post :=
  let vals := parts.flatMap fun q => padBlocks (if g.block.format = 1 then 256 else 64) q.2
  { run := r.id, bolt := bolt, group := g.block.group, no := s.postCount r.id g.block.group, prim := (s.bolt bolt).issued
    gradient := gradient, parts := parts.map (·.1), cursor := cursor, source := source, shape := shape, shapes := []
    tree := s.treeFor g.block vals.length, tag := tag, blocks := vals.length, vals := vals, emax := vals.map blockExp
    kept := [], work := [], added := vals.map fun _ => 0, total := vals.map fun _ => false, e1 := [], pass := .exponent }

/-- Patches of a row map whose rows run on a bolt, in order of first appearance (R292): those whose rows RAIL-bearing instructions of
the command ran there, or, before any, all of them (DESIGN CHOICE, log entry 116). -/
def Bolt.postable (b : Bolt) (map : List RowEntry) : List Nat :=
  (((map.filter fun e => e.pv).map (·.patch)).eraseDups).filter fun h => decide (b.ran = []) || b.ran.contains h

/-- The part of a patch that a post of LAYER takes, with its values, and its entry of the shape list (R291, R292). -/
def State.patchPart (s : State) (r : Run) (layer h : Nat) : Option (((Nat × Nat × Nat) × List Num) × ShapeEntry) :=
  (s.patch h).bind fun p => (s.postPart p layer).map fun q =>
    (((h, q.1, q.2), (List.range q.2).map fun e => gradOf r p (q.1 + e)), .patch p.tenant p.rank layer q.2)

/-- REDUCE OP 0 (R292): the gradient region of LAYER of every patch whose rows in the row map run on the bolt. -/
def execReduceGradient (bolt : Nat) (s : State) : Host.Outcome State Fault Refusal :=
  s.word bolt 7 0 fun b r w =>
    let k := reduceWord w
    match s.group (ownerNum r.hdr.owner) k.group with
    | none => .next s
    | some g =>
      if b.room [.seam] = false then .next s
      else
        let map := rowMap b.mem (b.view k.mapCur).addr 65536
        if mapReserved map then .next (s.haltRun r 0x72 0 bolt)
        else
          let parts := (b.postable map).filterMap (s.patchPart r k.layer)
          let post := s.newPost r g bolt 0 0 k.tag true (parts.map (·.2)) (parts.map (·.1))
          .next (((s.setBolt bolt (b.issueOn [.seam] w)).updRun r.id fun q =>
            { q with tenantRows := q.tenantRows || anyPatch map }).addPost r g post)

/-- REDUCE OP 1 (R293): a sleeve-owned local-store tensor of BLOCKS blocks. -/
def execReduceTensor (bolt : Nat) (s : State) : Host.Outcome State Fault Refusal :=
  s.word bolt 7 1 fun b r w =>
    let k := reduceWord w
    match s.group (ownerNum r.hdr.owner) k.group with
    | none => .next s
    | some g =>
      if b.room [.seam] = false then .next s
      else
        let v := b.view k.ls
        let flat := readRow b.mem v v.addr (64 * k.blocks)
        let post := s.newPost r g bolt k.ls v.addr k.tag false [.blocks k.blocks] [((0, 0, 64 * k.blocks), flat)]
        within bolt (v.extents v.fmt 1 (64 * k.blocks)) ((s.setBolt bolt (b.issueOn [.seam] w)).addPost r g post)

/-! ### Arrivals -/

/-- An arrival mismatch: reported to the manager, which decides ABORT, and logged (R298, R487). -/
def State.mismatch (s : State) (p : Post) : State :=
  let coll := ((s.findRun p.run).bind (·.collNo)).getD 0
  ((s.logError { cls := 1, source := 0x20, loc := 0x80, info := BitVec.ofNat 64 p.group }).updRun p.run fun r =>
    { r with mismatch := true }).emit (.channel0 (.arrivalMismatch coll))

/-- An adder mismatch: the module's own engine has miscomputed, and the module unravels (R298). -/
def State.adderMismatch (s : State) (r : Run) : State := s.unravelFrom 8 0x21 0x80 (ownerNum r.hdr.owner)

/-- What an arrival of block `i` is to a post: one to add, which makes its sum go on or not, a total, or nothing of it. -/
inductive Joins where
  | add (last final : Bool)
  | total
  | no
deriving DecidableEq, Repr

/-- Where block `i` of a post stands (R299, R300). -/
def Post.joins (p : Post) (b : GroupBlock) (rank i : Nat) : Joins :=
  let need := expectedAdds b p.tree rank p.blocks i
  let n := p.added.getD i 0 + 1
  if p.total.getD i false ∨ p.blocks ≤ i then .no
  else if n ≤ need then .add (decide (n = need)) (decide (n = need) && holdsTotal b p.tree rank p.blocks i)
  else .total

/-- The post after an arrival of block `i`. -/
def Post.joined (p : Post) (i : Nat) : Joins → Post
  | .add _ final => { p with added := setAt p.added i (p.added.getD i 0 + 1), total := setAt p.total i final }
  | .total => { p with total := setAt p.total i true }
  | .no => p

/-- A byte of the exponent pass arrives (R294). One of a block that the member did not post shows that the shapes differ, which
stops the command (R291, log entry 104). -/
def State.takeExponent (s : State) (r : Run) (g : Group) (p : Post) (i : Nat) (v : Byte) : State :=
  if p.pass ≠ .exponent then s
  else if p.blocks ≤ i then s.haltRun r 0x7C 0 p.bolt
  else
    let j := p.joins g.block (s.rankIn g) i
    let e := joinExp (p.emax.getD i (-127, false)) v
    let s1 := s.setPost { p.joined i j with emax := setAt p.emax i e }
    match j with
    | .add last final => if last then s1.sendBlock g p i final 1 (.exponent (expByte e)) else s1
    | .total => s1.sendBlock g p i true 1 (.exponent v)
    | .no => s

/-- A member's shape list arrives and goes on round the ranks; one that differs stops the command (R291, log entry 104). -/
def State.takeShape (s : State) (r : Run) (g : Group) (p : Post) (rank : Nat) (l : List ShapeEntry) : State :=
  if p.pass ≠ .exponent ∨ p.shapes.contains rank ∨ rank = s.rankIn g then s
  else
    let next := nextRank g (s.rankIn g)
    let s1 := (s.setPost { p with shapes := rank :: p.shapes }).sendTo g p 0 0 (8 * l.length) (.shape rank l)
      (if next = rank then [] else [next])
    if l = p.shape then s1 else s1.haltRun r 0x7C 0 p.bolt

/-- A BSR16 block arrives: checked, added to the member's own and sent on, or the total of the gather phase (R296 to R300). -/
def State.takeBlock (s : State) (r : Run) (g : Group) (p : Post) (i : Nat) (block : Bsr16) : State :=
  match p.work[i]? with
  | none => s
  | some own =>
    let j := p.joins g.block (s.rankIn g) i
    if p.pass = .exponent ∨ p.pass = .done ∨ j = .no then s
    else if !arrivalOk block own.exp own.esc then s.mismatch p
    else match j with
      | .add last final =>
        let sum := addBlocks block own
        if !adderOk block own sum then s.adderMismatch r
        else
          let s1 := s.setPost { p.joined i j with work := setAt p.work i sum }
          if last then s1.sendBlock g p i final 132 (.bsr (bsrBytes sum)) else s1
      | _ => (s.setPost { p.joined i j with work := setAt p.work i block }).sendBlock g p i true 132 (.bsr (bsrBytes block))

/-- A member's E1 block arrives and goes on round the ring (R313). -/
def State.takeE1 (s : State) (g : Group) (p : Post) (i rank : Nat) (bytes : List Byte) : State :=
  if p.blocks ≤ i ∨ (p.e1.any fun e => e.1 == i && e.2.1 == rank) then s
  else
    let x := e1Decode bytes
    let next := nextRank g (s.rankIn g)
    (s.setPost { p with e1 := p.e1 ++ [(i, rank, x.1, x.2)] }).sendTo g p i (placeOfBlock g.block p.blocks i).1 34 (.e1 rank bytes)
      (if next = rank then [] else [next])

/-- REDUCTION_BLOCK_ARRIVE (R291, R294, R296 to R300, R313), for the post that the group is reducing. -/
def execReductionBlockArrive (group index : Nat) (block : RedBlock) (s : State) : Host.Outcome State Fault Refusal :=
  .next (match s.activePost group with
  | none => s
  | some p =>
    match s.findRun p.run with
    | none => s
    | some r =>
      match s.group (ownerNum r.hdr.owner) group with
      | none => s
      | some g =>
        match block with
        | .exponent v => if g.block.format = 1 then s else s.takeExponent r g p index v
        | .shape rank l => if g.block.format = 1 then s else s.takeShape r g p rank l
        | .bsr l => if g.block.format = 1 then s else s.takeBlock r g p index (bsrOf l)
        | .e1 rank l => if g.block.format = 1 then s.takeE1 g p index rank l else s)

/-! ### Ends of passes -/

/-- The final values of a post's elements, padding dropped (R306). -/
def finalValues (p : Post) (ranks : Nat) (e1 : Bool) : List (List Num) :=
  (List.range p.blocks).map fun i =>
    if e1 then
      (List.range 256).map fun j =>
        ((List.range ranks).foldl (fun (acc : Option Num) rk =>
          match p.e1.find? fun e => e.1 == i && e.2.1 == rk with
          | some e =>
            let c := (decodeBits 0 e.2.2.2.toNat).withSign (e.2.2.1.getD j false)
            tallyStep acc c
          | none => acc) none).getD zero
    else
      match p.work[i]? with
      | some b => (List.range 64).map (blockValue b)
      | none => []

/-- Drop each part's padding. -/
def dropPadding (n : Nat) : List (Nat × Nat × Nat) → List Num → List (Nat × Nat × List Num)
  | [], _ => []
  | (h, off, len) :: ps, l => (h, off, l.take len) :: dropPadding n ps (l.drop (ceilDiv len n * n))

/-- Unpacking (R306): into the gradient regions of the posted patches, or back into the local-store source; PGRAD format,
nearest even, counts only. The record of an OP 1 tensor, which is sleeve-owned, holds counts only all the same, with CHANNELS 0 and
PATCH_OWNED 0 (DESIGN CHOICE, log entry 114). -/
def State.unpack (s : State) (r : Run) (p : Post) (vals : List Num) (n : Nat) : State :=
  let rcp := r.recipe 3
  let f := rcp.format
  let byTenant := r.tenantRows && isPlain f && decide (rcp.scaleMode = 0)
  let hist := if p.gradient then [] else match s.sleeve (ownerNum r.hdr.owner) with | some q => histOf q.hist p.tag | none => []
  let xs := plainScale rcp f hist zero (byTenant || p.gradient)
  let x := if isMx f then 0 else xs.1
  let ctx : RoundCtx := ⟨p.bolt, s.time.stitch, fun _ => laneUnitReduce, false⟩
  let b := s.bolt p.bolt
  let blank : StatRec :=
    { tag := p.tag, kind := 3, cls := r.hdr.cls, fmt := f, scale := if isMx f then 0 else BitVec.ofNat 8 (scaleByte x),
      tenantRows := r.tenantRows, patchOwned := p.gradient, fixedByTenant := byTenant, satLog := rcp.satLog }
  let parts := dropPadding n p.parts vals
  let out := parts.map fun q => (q, (handRow f rcp.margin x ctx b 0 q.2.2).1)
  let st := out.foldl (fun st e => countRow st false (List.zip (e.2.elems.map (·.2)) e.1.2.2) 0) blank
  let s1 := if p.gradient then
      (s.basteRegion r.id (out.flatMap fun e => patchLines e.1.1 0 (fmtWidth f)
        ((List.range e.1.2.2.length).map (e.1.2.1 + ·)))).updRun r.id fun q => { q with baste := { q.baste with
        grads := out.foldl (fun g e => overlay g e.1.1 (numbered e.1.2.1 [readBack f x e.2])) q.baste.grads } }
    else
      let h : HandOff := ⟨p.tag, 3, 0, fun _ => laneUnitReduce, [], []⟩
      let o : Handed := ⟨out.map (·.2), x, f, false, blank, b⟩
      s.setBolt p.bolt ((b.placeRows { b.view p.cursor with addr := p.source } f [] [0] (out.map (·.2))).noteTag o h)
  s1.updRun r.id fun q =>
    { q with
      watch := seen (seen (seen q.watch 0 (decide (st.nonfinite > 0))) 3
        ((out.any fun e => e.2.clamped) || (isPlain f && xs.2))) 4 byTenant
      baste := { q.baste with
        stats := addStat q.baste.stats st
        tops := if p.gradient && !byTenant then
            (p.parts.map (·.1)).eraseDups.foldl (fun l h => raiseTop l h p.tag
              ((out.filter fun e => e.1.1 == h).foldl (fun t e => maxMag t (amaxOf e.1.2.2)) zero)) q.baste.tops
          else q.baste.tops } }

/-- Whether an escalation pass over `n` flagged blocks ends with B before the hem (R303), at its price; how much of the working part
is gone is an amount of time, and free (log entry 10). -/
def State.escalationFits (s : State) (g : Group) (p : Post) (n : Nat) : Bool × State :=
  let f := s.fresh
  let price := s.passCycles (4 + g.block.group) g.block.members.length (max 1 g.block.width) p.tree (132 * n)
  (decide (Config.elapsed f.1 + price + collectiveCycles (groupWide g.block) ≤ workUs s.time.len * 1600), f.2)

/-- A pass of BSR16 blocks starts with the packed blocks `work`, if the packer's check passes (R295, R297). -/
def State.startBlocks (s : State) (r : Run) (g : Group) (p : Post) (work : List Bsr16) (which : List Bool) (pass : Pass) : State :=
  if work.zipIdx.all fun e => !which.getD e.2 true || packOk e.1 then
    s.startPass g { p with work := work } which pass 132 fun i => .bsr (bsrBytes (work.getD i (ownBlock [] 0 0 false)))
  else s.adderMismatch r

/-- A post's result is unpacked, and the group's next post starts; with the last of its command's posts the member arrives at the
completion barrier (R301, R306, R307). -/
def State.finishPost (s : State) (r : Run) (g : Group) (p : Post) (vals : List Num) (n : Nat) : State :=
  (((s.unpack r p vals n).setPost { p with pass := .done }).beginNextPost g).arriveComplete r.id

/-- The exponents are agreed: the member's blocks are packed and the data pass starts (R294, R295, R305). -/
def State.endExponents (s : State) (r : Run) (g : Group) (p : Post) : State :=
  let agreed (i esc : Nat) : BitVec 8 :=
    let x := p.emax.getD i (-127, false)
    agreedExp x.1 x.2 g.block.headroom esc
  let kept := p.vals.zipIdx.map fun e => e.1.map (packMant (agreed e.2 0))
  let work := (List.range p.blocks).map fun i =>
    let esc := look 0 g.escs (escKey r.id p.no i)
    ownBlock (kept.getD i []) (agreed i esc) esc (p.emax.getD i (-127, false)).2
  s.startBlocks r g { p with kept := kept } work [] .data

/-- A data pass is over: blocks that are final, checked and unflagged are unpacked, and flagged ones run again one escalation higher
if that ends in time; if not, they wait as they are for the manager's ABORT (R297, R303, R305, R306). -/
def State.endBlocks (s : State) (r : Run) (g : Group) (p : Post) : State :=
  if p.work.any fun b => decide (b.contrib ≠ g.block.members.length % 256) || !arrivalOk b b.exp b.esc then s.mismatch p
  else
    let flagged := p.work.map (·.ovf)
    if flagged.any id then
      let work := p.work.zipIdx.map fun e =>
        if e.1.ovf then
          let x := p.emax.getD e.2 (-127, false)
          ownBlock (p.kept.getD e.2 []) (agreedExp x.1 x.2 g.block.headroom (e.1.esc + 1)) (e.1.esc + 1) x.2
        else e.1
      let x := s.escalationFits g p (flagged.filter id).length
      if x.1 then x.2.startBlocks r g p work flagged .escalation
      else x.2.setPost { p with work := work, pass := .escalation, total := flagged.map (!·) }
    else s.finishPost r g p (finalValues p 0 false).flatten 64

/-- REDUCTION_PASS_END (R294, R303, R306, R313): the present pass of the post that the group is reducing is over. -/
def execReductionPassEnd (group : Nat) (s : State) : Host.Outcome State Fault Refusal :=
  .next (match s.activePost group with
  | none => s
  | some p =>
    match s.findRun p.run with
    | none => s
    | some r =>
      match s.group (ownerNum r.hdr.owner) group with
      | none => s
      | some g =>
        let gsize := g.block.members.length
        if r.mismatch || decide (r.stop ≠ none) then s
        else if g.block.format = 1 then
          if (List.range p.blocks).all fun i => (List.range gsize).all fun rk => p.e1.any fun e => e.1 == i && e.2.1 == rk then
            s.finishPost r g p (finalValues p gsize true).flatten 256
          else s
        else if !(p.total.all id) then s
        else if p.pass = .exponent then (if gsize ≤ p.shapes.length + 1 then s.endExponents r g p else s)
        else s.endBlocks r g p)

end Sys2Proof.Machine
end

