-- ==== Sys2Proof/Machine/Price.lean ====
section
/-! DEFINITION. What firmware charges for a primitive, in bolt cycles (R234): matrix work (R90 to R101),
the rail engine (R120 to R125, R132), and the other units. -/
namespace Sys2Proof.Machine
open Sys2Proof

/-- INT8 pairs only with INT8 (R66). -/
def pairOk (p q : Nat) : Bool := decide ((p = 9) ↔ (q = 9))

/-- Units on an array, R of R92. -/
def unitsPerArray (w a n : Nat) : Nat := ceilDiv (ceilDiv n w * foldBands a (ceilDiv n w)) a

/-- Rows of a band, Mb of R92. -/
def bandRows (w a m n : Nat) : Nat := ceilDiv m (foldBands a (ceilDiv n w))

/-- C of R92 for a plain or convolution instruction on `a` warm arrays. -/
def plainCycles (mode : ArrayMode) (a m n k : Nat) : Nat :=
  let w := modeWidth mode
  unitsPerArray w a n * ceilDiv k 128 * max (bandRows w a m n) 32 + 48

/-- Tally entries that a holding instruction keeps on each array (R86). -/
def heldEntries (mode : ArrayMode) (a m n : Nat) : Nat :=
  let w := modeWidth mode
  unitsPerArray w a n * bandRows w a m n * w

/-- C of R101. -/
def backwardCycles (mode : ArrayMode) (a m n k : Nat) (mask : BitVec 32) : Nat :=
  let p := if mode = .bf16 then 256 else 128
  let tile := ceilDiv m 128 * ceilDiv n 128 * p
  maxOf ((List.range a).map fun i =>
    sumOf ((dealOrder mask k).zipIdx.map fun e => if e.2 % a = i then (if mask.getLsbD e.1 then 2 * tile else tile) else 0)) + 48

/-- The cold term of R97 on `a` arrays. -/
def coldCycles (a : Nat) : Nat := 12 + 8 * (a - 1)

/-! ### Rail engine -/

/-- MAC lanes of the rail engine (R120). -/
def railLanes : ArrayMode → Nat
  | .fp4 => 16384
  | .fp8 => 8192
  | .bf16 => 4096

/-- Slice widths W of stage 1 and of the shapes of R120. -/
def railWidths : ArrayMode → List Nat
  | .fp4 => [64, 128, 256, 512]
  | .fp8 => [32, 64, 128, 256]
  | .bf16 => [16, 32, 64, 128]

/-- S1: slices of stage 1 over a contraction `k` into `r` entries (R120, R124). -/
def slices1 (mode : ArrayMode) (k r : Nat) : Nat :=
  let ws := railWidths mode
  let w := (ws.find? fun w => decide (r ≤ w)).getD (maxOf ws)
  ceilDiv k (railLanes mode / w) * ceilDiv r w

/-- S2: slices of stage 2 over `r` rank positions for `n` outputs. -/
def slices2 (mode : ArrayMode) (r n : Nat) : Nat :=
  let d := (([32, 64, 128, 256] : List Nat).find? fun d => decide (r ≤ d)).getD 256
  ceilDiv r d * ceilDiv n (railLanes mode / d)

/-- c_g of R124. -/
def sliceCycles (rows : Nat) (pocketed : Bool) : Nat := max rows (if pocketed then 32 else 64)

/-- S1 and S2 of a segment's forward side path (R124): `pf` the format of P, `lf` of the layer. -/
def forwardSlices (pf lf k n rs : Nat) (reuse last : Bool) : Nat × Nat :=
  (if reuse then 0 else slices1 (modeOf pf lf) k rs, if last then slices2 (modeOf (latchFmt lf) lf) rs n else 0)

/-- Slices of a segment's four backward products (R125): `yf` the format of dY, `xf` of x. -/
def backwardSlices (yf xf lf k n rs : Nat) : Nat :=
  let t := latchFmt lf
  slices1 (modeOf yf lf) n rs + slices2 (modeOf t lf) rs k + slices2 (modeOf t yf) rs n + slices1 (modeOf xf t) k rs

/-! ### Other units -/

/-- Weight of a VECTOR function (R210). -/
def vecWeight (f : Nat) : Nat :=
  if f ≤ 0x0A then 1 else if f ≤ 0x0F then 2 else if f ≤ 0x16 then 4 else if f ≤ 0x18 then 1 else 2

/-- Cycles of one VECTOR word (R234). -/
def vecCycles (f rows cols : Nat) : Nat := vecWeight f * ceilDiv (rows * cols) 2048

/-- Cycles of a rotated hand-off or ROTATE (R189); `l` is log2 of the length. -/
def rotCycles (elems l : Nat) : Nat := ceilDiv elems 256 + l + 8

/-- Bytes of `rows` rows of `cols` elements with their block scales. -/
def tensorBytes (f rows cols : Nat) : Nat := rows * rowBytes f cols + (if isMx f then rows * (cols / 32) else 0)

/-- Bytes of a stack frame under codec 0 or 2 (R151 to R153, R159): `lens` the tokens of each row. -/
def frameBytes (f width : Nat) (lens : List Nat) : Nat :=
  128 * (ceilDiv (32 + 8 * lens.length) 128 + sumOf (lens.map fun n => ceilDiv (tensorBytes f 1 (n * width)) 128))

/-- Bytes of a frame of the rank latch: `rank` elements and one scale byte a row (R162). -/
def latchBytes (rank : Nat) (lens : List Nat) : Nat :=
  128 * (ceilDiv (32 + 8 * lens.length) 128 + sumOf (lens.map fun n => ceilDiv (n * rank + n) 128))

/-- Cycles of a PUSH or POP (R159). -/
def stackCycles (store frame : Nat) : Nat := max (ceilDiv store 256) (ceilDiv frame 128) + 32

/-- Cycles in which a barrier's release reaches bolts on these dies, at 1.6 GHz (R18, R224, R234). -/
def barrierCycles (mask : BitVec 16) : Nat :=
  let dies := ((boltsIn mask).map (· / 4)).eraseDups
  if (dies.contains 0 && dies.contains 3) || (dies.contains 1 && dies.contains 2) then 96
  else if dies.length ≤ 1 then 16 else 64

end Sys2Proof.Machine
end

