-- ==== Sys2Proof/Machine/Trace.lean ====
section
/-! DEFINITION. The trace of a command on its bolts that firmware makes at admission (R231, R234): it checks every
primitive and every pair of them, and prices the command. No primitive's data is computed: control flow and addresses are
fixed before the command runs (R201). -/
namespace Sys2Proof.Machine
open Sys2Proof

/-! ### What a trace keeps -/

/-- Where local-store bytes came from, as far as the trace knows: a hand-off with the rotation it applied, device memory,
a base image with its layer's rotation, as the image holds them or through the transposed read, or nothing known (R85, R186). -/
inductive Origin where
  | made (rot : Nat)
  | device (dva : Nat)
  | base (off rot : Nat)
  | turned (off rot : Nat)
  | unknown
deriving DecidableEq, Repr

/-- Local-store bytes that one primitive of the trace wrote. -/
structure Region where
  addr : Nat
  len : Nat
  origin : Origin
deriving DecidableEq, Repr

/-- Unit keys of the trace: arrays 0 to 3, then the others. -/
def keyRail : Nat := 4
def keyVector : Nat := 5
def keyRotation : Nat := 6
def keyStreamer : Nat := 7
def keyStack : Nat := 8
def keySeam : Nat := 9

/-- Queue depth by unit key (R221). -/
def keyDepth (k : Nat) : Nat :=
  if k < 5 then 2 else if k = keyVector then 4 else if k = keyRotation then 2 else if k = keyStreamer then 8 else 4

/-- An earlier primitive that a later one must be guarded from (R222). -/
structure Earlier where
  units : List Nat
  seq : Nat
  flags : List Nat
  reads : List (Nat × Nat)
  writes : List (Nat × Nat)
deriving DecidableEq, Repr

/-- One increment of a flag: its primitive and when it comes. -/
structure Inc where
  flag : Nat
  units : List Nat
  seq : Nat
  time : Nat
deriving DecidableEq, Repr

/-- What a RAIL-bearing instruction left for REUSE (R123). -/
structure SideKey where
  ps : List (Nat × Nat)
  rows : List (Option (Nat × RowEntry))
  layer : Nat
deriving DecidableEq, Repr

/-- A primitive of the trace, as the halves of a command are told apart (R164, R165): its MATRIX mask, whether it is of the
backward form, the stack lane it uses, the array mask whose rank latch it moves, its bytes, and its busy cycles on the
shared units. -/
structure TracePrim where
  seq : Nat
  mask : Option Nat
  back : Bool
  lane : Option Nat
  latch : Option Nat
  reads : List (Nat × Nat)
  writes : List (Nat × Nat)
  busy : List (Nat × Nat)
deriving DecidableEq, Repr

/-- A segment's claim (R115, R127): patch, layer or darned slot, rows. -/
structure Claim where
  patch : Nat
  layer : Nat
deriving DecidableEq, Repr

/-- The trace of a command on one bolt. `t` is the cycle in which the next word issues; `last` the latest completion. -/
structure Tr where
  b : Bolt
  t : Nat := 0
  n : Nat := 0
  last : Nat := 0
  free : Sparse Nat := []
  out : List (Nat × Nat) := []
  used : List Nat := []
  wrote : Sparse (List (Nat × Nat)) := []
  incs : List Inc := []
  subs : Sparse Nat := []
  live : List Earlier := []
  stage1End : Nat := 0
  latchEnd : Nat := 0
  latchBusy : Nat := 0
  regions : List Region := []
  kinds : List (Nat × Nat) := []
  stats : List Nat := []
  /-- tags of hand-offs whose records may hold a histogram (R191, R192) -/
  hists : List Nat := []
  /-- channels of each tag's tensor, the widest (R190) -/
  chans : Sparse Nat := []
  held : List (Nat × Nat × Nat × ArrayMode × Nat) := []
  side : Option SideKey := none
  /-- the last forward RAIL-bearing instruction, which left the rank latch (R162) -/
  latchSide : Option SideKey := none
  /-- when the last instruction on each array has completed (R93) -/
  doneAt : Sparse Nat := []
  /-- primitives that take no time: the other half's, where one half is priced alone (R165) -/
  mute : List Nat := []
  /-- the primitives so far, newest first -/
  prims : List TracePrim := []
  /-- the array mask of the last RAIL-bearing instruction -/
  sideMask : Option Nat := none
  /-- a VECTOR chain that gathers: cycles, bytes read, first issue, flags of its words -/
  chain : Option (Nat × List (Nat × Nat) × Nat × List Nat) := none
  stores : Nat := 0
  bars : List (Nat × BitVec 16) := []
  atBar : Option (Nat × BitVec 16) := none
  done : Bool := false
  bad : Option (Status × Nat) := none
  /-- the address that a fault of 0x10 or 0x11 names (R394) -/
  badAddr : Nat := 0
  firstRow : Option Nat := none
  claims : List Claim := []
  patches : List Nat := []
  gradPatches : List Nat := []
  /-- a row map of the command names a row with PV = 1 (R184) -/
  tenants : Bool := false
  /-- patches that REDUCE OP 0 words post -/
  posted : List Nat := []
  /-- OP 1 posts to E1 groups: group, tag, bytes of error memory -/
  e1Posts : List (Nat × Nat × Nat) := []
  /-- cycles at which the bolt arrives at BARRIER OP 1 words -/
  collAt : List Nat := []
  lanes : List Nat := []
  groups : List Nat := []
  spans : Bool := false
  reads : List Nat := []
  writes : List Nat := []
  hostLines : List Nat := []
  hostBytes : Nat := 0
  windows : List Nat := []
  /-- when the last pass of the bolt's posts to each group ends (R301) -/
  seamWait : Sparse Nat := []
  /-- posts: group, post cycle, cycles of its passes at 1.6 GHz (R301) -/
  posts : List (Nat × Nat × Nat) := []
deriving DecidableEq, Repr

/-- What a trace reads of the machine: the sleeve, the command, and which claims have pockets in the stitch weighed. -/
structure TraceEnv where
  v : Sleeve
  r : Run
  bno : Nat
  pocketed : List Claim
deriving DecidableEq, Repr

/-- Stop the trace with a status at the word that fails; the first failure stands. -/
def Tr.fail (x : Tr) (st : Status) : Tr := if x.bad = none then { x with bad := some (st, x.b.pc) } else x

/-- Fail unless a check holds. -/
def Tr.check (x : Tr) (ok : Bool) (st : Status) : Tr := if ok then x else x.fail st

/-! ### Bytes -/

/-- The newest region that holds an address. -/
def Tr.regionAt (x : Tr) (a : Nat) : Option Region := x.regions.find? fun g => decide (g.addr ≤ a ∧ a < g.addr + g.len)

/-- A local-store byte as admission knows it: through a LOAD of the trace to committed memory or the base, else as the
store stands; a byte that another primitive writes reads 0. -/
def State.traceByte (s : State) (e : TraceEnv) (x : Tr) (a : Nat) : Byte :=
  match x.regionAt a with
  | none => memGet x.b.mem a
  | some g => match g.origin with
    | .device d => memGet e.v.mem (d + (a - g.addr))
    | .base o _ => match s.slotOf e.r.base with | some n => memGet (s.slot n).mem (o + (a - g.addr)) | none => 0
    | _ => 0

/-- A row map as admission knows it (R115). -/
def State.traceMap (s : State) (e : TraceEnv) (x : Tr) (a : Nat) : Nat → List RowEntry
  | 0 => []
  | f + 1 =>
    let m : Mem := memWrite [] 0 ((List.range 8).map fun i => s.traceByte e x (a + i))
    let y := rowEntry m 0 0
    if y.len = 0 then [] else y :: s.traceMap e x (a + 8) f

/-- Whether a byte address lies on a block boundary of an MX cursor (R202); every address does for a plain format. -/
def View.onBlock (v : View) (a : Nat) : Bool := !isMx v.fmt || decide (((a : Int) - v.base) % (blockBytes v.fmt : Int) = 0)

/-- Whether bytes lie in the local store, read or written through a cursor of SPACE 0, with MX rows whole blocks long and on
block boundaries (R59, R202, R204). -/
def operandOk (v : View) (es : List (Nat × Nat)) (cols : Nat) : Bool :=
  decide (v.space = 0) && (outside es).isNone && v.onBlock v.addr &&
    (!isMx v.fmt || decide (cols % 32 = 0 ∧ v.pitch % blockBytes v.fmt = 0))

/-- The row map of a RAIL, STACK or REDUCE word lies in the local store, read through a cursor of SPACE 0 (R115, R204). -/
def mapOk (v : View) (n : Nat) : Bool := decide (v.space = 0) && (outside [(v.addr, 8 * n)]).isNone

/-! ### Issue and timing (R221) -/

/-- The first cycle from `t` at which every unit has room. -/
def Tr.roomAt (x : Tr) (units : List Nat) : Nat :=
  maxOf (x.t :: units.map fun u =>
    let ends := sorted (fun a b => decide (b ≤ a)) ((x.out.filter fun o => o.1 == u).map (·.2))
    ends.getD (keyDepth u - 1) 0)

/-- When a unit is free. -/
def Tr.freeAt (x : Tr) (u : Nat) : Nat := look 0 x.free u

/-- Increments of a flag issued so far. -/
def Tr.incsOf (x : Tr) (f : Nat) : List Inc := x.incs.filter fun i => i.flag == f

/-- Flags are added to at `done` by a primitive on `units`; a flag's count stays within 16 bits (R231). -/
def Tr.addIncs (x : Tr) (units : List Nat) (done : Nat) (flags : List Nat) : Tr :=
  flags.foldl (fun (x : Tr) f =>
    ({ x with incs := ⟨f, units, x.n, done⟩ :: x.incs } : Tr).check
      (decide ((x.incsOf f).length + 1 - look 0 x.subs f ≤ 65535)) 0x75) x

/-- A primitive is counted against the limit of R231. -/
def Tr.count (x : Tr) : Tr := { x.check (decide (x.n < 1048576)) 0x75 with n := x.n + 1 }

/-- A primitive whose issue and timing are known: the flags it adds to when it completes at `done`, the units it runs on,
those whose queues hold it until then, when each unit is free of it, its busy cycles on shared units, its bytes, and what
tells its half (R164). -/
structure Job where
  flags : List Nat
  units : List Nat
  queues : List Nat
  issue : Nat
  done : Nat
  free : List (Nat × Nat)
  busy : List (Nat × Nat)
  reads : List (Nat × Nat)
  writes : List (Nat × Nat)
  mask : Option Nat := none
  back : Bool := false
  lane : Option Nat := none
  latch : Option Nat := none
deriving DecidableEq, Repr

/-- A primitive on one unit that is busy until `done`. -/
def Job.one (u : Nat) (flags : List Nat) (issue done cyc : Nat) (reads writes : List (Nat × Nat)) : Job :=
  ⟨flags, [u], [u], issue, done, [(u, done)], [(u, cyc)], reads, writes, none, false, none, none⟩

/-- Whether the next primitive takes no time. -/
def Tr.muted (x : Tr) : Bool := x.mute.contains x.n

/-- A primitive joins the trace: it must be guarded from every earlier primitive that meets its bytes on another unit (R222),
and it adds to its flags when it completes. A muted one issues and completes at once. -/
def Tr.join (x : Tr) (j : Job) : Tr :=
  let clash := x.live.any fun p =>
    !(p.units.any j.units.contains) && (anyMeet p.writes j.reads || anyMeet p.reads j.writes || anyMeet p.writes j.writes)
  let m := x.muted
  let done := if m then x.t else j.done
  ((({ x with
    t := if m then x.t else j.issue + 1, last := if m then x.last else max x.last done
    free := if m then x.free else j.free.foldl (fun f u => put 0 f u.1 (max (look 0 f u.1) u.2)) x.free
    out := if m then x.out else j.queues.map (fun u => (u, done)) ++ x.out.filter fun o => decide (j.issue < o.2)
    prims := ⟨x.n, j.mask, j.back, j.lane, j.latch, j.reads, j.writes, j.busy⟩ :: x.prims
    live := ⟨j.units, x.n, j.flags, j.reads, j.writes⟩ :: x.live } : Tr).check (!clash) 0x75).addIncs j.units done j.flags).count

/-- Move issue past the word that ends at `a`. -/
def Tr.pass (x : Tr) (a : Nat) : Tr := { x with b := x.b.after a }

/-- The word completes at cycle `t` in the sequencer, and its flag is added to at once (R221). -/
def Tr.hereAt (x : Tr) (w : PWord) (t : Nat) : Tr := ({ x with t := t }.addIncs [100] t (flagsOf [w])).count

/-- The word completes in its issue cycle. -/
def Tr.here (x : Tr) (w : PWord) : Tr := x.hereAt w (x.t + 1)

/-! ### Hand-offs (R177, R184 to R187) -/

/-- No 128-byte line of an output holds two rows: every row starts on a line and the next one lies whole lines further, past
the row's end (R117). -/
def linesApart (v : View) (f rows cols : Nat) : Bool :=
  let pitch := if v.pitch = 0 then rowBytes f cols else v.pitch
  decide (v.addr % 128 = 0) && (decide (rows ≤ 1) || decide (pitch % 128 = 0 ∧ rowBytes f cols ≤ pitch))

/-- A tag's kind and channels join what the command hands off; one tag has one kind (R177, R192). -/
def Tr.tagged (x : Tr) (tag kind channels : Nat) : Tr :=
  { x.check ((x.kinds.find? fun k => k.1 == tag).all fun k => k.2 == kind) 0x75 with
    kinds := if x.kinds.any fun k => k.1 == tag then x.kinds else (tag, kind) :: x.kinds
    chans := insert (drop x.chans tag) tag (max channels (look 0 x.chans tag)) }

/-- The checks of a hand-off of rows `idx` of `cols` elements under a tag and kind, and what it makes known: its tag's
format, and its bytes with their rotation. DESIGN CHOICE (log entry 114): a ROTATE whose recipe rotates too leaves the recipe's
length. -/
def State.traceHand (s : State) (e : TraceEnv) (x : Tr) (v : View) (tag kind : Nat) (idx : List Nat) (cols : Nat) (consEn : Bool) (consS : Nat)
    (exempt : Bool) (extra : Nat) : Tr × List (Nat × Nat) × Nat :=
  let rcp := e.r.recipe kind
  let f := rcp.format
  let vf := { v with fmt := f }
  let es := vf.rowsAt f idx cols
  let rot := if exempt then 0 else s.rotationOf e.r x.b rcp consEn consS
  let layer := (x.b.scalar consS).toNat % 65536
  let consOk := exempt || decide (rcp.rot ≠ 15) || (consEn && (s.layerOf e.r.base layer).isSome)
  let rotOk := decide (rot = 0 ∨ (rot ≤ 12 ∧ cols % 2 ^ rot = 0))
  let made := if rot = 0 then extra else rot
  let x1 := ((((x.check (decide (v.ownFmt ≠ 10)) 0x75).check (operandOk vf es cols) 0x75).check (consOk && rotOk) 0x75).check
    (linesApart vf f idx.length cols) 0x33).tagged tag kind cols
  ({ x1 with
    hists := tag :: x1.hists
    regions := es.map (fun r => ⟨r.1, r.2, .made made⟩) ++ x.regions
    b := { x.b with tagInfo := ⟨tag, f, 0, made, kind⟩ :: x.b.tagInfo.filter fun t => t.tag != tag } }, es, rot)

/-- The origins of byte ranges, each byte's newest. -/
def originsOf : List Region → List (Nat × Nat) → List Origin
  | [], es => if es.isEmpty then [] else [.unknown]
  | g :: gs, es =>
    if es.any (meets (g.addr, g.len)) then g.origin :: originsOf gs (es.flatMap fun e => cutRange e (g.addr, g.len))
    else originsOf gs es

/-- The bytes of an operand's elements, its block scales left out. -/
def View.elements (v : View) (rows cols : Nat) : List (Nat × Nat) :=
  (List.range rows).map fun i => (v.row (rowBytes v.fmt cols) i, rowBytes v.fmt cols)

/-- The rotations of an operand along a product's contraction that the trace knows (R186): `inner` says that the operand lies
with its contraction innermost; a base image's layer is rotated along K, the contraction of forward forms. -/
def Tr.knownRots (x : Tr) (es : List (Nat × Nat)) (inner forward : Bool) : List Nat :=
  (originsOf x.regions es).filterMap fun o => match o with
    | .made r => some (if inner then r else 0)
    | .base _ r => some (if forward then r else 0)
    | .turned _ r => some (if forward then r else 0)
    | _ => none

/-- Two operands agree in rotation wherever both are known. -/
def rotAgree (as bs : List Nat) : Bool := as.all fun a => bs.all fun b => a == b

/-- Whether MX bytes of the base image lie with their blocks along the contraction (R85): the layer's K rows of N have them
along N, the contraction of backward, and the transposed read along K, that of forward. -/
def Tr.blocksAlong (x : Tr) (v : View) (es : List (Nat × Nat)) (forward : Bool) : Bool :=
  !isMx v.fmt || (originsOf x.regions es).all fun o => match o with
    | .base _ _ => !forward
    | .turned _ _ => forward
    | _ => true

/-! ### Segments of a side path (R115, R124 to R127) -/

/-- Segments of an instruction's rows: runs of consecutive rows that name one patch, with their numbers of rows. -/
def segments : List (Option (Nat × RowEntry)) → List (Option Nat × Nat)
  | [] => []
  | row :: rest =>
    let p := match row with | some (_, y) => if y.pv then some y.patch else none | none => none
    match segments rest with
    | (q, n) :: more => if p = q then (q, n + 1) :: more else (p, 1) :: (q, n) :: more
    | [] => [(p, 1)]

/-- The segments that run a side path: the claim, the rows and the factors' place. -/
def State.sideSegments (s : State) (rows : List (Option (Nat × RowEntry))) (layer : Nat) :
    List (Claim × Nat × FactorPlace) :=
  (segments rows).filterMap fun g => g.1.bind fun h => (s.patch h).bind fun p =>
    (s.placeOf p layer).map fun f => (⟨h, layer⟩, g.2, f)

/-- The segments of an instruction that run from a darned copy, with their rows; and the rows that run from the base (R135). -/
def State.darnSegments (s : State) (rows : List (Option (Nat × RowEntry))) (layer : Nat) (sel : Option Nat) :
    List (Nat × DarnPlace) :=
  (segments rows).filterMap fun g => g.1.bind fun h => (s.patch h).bind fun p => (s.darnOf p layer sel).map fun d => (g.2, d)

/-- The offset in the base image of the byte at a store address, as the trace knows it. -/
def Tr.baseAt (x : Tr) (a : Nat) : Option Nat :=
  (x.regionAt a).bind fun g => match g.origin with
    | .base o _ => some (o + (a - g.addr))
    | .turned o _ => some o
    | _ => none

/-- The extra-expert slot that a RAIL-bearing MATRIX selects (R136). -/
def State.traceSlot (s : State) (e : TraceEnv) (x : Tr) (layer q : Nat) : Option Nat :=
  s.slotSel e.r.base layer (x.baseAt (x.b.view q).addr)

/-- Cycles of an instruction of `m` rows whose darned segments run as instructions of their own (R135): `cost` by rows. -/
def darnedCycles (gs : List (Nat × DarnPlace)) (m : Nat) (cost : Nat → Nat) : Nat :=
  let rest := m - sumOf (gs.map (·.1))
  (if rest = 0 ∧ gs ≠ [] then 0 else cost rest) + sumOf (gs.map fun g => cost g.1)

/-- Cycles from a rail part's start to the end of its stage 1, and to its end (R124, R223): `cost` gives S1 and S2. -/
def railCycles (pocketed : List Claim) (gs : List (Claim × Nat × FactorPlace)) (cost : FactorPlace → Nat × Nat) : Nat × Nat :=
  let c := gs.map fun g =>
    let cg := sliceCycles g.2.1 (pocketed.contains g.1)
    ((cost g.2.2).1 * cg, (cost g.2.2).2 * cg)
  (sumOf (c.map (·.1)), sumOf (c.map (·.1)) + sumOf (c.map (·.2)) + 64)

/-! ### Words -/

/-- The operand checks of a VECTOR word's reads: every tensor it names lies in the local store. -/
def vecOperandsOk (b : Bolt) (v : VectorWord) : Bool :=
  let one (c rows cols : Nat) : Bool := let w := b.view c; operandOk w (w.extents w.fmt rows cols) cols
  (v.aT || one v.a v.rows v.cols) &&
  (!vecUsesB v.func || match v.bMode with
    | 0 => one v.b v.rows v.cols
    | 1 => let w := b.view v.b; decide (w.space = 0) && (outside (columnExtents w v.rows)).isNone && w.onBlock w.addr &&
        (!isMx w.fmt || decide (w.pitch = 0 ∧ v.rows % 32 = 0))
    | 2 => one v.b 1 v.cols
    | _ => true) &&
  (decide (v.func ≠ 4) || one v.c v.rows v.cols)

/-- The common part of a MATRIX word's trace (R234, R235): `cyc` its warm cycles, `reads` and `writes` its local-store
bytes, `rail` its rail part from a start to the ends of stage 1 and of the part, `epi` its epilogue's words, `rots` the busy
cycles of its rotated hand-offs. DESIGN CHOICE (log entry 114): an epilogue, which is no primitive of its own, keeps the vector
unit busy and takes no place in its queue. DESIGN CHOICE (log entry 90): a mask of busy and idle arrays pays the full C of R93, and one
cold array of a mask makes the whole mask cold (R97). -/
def Tr.matrix (x : Tr) (w : PWord) (lastAddr cyc : Nat) (cont : Bool) (reads writes : List (Nat × Nat))
    (rail : Option (Nat × Nat)) (epi : List (PWord × VectorWord)) (rots : Nat) (usesLatch : Bool) : Tr :=
  let mw := matrixWord w
  let arrays := arraysIn mw.mask
  let units := if rail.isSome then keyRail :: arrays else arrays
  let epiCyc := sumOf (epi.map fun v => vecCycles v.2.func v.2.rows v.2.cols)
  let issue := x.roomAt units
  let after := arrays.filter fun a => anyMeet (look [] x.wrote a) reads
  let start := maxOf (issue :: arrays.map x.freeAt ++ after.map (look 0 x.doneAt))
  let queued := arrays.all fun a => decide (issue < x.freeAt a)
  let dependent := after ≠ []
  let cold := arrays.any fun a => !x.used.contains a || decide (x.freeAt a + 48 ≤ issue)
  let c := (if cont || (queued && !dependent) then cyc - 48 else cyc) + (if cold then coldCycles arrays.length else 0)
  let railStart := maxOf [issue, x.freeAt keyRail, if usesLatch then x.latchBusy else 0]
  let railDone := match rail with | some r => railStart + r.2 | none => 0
  let epiDone := if epi = [] then 0 else max start (x.freeAt keyVector) + epiCyc
  let rotDone := if rots = 0 then 0 else max start (x.freeAt keyRotation) + rots
  let done := maxOf [start + c, railDone, epiDone, rotDone]
  let flags := flagsOf (w :: x.b.rail.toList ++ epi.map (·.1))
  let m := x.muted
  let x1 := x.join {
    flags := flags, units := arrays, queues := units, issue := issue, done := done
    free := arrays.map (fun a => (a, start + c)) ++ [(keyRail, railDone), (keyVector, epiDone), (keyRotation, rotDone)]
    busy := [(keyRail, match rail with | some r => r.2 | none => 0), (keyVector, epiCyc), (keyRotation, rots)]
    reads := reads, writes := writes, mask := some mw.mask, back := (wordHdr w).op == 1 }
  let x2 := { x1 with
    used := arrays ++ x1.used
    wrote := arrays.foldl (fun f a => put [] f a writes) x1.wrote
    doneAt := if m then x1.doneAt else arrays.foldl (fun f a => put 0 f a done) x1.doneAt
    firstRow := if x1.firstRow = none && !m then some start else x1.firstRow
    b := { x1.b with rail := none } }
  let x3 := match rail with
    | none => x2
    | some r => if m then x2 else
        { x2 with stage1End := railStart + r.1, latchEnd := railDone, sideMask := some mw.mask }
  x3.pass lastAddr

/-- The rotation unit's cycles for a hand-off of `elems` elements rotated at log2 length `l`, 0 for none (R189). -/
def rotBusy (elems l : Nat) : Nat := if l = 0 then 0 else rotCycles elems l

/-- What a RAIL gives the trace of its MATRIX: the word, the row-map rows of the instruction, the bytes of the map that it
reads, and whether the map names a tenant's row. -/
structure RailTrace where
  word : RailWord
  rows : List (Option (Nat × RowEntry))
  map : List (Nat × Nat)
  ok : Bool
  reserved : Bool
  tenants : Bool
deriving DecidableEq, Repr

/-- The RAIL that waits for a MATRIX of `m` rows. -/
def State.railTrace (s : State) (e : TraceEnv) (x : Tr) (m : Nat) : Option RailTrace :=
  x.b.rail.map fun w =>
    let k := railWord w
    let v := x.b.view k.mapCur
    let map := s.traceMap e x v.addr 65536
    let rows := rowsFor map (tokenOf x.b k) m
    ⟨k, rows, [(v.addr, 8 * map.length)], mapOk v map.length, mapReserved map, anyPatch map⟩

/-- What a RAIL-bearing MATRIX leaves in the trace: claims, patches named, and tenant rows; a backward one (`grads`) writes the
regions of the trained patches whose factors it uses, and with a weight-gradient pass (`dw`) of those whose darned copy it
runs from (R167, R168). -/
def State.traceRail (s : State) (x : Tr) (rt : Option RailTrace) (sel : Option Nat) (grads dw : Bool) : Tr :=
  match rt with
  | none => x
  | some t =>
    let gs := s.sideSegments t.rows t.word.layer
    let named := t.rows.filterMap fun r => r.bind fun y => if y.2.pv then some y.2.patch else none
    let trained := named.filter fun h => match s.patch h with
      | some p => p.train && ((s.placeOf p t.word.layer).isSome || (dw && (s.darnOf p t.word.layer sel).isSome))
      | none => false
    { (x.check t.ok 0x75).check (!t.reserved) 0x72 with
      b := { x.b with ran := (named ++ x.b.ran).eraseDups }
      claims := gs.map (·.1) ++ x.claims, patches := named ++ x.patches, tenants := x.tenants || t.tenants
      gradPatches := if grads then trained ++ x.gradPatches else x.gradPatches }

/-- Plain and convolution MATRIX words: `pe` the bytes of P, `pElems` those of its elements, `ok` the checks of its form,
`lastAddr` the word's end. -/
def State.traceForward (s : State) (e : TraceEnv) (x : Tr) (w : PWord) (lastAddr : Nat) (pe pElems : List (Nat × Nat))
    (ok : Bool) : Tr :=
  let mw := matrixWord w
  let b := x.b
  let vp := b.view mw.p
  let vq := b.view mw.q
  let vo := b.view mw.out
  let mode := modeOf vp.fmt vq.fmt
  let a := (arraysIn mw.mask).length
  let qe := qExtents vq mw.k mw.n
  let qElems := if isMx vq.fmt then vq.elements mw.n mw.k else vq.elements mw.k mw.n
  let mx := isMx vp.fmt || isMx vq.fmt
  let heldNow := x.held.find? fun h => h.1 == mw.mask
  let same := heldNow = some (mw.mask, mw.m, mw.n, mode, vo.addr)
  let overlapHeld := x.held.any fun h => h.1 != mw.mask && decide ((h.1 &&& mw.mask) ≠ 0)
  let rt := s.railTrace e x mw.m
  let layer := match rt with | some t => t.word.layer | none => 0
  let rows := match rt with | some t => t.rows | none => []
  let gs := if rt.isSome then s.sideSegments rows layer else []
  let sel := s.traceSlot e x layer mw.q
  let ds := if rt.isSome then s.darnSegments rows layer sel else []
  let reuse := match rt with | some t => t.word.reuse | none => false
  let railPairs := (reuse || gs.all fun g => pairOk vp.fmt g.2.2.fmt) && ds.all fun d => pairOk vp.fmt d.2.fmt
  let shapes := ok && pairOk vp.fmt vq.fmt && railPairs && decide (vp.space = 0 ∧ vq.space = 0) &&
    operandOk vq qe (if isMx vq.fmt then mw.k else mw.n) && (!mx || decide (mw.k % 32 = 0)) && !overlapHeld &&
    (if mw.cont then decide same else heldNow.isNone) &&
    (!mw.hold || decide (heldEntries mode a mw.m mw.n ≤ 262144 ∧ mw.k % 32 = 0)) && x.blocksAlong vq qElems true &&
    rotAgree (x.knownRots pElems true true) (x.knownRots qElems (isMx vq.fmt) true)
  let x0 := x.check shapes 0x75
  let rest := x0.held.filter fun h => h.1 != mw.mask
  let x1 := { x0 with held := if mw.hold then (mw.mask, mw.m, mw.n, mode, vo.addr) :: rest else rest }
  let key : Option SideKey := rt.map fun t => ⟨pe, t.rows, t.word.layer⟩
  let lf := s.layerFmt e.r.base layer
  let railPart := rt.map fun _ => railCycles e.pocketed gs fun f => forwardSlices vp.fmt lf mw.k mw.n f.rs reuse (!mw.hold)
  let x2 := s.traceRail (x1.check (!reuse || decide (x.side = key)) 0x75) rt sel false false
  let x3 : Tr := if rt.isSome then { x2 with side := key, latchSide := key } else x2
  let cyc := darnedCycles ds mw.m fun m => plainCycles mode a m mw.n mw.k
  let reads := pe ++ qe ++ (match rt with | some t => t.map | none => [])
  if mw.hold then x3.matrix w lastAddr cyc mw.cont reads [] railPart [] 0 (!reuse)
  else
    let ep := epilogueOf b mw.epi mw.m mw.n
    let h := s.traceHand e x3 vo mw.tag mw.kind (List.range mw.m) mw.n mw.consEn mw.consS false 0
    (h.1.check (ep.all fun v => vecOperandsOk b v.2) 0x75).matrix w lastAddr cyc mw.cont (reads ++ epilogueReads b ep) h.2.1
      railPart ep (rotBusy (mw.m * mw.n) h.2.2) (!reuse)

/-- MATRIX OP 0. -/
def State.tracePlain (s : State) (e : TraceEnv) (x : Tr) (w : PWord) : Tr :=
  let mw := matrixWord w
  let vp := x.b.view mw.p
  let pe := vp.extents vp.fmt mw.m mw.k
  s.traceForward e x w x.b.pc pe (vp.elements mw.m mw.k) (operandOk vp pe mw.k && decide (mw.k ≤ 4096))

/-- One dimension of a convolution within the ranges of R104. DESIGN CHOICE (log entry 90): the low-side padding, which has a
field, is held to the range; the high-side padding that OUT_EXT and IN_EXT imply is not. -/
def dimOk (d : ConvDim) : Bool := decide (1 ≤ d.ks ∧ d.ks ≤ 7 ∧ d.p ≤ (d.ks - 1) * d.d)

/-- MATRIX OP 2 (R104, R208). -/
def State.traceConv (s : State) (e : TraceEnv) (x : Tr) (w : PWord) : Tr :=
  let mw := matrixWord w
  let ex := extConv (wordAt x.b.pattern (x.b.pc + 1))
  let vp := x.b.view mw.p
  let vol := ex.z.ks * ex.y.ks * ex.x.ks
  let pe := convExtents x.b mw.p mw.m mw.k ex
  let c := convChannels ex mw.k
  let segs := (List.range mw.m).flatMap fun o => (List.range vol).filterMap fun kk => convSegment x.b (x.b.cursor mw.p) ex o kk
  s.traceForward e x w (x.b.pc + 1) pe (segs.map fun a => (a, rowBytes vp.fmt c)) (dimOk ex.z && dimOk ex.y && dimOk ex.x &&
    decide (ex.z.outExt * ex.y.outExt * ex.x.outExt = mw.m ∧ mw.k % vol = 0) && (outside pe).isNone &&
    decide (vp.space = 0) && (!isMx vp.fmt || decide (c % 32 = 0)) && segs.all vp.onBlock)

/-- MATRIX OP 1 (R99 to R102). -/
def State.traceBackward (s : State) (e : TraceEnv) (x : Tr) (w : PWord) : Tr :=
  let mw := matrixWord w
  let b := x.b
  let ext := extBackward (wordAt b.pattern (b.pc + 1))
  let mask := b.scalar ext.maskS
  let vy := b.view mw.p
  let vq := b.view mw.q
  let vo := b.view mw.out
  let vx := b.view ext.x
  let vw := b.view ext.dw
  let a := (arraysIn mw.mask).length
  let ye := vy.extents vy.fmt mw.m mw.n
  let qe := qExtents vq mw.n mw.k
  let qElems := if isMx vq.fmt then vq.elements mw.k mw.n else vq.elements mw.n mw.k
  let tr := trainedRows mask mw.k
  let xe := vx.rowsAt vx.fmt tr mw.m
  let xElems := tr.map fun i => (vx.row (rowBytes vx.fmt mw.m) i, rowBytes vx.fmt mw.m)
  let dwPass := decide (mask ≠ 0)
  let mode := if dwPass then widerMode (modeOf vy.fmt vq.fmt) (operandMode vx.fmt) else modeOf vy.fmt vq.fmt
  let mx := isMx vq.fmt || (dwPass && isMx vx.fmt)
  let yElems := vy.elements mw.m mw.n
  let rt := s.railTrace e x mw.m
  let layer := match rt with | some t => t.word.layer | none => 0
  let gs := match rt with | some t => s.sideSegments t.rows layer | none => []
  let sel := s.traceSlot e x layer mw.q
  let ds := match rt with | some t => s.darnSegments t.rows layer sel | none => []
  let lf := s.layerFmt e.r.base layer
  let vr := match rt with | some t => b.view t.word.x | none => vy
  let railX := if rt.isSome then vr.extents vr.fmt mw.m mw.k else []
  let railOk := (gs.all fun g => pairOk vy.fmt g.2.2.fmt && pairOk (latchFmt lf) vy.fmt && pairOk vr.fmt (latchFmt lf)) &&
    (ds.all fun d => pairOk vy.fmt d.2.fmt) && (rt.isNone || operandOk vr railX mw.k)
  let ok := decide (vy.fmt ≤ 3) && pairOk vy.fmt vq.fmt && (!dwPass || (pairOk vy.fmt vx.fmt && operandOk vx xe mw.m)) &&
    operandOk vy ye mw.n && operandOk vq qe (if isMx vq.fmt then mw.n else mw.k) && (!isMx vq.fmt || decide (mw.n % 32 = 0)) &&
    (!mx || decide (mw.k % 32 = 0)) && x.blocksAlong vq qElems false &&
    decide (mask.toNat / 2 ^ ceilDiv mw.k 128 = 0) && (!(x.held.any fun h => decide ((h.1 &&& mw.mask) ≠ 0))) &&
    rotAgree (x.knownRots yElems true false) (x.knownRots qElems (isMx vq.fmt) false) &&
    rotAgree (x.knownRots xElems true false) (x.knownRots yElems false false)
  let railReads := match rt with | some t => t.map ++ railX | none => []
  let railPart := rt.map fun _ =>
    railCycles e.pocketed gs fun f => (0, backwardSlices vy.fmt vr.fmt lf mw.k mw.n f.rs)
  let x1 := s.traceRail (x.check (ok && railOk && rt.all fun t => !t.word.reuse) 0x75) rt sel true dwPass
  let x2 := match rt with | some t => { x1.tagged t.word.gtag 3 0 with side := none } | none => x1
  let ep := epilogueOf b mw.epi mw.m mw.k
  let h := s.traceHand e x2 vo mw.tag mw.kind (List.range mw.m) mw.k mw.consEn mw.consS false 0
  let h2 := if dwPass then s.traceHand e h.1 vw ext.dwTag ext.dwKind tr mw.n mw.consEn mw.consS false 0 else (h.1, [], 0)
  (h2.1.check (ep.all fun v => vecOperandsOk b v.2) 0x75).matrix w (b.pc + 1)
    (darnedCycles ds mw.m fun m => backwardCycles mode a m mw.n mw.k mask) false
    (ye ++ qe ++ xe ++ railReads ++ epilogueReads b ep) (h.2.1 ++ h2.2.1) railPart ep
    (rotBusy (mw.m * mw.k) h.2.2 + rotBusy (tr.length * mw.n) h2.2.2) true

/-- A RAIL word waits for its MATRIX: only BRANCH words may stand between, and it issues in the MATRIX's cycle (R221, R231). -/
def Tr.rail (x : Tr) (w : PWord) : Tr :=
  { x.check (x.b.rail = none) 0x75 with b := ({ x.b with rail := some w } : Bolt).after x.b.pc }

/-- A VECTOR word (R210, R234): the words of a chain gather until its last, which issues the primitive. -/
def State.traceVector (s : State) (e : TraceEnv) (x : Tr) (w : PWord) : Tr :=
  let v := vectorWord w
  let b := x.b
  let sofar := x.chain.getD (0, [], x.t, [])
  let cyc := sofar.1 + vecCycles v.func v.rows v.cols
  let ply := decide (v.func = 0x19)
  let reads := sofar.2.1 ++ vecReads b v
  let flags := sofar.2.2.2 ++ flagsOf [w]
  let x0 := x.check (vecOperandsOk b v) 0x75
  if v.chain then ({ x0 with chain := some (cyc, reads, sofar.2.2.1, flags), t := x0.t + 1 } : Tr).pass b.pc
  else
    let vd := b.view v.d
    let red := decide (v.func = 0x17 ∨ v.func = 0x18)
    let flat := red && decide (vd.pitch = 0)
    let rows := if flat then 1 else v.rows
    let cols := if red then (if flat then v.rows else 1) else v.cols
    let vc := b.view v.c
    let pe := vc.extents 10 v.rows v.cols ++ vd.extents 10 v.rows v.cols
    let h := if ply then (({ x0 with
          regions := pe.map (fun r => ⟨r.1, r.2, .unknown⟩) ++ x0.regions } : Tr).check (decide (vc.space = 0 ∧ vd.space = 0) && (outside pe).isNone &&
          decide (vc.fmt = 10 ∧ vd.fmt = 10)) 0x75 |>.check (linesApart vc 10 v.rows v.cols && linesApart vd 10 v.rows v.cols) 0x33 |>.tagged v.tag v.kind v.cols, pe, 0)
      else s.traceHand e (x0.check (!flat || decide (v.rows ≤ 1)) 0x33) vd v.tag v.kind (List.range rows) cols v.consEn v.consS false 0
    let issue := h.1.roomAt [keyVector]
    let done := max issue (x.freeAt keyVector) + cyc
    let rb := rotBusy (rows * cols) h.2.2
    let rotDone := if rb = 0 then 0 else max (max issue (x.freeAt keyVector)) (x.freeAt keyRotation) + rb
    let end_ := max done rotDone
    (({ h.1 with chain := none } : Tr).join { Job.one keyVector flags issue end_ cyc (reads ++ if ply then pe else []) h.2.1 with
      free := [(keyVector, end_), (keyRotation, rotDone)], busy := [(keyVector, cyc), (keyRotation, rb)] }).pass b.pc

/-- ROTATE (R186, R189, R211). -/
def State.traceRotate (s : State) (e : TraceEnv) (x : Tr) (w : PWord) : Tr :=
  let k := rotateWord w
  let b := x.b
  let vs := b.view k.src
  let se := vs.extents vs.fmt k.rows k.cols
  let x0 := x.check (operandOk vs se k.cols && decide (k.cols % 2 ^ k.log2l = 0)) 0x75
  let h := s.traceHand e x0 (b.view k.dst) k.tag k.kind (List.range k.rows) k.cols k.consEn k.consS false k.log2l
  let issue := h.1.roomAt [keyRotation]
  let cyc := rotCycles (k.rows * k.cols) k.log2l + rotBusy (k.rows * k.cols) h.2.2
  (h.1.join (.one keyRotation (flagsOf [w]) issue (max issue (x.freeAt keyRotation) + cyc) cyc se h.2.1)).pass b.pc

/-- Where device bytes may be reached: every address mapped, and writable where written (R231, R248): none where all is
well, else the status and the address. A page that firmware owns, which holds patches and stack lanes, is 0x34 (R118, R247). -/
def Sleeve.spaceFault (v : Sleeve) (write : Bool) (ps : List (Nat × Nat)) : Option (Status × Nat) :=
  (ps.flatMap fun p => (linesOf p.1 p.2).map (· * 128)).findSome? fun a =>
    match v.leafAt a with
    | none => some (0x10, a)
    | some l => if l.owner = 16 then some (0x34, a) else if write && !l.w then some (0x11, a) else none

/-- The granules of a byte range (R245). -/
def granules (a n : Nat) : List Nat := if n = 0 then [] else (List.range ((a + n - 1) / 65536 + 1 - a / 65536)).map (a / 65536 + ·)

/-- Where host-window bytes may be reached (R250). -/
def Sleeve.windowFault (v : Sleeve) (write : Bool) (ps : List (Nat × Nat)) : Option (Status × Nat) :=
  ps.findSome? fun p =>
    let w := windowOf p.1
    match v.windows.find? fun x => x.id == w.1 with
    | none => some (0x10, p.1)
    | some x =>
      if x.len < w.2 + p.2 then some (0x10, p.1) else if (if write then x.w else x.r) then none else some (0x11, p.1)

/-- The rotation of the layer of a base image whose elements hold an offset. -/
def State.baseRot (s : State) (base off : Nat) : Nat := match s.layerAt base off with | some l => l.rot | none => 0

/-- The parts of `n` bytes of a base image from `off` that lie in its layers' elements: offset, length, rotation (R186). -/
def State.baseParts (s : State) (base off n : Nat) : List (Nat × Nat × Nat) :=
  match s.slotOf base with
  | none => []
  | some i => (s.slot i).layers.filterMap fun l =>
      let a := max off l.offset
      let z := min (off + n) (l.offset + layerBytes l)
      if a < z then some (a, z - a, l.rot) else none

/-- What a LOAD of a base image leaves of one piece in the store at `d` (R186): each layer's part with its rotation, and the rest. -/
def State.loadRegions (s : State) (base off d n : Nat) : List Region :=
  ((s.baseParts base off n).map fun p => ⟨d + (p.1 - off), p.2.1, .base p.1 p.2.2⟩) ++ [⟨d, n, .base off 0⟩]

/-- What a TLOAD of a base image leaves: where its source lies in one layer, or in layers of one rotation, whole rows; else
each element with its own layer's rotation. `src` the start of each source row of `rb` bytes, `len` its elements of
format `f`. -/
def State.turnRegions (s : State) (base f rb len : Nat) (src : List Nat) (near : List (Nat × Nat)) (row : Nat → Nat) : List Region :=
  let off := src.headD 0
  let rots := (src.flatMap fun a => (s.baseParts base a rb).map (·.2.2)).eraseDups
  if rots.length ≤ 1 then near.map fun p => ⟨p.1, p.2, .turned off (rots.headD 0)⟩
  else (List.range len).flatMap fun j => src.zipIdx.map fun a =>
    ⟨row j + a.2 * fmtWidth f / 8, (fmtWidth f + 7) / 8, .turned off (s.baseRot base (a.1 + j * fmtWidth f / 8))⟩

/-- Bytes of the base image that a command names. -/
def State.baseBytes (s : State) (base : Nat) : Nat := match s.slotOf base with | some n => (s.slot n).plainBytes | none => 0

/-- Cycles of a SPACE 2 STREAM at the sleeve's CXL share (R254): the link carries 4 bytes a lane-GT/s a cycle at full
rate, 40 bytes a cycle at 32 GT/s and 16 lanes. -/
def State.shareCycles (s : State) (v : Sleeve) (bytes : Nat) : Nat :=
  if v.cxl = 0 then 2 ^ 40 else ceilDiv (bytes * 256 * 512) (v.cxl * 40 * s.hif.width * s.hif.rate)

/-- The channel of the span of a base (R274, R342). -/
def State.spanChannel (s : State) (base : Nat) : Nat := match s.slotOf base with | some n => (s.slot n).spanChannel | none => 0

/-- STREAM words (R212, R234, R254, R258); a store to a span mapping takes its quota's time on the Seam (R277). -/
def State.traceStream (s : State) (e : TraceEnv) (x : Tr) (w : PWord) : Tr :=
  let k := streamWord w
  let op := (wordHdr w).op
  let b := x.b
  let src := b.view k.src
  let dst := b.view k.dst
  let rb := rowBytes src.fmt k.len
  let f := src.fmt
  let ps : List (Nat × Nat × Nat) :=
    if op = 2 then (List.range k.rows).flatMap fun i =>
      (src.row rb i, 0, rb) :: (if isMx f then [(src.scaleAt f (src.row rb i), 0, k.len / 32)] else [])
    else streamPieces src dst k.rows k.len
  let froms := ps.map fun p => (p.1, p.2.2)
  let tos := if op = 2 then dst.extents f k.len k.rows else ps.map fun p => (p.2.1, p.2.2)
  let bytes := sumOf (froms.map (·.2))
  let pairing :=
    if op = 0 then decide (src.space ≠ 0 ∧ dst.space = 0)
    else if op = 1 then decide (src.space = 0 ∧ (dst.space = 1 ∨ dst.space = 2))
    else decide ((src.space = 1 ∨ src.space = 3) ∧ dst.space = 0 ∧ f ≠ 10) &&
      (!isMx f || decide (k.len % 32 = 0 ∧ k.rows % 32 = 0))
  let aligned := op = 2 ∨ ps.all fun p => decide (p.1 % 128 = 0 ∧ p.2.1 % 128 = 0) || isMx f
  let far := if op = 1 then tos else froms
  let near := if op = 1 then froms else tos
  let space := if op = 1 then dst.space else src.space
  let fault : Option (Status × Nat) :=
    if space = 1 then e.v.spaceFault (op = 1) far
    else if space = 2 then e.v.windowFault (op = 1) far
    else none
  let inBase := decide (space ≠ 3) || far.all fun p => decide (p.1 + p.2 ≤ s.baseBytes e.r.base)
  let onSpan := decide (space = 1) && far.any fun p => match e.v.leafAt p.1 with | some l => decide (l.node ≠ 0xFFFF) | none => false
  let df := { dst with fmt := f }
  let onBlocks := (List.range k.rows).all (fun i => src.onBlock (src.row (if op = 2 then rb else 128 * k.len) i)) &&
    (List.range (if op = 2 then k.len else k.rows)).all fun i =>
      df.onBlock (df.row (if op = 2 then rowBytes f k.rows else 128 * k.len) i)
  let x0 := (x.check (pairing && decide aligned && (outside near).isNone && inBase && onBlocks && (decide (op = 1) || !onSpan)) 0x75)
  let x1 := match fault with
    | some (st, a) => if x0.bad = none then { x0.fail st with badAddr := a } else x0
    | none => x0
  let issue := x1.roomAt [keyStreamer]
  let empty := x1.out.all fun o => o.1 != keyStreamer || decide (o.2 ≤ issue)
  let base := ceilDiv bytes 128 + (if empty then 512 else 0)
  let cyc := if space = 2 then max base (s.shareCycles e.v bytes)
    else if op = 1 ∧ onSpan = true then max base (s.seamCycles (s.spanChannel e.r.base) bytes 0) else base
  let done := max issue (x1.freeAt keyStreamer) + cyc
  let regs : List Region :=
    if op = 1 then []
    else if op = 2 then
      if space = 3 then s.turnRegions e.r.base f rb k.len ((List.range k.rows).map (src.row rb)) near (dst.row (rowBytes f k.rows))
      else near.map fun p => ⟨p.1, p.2, .unknown⟩
    else if space = 3 then ps.flatMap fun p => s.loadRegions e.r.base p.1 p.2.1 p.2.2
    else ps.map fun p => ⟨p.2.1, p.2.2, if space = 1 then .device p.1 else .unknown⟩
  let grans := (far.flatMap fun p => granules p.1 p.2).eraseDups
  let wins := (far.map fun p => (windowOf p.1).1).eraseDups
  let x2 := x1.join (.one keyStreamer (flagsOf [w]) issue done cyc (if op = 1 then near else []) (if op = 1 then [] else near))
  ({ x2 with
    regions := regs ++ x2.regions
    stores := if op = 1 then max x2.stores done else x2.stores
    spans := x2.spans || (decide (op = 1) && onSpan)
    reads := if space = 1 ∧ op ≠ 1 then grans ++ x2.reads else x2.reads
    writes := if space = 1 ∧ op = 1 then grans ++ x2.writes else x2.writes
    hostLines := if space = 2 then hostReads (far.map fun p => (p.1, 0, p.2)) ++ x2.hostLines else x2.hostLines
    hostBytes := if space = 2 ∧ op = 1 then x2.hostBytes + bytes else x2.hostBytes
    windows := if space = 2 then wins ++ x2.windows else x2.windows } : Tr).pass b.pc

/-- The width of the rank latch that an instruction left: the widest stored rank among its rows' side paths (R119, R162). -/
def State.latchWidth (s : State) (k : Option SideKey) : Nat :=
  match k with
  | none => 0
  | some k => maxOf (k.rows.map fun row => match s.sidePatch k.layer row with | some (_, f) => f.rs | none => 0)

/-- The rows of the instruction whose rank latch a PUSH_T or POP_T moves (R162): the last RAIL-bearing one before a
PUSH_T, the next in the image after a POP_T. -/
def latchRows (x : Tr) (map : List RowEntry) (push : Bool) : List (Option (Nat × RowEntry)) :=
  if push then (match x.latchSide with | some k => k.rows | none => [])
  else
    let ws := x.b.pattern.drop x.b.pc
    match ws.find? (fun w => (wordHdr w).cls == 1), ws.find? (fun w => (wordHdr w).cls == 0) with
    | some r, some m => rowsFor map (tokenOf x.b (railWord r)) (matrixWord m).m
    | _, _ => []

/-- The array mask of the MATRIX whose rank latch a PUSH_T or POP_T moves: the last RAIL-bearing one that the trace saw, or the
next in the image. -/
def Tr.latchMask (x : Tr) (push : Bool) : Option Nat :=
  if push then x.sideMask
  else ((x.b.pattern.drop x.b.pc).find? fun w => (wordHdr w).cls == 0).map fun w => (matrixWord w).mask

/-- STACK words (R147, R155, R159, R223). A PUSH_T is priced by the latch that the last forward RAIL-bearing
instruction left, a POP_T by its WIDTH in the rank-latch format and by the rows of the instruction that takes it (log entry
40). -/
def State.traceStack (s : State) (e : TraceEnv) (x : Tr) (w : PWord) : Tr :=
  let k := stackWord w
  let op := (wordHdr w).op
  let b := x.b
  let vm := b.view k.mapCur
  let map := if k.mapEn then s.traceMap e x vm.addr 65536 else [⟨false, k.tokens, 0, 0, false⟩]
  let lens := map.map (·.len)
  let tokens := sumOf lens
  let v := b.view k.ls
  let rcp := e.r.recipe 6
  let mapReads := if k.mapEn then [(vm.addr, 8 * lens.length)] else []
  let narrow := decide (op = 0 ∧ 2 ≤ k.codec)
  let dst := if op = 1 then (if k.widen then k.wfmt else v.ownFmt) else v.fmt
  let vd := { v with fmt := dst }
  let ls := vd.extents dst tokens k.width
  let okCodec := decide (op ≠ 0) ||
    ((decide (k.codec = 0 ∨ k.codec = 2) || decide (k.width % 32 = 0)) &&
      (!narrow || (decide (rcp.rot ≠ 15 ∧ (rcp.rot = 0 ∨ k.width % 2 ^ rcp.rot = 0)) &&
        (!isMx rcp.format || decide (k.width % 32 = 0)))))
  let okWiden := !k.widen || decide (v.ownFmt = k.wfmt)
  let twoPly := decide (op = 1 ∧ dst = 10)
  let okLs := decide (2 ≤ op) || operandOk vd ls k.width
  let lane := 4 * e.bno + k.lane
  let rb := if narrow then rotBusy (tokens * k.width) rcp.rot else 0
  let frameFmt := if op = 0 then (if narrow then rcp.format else v.fmt) else if k.widen then rcp.format else dst
  let latch := latchRows x map (op = 2)
  let cyc := if 2 ≤ op then
      stackCycles 0 (latchBytes (if op = 3 then k.width else s.latchWidth x.latchSide) (map.zipIdx.map fun y =>
        (latch.filter fun r => match r with | some (i, _) => i == y.2 | none => false).length))
    else stackCycles (tensorBytes dst tokens k.width) (frameBytes frameFmt k.width lens)
  let issue := x.roomAt [keyStack]
  let start := maxOf [issue, x.freeAt keyStack, if op = 2 then x.stage1End else if op = 3 then x.latchEnd else 0]
  let rotDone := if rb = 0 then 0 else max start (x.freeAt keyRotation) + rb
  let done := max (start + cyc) rotDone
  let x0 := ((x.check (okCodec && okWiden && okLs && (!k.mapEn || mapOk vm lens.length) && !twoPly) 0x75).check (!mapReserved map) 0x72).check
    (decide (op ≠ 1 ∨ map.length ≤ 1) || linesApart vd dst tokens k.width) 0x33
  let x1 := if narrow then { x0.tagged k.tag 6 k.width with hists := k.tag :: x0.hists } else x0
  let m := x1.muted
  let x2 := x1.join { Job.one keyStack (flagsOf [w]) issue done cyc (mapReads ++ if op = 0 then ls else []) (if op = 1 then ls else []) with
    free := [(keyStack, done), (keyRotation, rotDone)], busy := [(keyStack, cyc), (keyRotation, rb)], lane := some k.lane
    latch := if 2 ≤ op then x.latchMask (op = 2) else none }
  ({ x2 with
    regions := if op = 1 then ls.map (fun r => ⟨r.1, r.2, Origin.unknown⟩) ++ x2.regions else x2.regions
    latchBusy := if 2 ≤ op ∧ m = false then max x2.latchBusy done else x2.latchBusy
    tenants := x2.tenants || (k.mapEn && anyPatch map)
    lanes := lane :: x2.lanes } : Tr).pass b.pc

/-- Status of a word whose group is not there (R231), or refused until its members' blocks are found identical (R290). -/
def State.groupStatus (s : State) (sl g : Nat) : Status :=
  if s.groups.any fun x => x.sleeve == sl && x.block.group == g && !x.ready && !x.removed then 0x7C else 0x75

/-- REDUCE words (R292, R293, R310). -/
def State.traceReduce (s : State) (e : TraceEnv) (x : Tr) (w : PWord) : Tr :=
  let k := reduceWord w
  let op := (wordHdr w).op
  let b := x.b
  match s.group e.v.id k.group with
  | none => x.fail (s.groupStatus e.v.id k.group)
  | some g =>
    let vm := b.view k.mapCur
    let map := if op = 0 then s.traceMap e x vm.addr 65536 else []
    let mapReads := if op = 0 then [(vm.addr, 8 * map.length)] else []
    let hs := b.postable map
    let parts := hs.filterMap fun h => ((s.patch h).bind fun p => s.postPart p k.layer).map fun q => (h, q.2)
    let v := b.view k.ls
    let es := if op = 0 then [] else v.extents v.fmt 1 (64 * k.blocks)
    let bytes := sumOf (es.map (·.2))
    let n := if g.block.format = 1 then 256 else 64
    let pass := s.postCycles g.block (if op = 0 then sumOf (parts.map fun q => ceilDiv q.2 n) else ceilDiv (64 * k.blocks) n)
    let issue := x.roomAt [keySeam]
    let start := max issue (x.freeAt keySeam)
    let wait := max start (look 0 x.seamWait k.group) + pass
    let done := if op = 0 then start + 64 else wait + 2 * ceilDiv bytes 256
    let x0 := ((x.check (if op = 0 then mapOk vm map.length else operandOk v es (64 * k.blocks) && decide (v.fmt ≠ 10)) 0x75).check
      (!mapReserved map) 0x72).tagged k.tag 3 0
    let x1 := x0.join (.one keySeam (flagsOf [w]) issue done (done - start) (mapReads ++ es) es)
    ({ x1 with groups := k.group :: x1.groups, patches := hs ++ x1.patches
               seamWait := put 0 x1.seamWait k.group wait, posts := x1.posts ++ [(k.group, start, pass)]
               posted := parts.map (·.1) ++ x1.posted, tenants := x1.tenants || anyPatch map
               e1Posts := if op = 1 ∧ g.block.format = 1 then (k.group, k.tag, 2 * 64 * k.blocks) :: x1.e1Posts else x1.e1Posts
               regions := es.map (fun r => ⟨r.1, r.2, Origin.made 0⟩) ++ x1.regions } : Tr).pass b.pc

/-- The time from which a flag's `n`-th increment is seen. -/
def nthInc (is : List Inc) (n : Nat) : Option Nat := if n = 0 then some 0 else (sorted (fun a b => decide (a ≤ b)) (is.map (·.time)))[n - 1]?

/-- Whether a WAIT of COUNT `c` on `f` proves that an earlier primitive has completed (R222). -/
def Tr.proves (x : Tr) (f c : Nat) (p : Earlier) : Bool :=
  p.flags.contains f &&
    (let is := x.incsOf f
     let after := (is.filter fun i => decide (p.seq < i.seq) && p.units.all i.units.contains).length
     decide (is.length - after ≤ c + look 0 x.subs f))

/-- WAIT and DRAIN (R217, R221, R222): satisfied in cycle t, the next word issues in cycle t. -/
def Tr.waitWord (x : Tr) (w : PWord) : Tr :=
  let k := Sys2Proof.waitWord w
  let a := x.b.pc
  let finish (x : Tr) (t : Nat) : Tr := ((({ x with t := t }.addIncs [100] (t + 1) (flagsOf [w])).count).pass a)
  if (wordHdr w).op = 1 then finish { x with live := [] } (max x.t x.last)
  else
    let fs := (List.range 8).filter fun f => k.mask.getLsbD f
    let times := fs.map fun f => nthInc (x.incsOf f) (k.count + look 0 x.subs f)
    if times.any (·.isNone) then x.fail 0x75
    else
      let t := maxOf (x.t :: times.map (·.getD 0))
      let live := x.live.filter fun p => !(fs.any fun f => x.proves f k.count p)
      finish { x with
        live := live, subs := if k.clear then fs.foldl (fun m f => put 0 m f (look 0 m f + k.count)) x.subs else x.subs } t

/-! ### Halves (R164, R165; log entry 94) -/

/-- The masks on which backward forms run. -/
def Tr.backMasks (x : Tr) : List Nat := (x.prims.filterMap fun p => if p.back then p.mask else none).eraseDups

/-- Whether a mask belongs to the backward half: it shares an array with a backward form. -/
def Tr.backMask (x : Tr) (m : Nat) : Bool := x.backMasks.any fun n => decide (m &&& n ≠ 0)

/-- A primitive that belongs to a half by its array mask, or by the rank latch that it moves. -/
def Tr.seed (x : Tr) (back : Bool) (p : TracePrim) : Bool :=
  (p.mask.toList ++ p.latch.toList).any fun m => x.backMask m == back

/-- The primitives of a list, in order, that are seeds or that read what an earlier one of them wrote. -/
def fedBy (seed : TracePrim → Bool) (ps : List TracePrim) : List TracePrim :=
  ps.foldl (fun acc p => if seed p || acc.any fun q => anyMeet q.writes p.reads then p :: acc else acc) []

/-- The primitives of a list, last first, that are seeds or that write what a later one of them reads. -/
def feeding (seed : TracePrim → Bool) (ps : List TracePrim) : List TracePrim :=
  ps.foldl (fun acc p => if seed p || acc.any fun q => anyMeet p.writes q.reads then p :: acc else acc) []

/-- The numbers of the primitives that serve a half: they take its results or give it its operands. -/
def Tr.serves (x : Tr) (back : Bool) : List Nat :=
  ((fedBy (x.seed back) x.prims.reverse) ++ feeding (x.seed back) x.prims).map (·.seq)

/-- The primitives that serve the backward half and those that serve the forward half; none where a command does not carry two
halves, or where a product of one takes what the other made. -/
def Tr.sides (x : Tr) : Option (List Nat × List Nat) :=
  let runs (back : Bool) : Bool := x.prims.any fun p => p.mask.any fun m => x.backMask m == back
  let crosses (back : Bool) : Bool := (fedBy (x.seed back) x.prims.reverse).any fun p => p.mask.any fun m => x.backMask m != back
  if runs true && runs false && !crosses true && !crosses false then some (x.serves true, x.serves false) else none

/-- No lane serves both halves of a command (R164). -/
def Tr.halvesApart (x : Tr) : Bool :=
  match x.sides with
  | none => true
  | some (bs, fs) => !((List.range 4).any fun l =>
      let us := (x.prims.filter fun p => p.lane == some l).map (·.seq)
      us.any bs.contains && us.any fs.contains)

/-- The operations of the sequencer itself; a BARRIER OP 1 is priced at the latest arrival that any member reported, where it is known,
and the bound of its release (R214, R216 to R220, R227, R228, R326). -/
def State.traceSeq (s : State) (e : TraceEnv) (x : Tr) (w : PWord) : Tr :=
  let h := wordHdr w
  let b := x.b
  match h.cls with
  | 6 =>
    let k := statWord w
    ({ (x.check (!(x.kinds.any fun y => y.1 == k.tag)) 0x75).here w with
       stats := if x.stats.contains k.tag then x.stats else k.tag :: x.stats } : Tr).pass b.pc
  | 8 =>
    let k := barrierWord w
    if h.op = 0 then
      { x.check (k.mask.getLsbD e.bno && decide (k.mask &&& ~~~e.r.hdr.bolts = 0)) 0x75 with
        atBar := some (k.id, k.mask), bars := x.bars ++ [(k.id, k.mask)] }
    else
      let gOk := k.span || (s.group e.v.id k.group).isSome
      let bound := collectiveCycles (match s.group e.v.id k.group with | some g => !k.span && groupWide g.block | none => false)
      let seen := max x.t (e.r.arrivals.getD x.collAt.length 0) + bound
      let x1 := { x.check gOk (s.groupStatus e.v.id k.group) with
        groups := if k.span then x.groups else k.group :: x.groups, spans := x.spans || k.span
        collAt := x.collAt ++ [x.t] }
      ({ x1.hereAt w (seen + 1) with t := seen } : Tr).pass b.pc
  | 11 =>
    let k := loopWord w
    let n := if k.scalar then (b.scalar k.countS).toNat else k.count
    let x1 := (x.check (decide (n ≤ 65536)) 0x75).here w
    if n = 0 then ({ x1 with b := { b with rods := put 0 b.rods k.rod 0 } } : Tr).pass k.last
    else { x1 with b := { b with rods := put 0 b.rods k.rod 0, loops := (b.pc, k.rod, k.last, n) :: b.loops, pc := b.pc + 1 } }
  | 12 =>
    let k := branchWord w
    if h.op = 15 then { x.check (x.held = [] && x.b.rail = none && x.halvesApart) 0x75 with done := true }
    else
      let cond := match h.op with
        | 0 => true
        | 1 => branchLeft b k == branchRight b k
        | 2 => branchLeft b k != branchRight b k
        | 3 => decide (branchLeft b k < branchRight b k)
        | 4 => decide (branchRight b k ≤ branchLeft b k)
        | _ => branchLast b k
      let x1 := x.here w
      if cond then { x1 with b := { b with pc := k.target } } else x1.pass b.pc
  | _ => (x.here w).pass b.pc

/-- One word of the trace. -/
def State.traceWord (s : State) (e : TraceEnv) (x : Tr) : Tr :=
  match x.b.pattern[x.b.pc]? with
  | none => x.fail 0x75
  | some w =>
    let h := wordHdr w
    if x.b.rail.isSome ∧ h.cls ≠ 0 ∧ h.cls ≠ 12 then x.fail 0x75
    else match h.cls with
      | 0 => if x.b.rail.any fun r => ((wordHdr r).op == 1) != (h.op == 1) then x.fail 0x75
             else if h.op = 0 then s.tracePlain e x w else if h.op = 1 then s.traceBackward e x w else s.traceConv e x w
      | 1 => x.rail w
      | 2 => s.traceVector e x w
      | 3 => s.traceRotate e x w
      | 4 => s.traceStream e x w
      | 5 => s.traceStack e x w
      | 7 => s.traceReduce e x w
      | 9 => x.waitWord w
      | 15 => x.fail 0x75
      | _ => s.traceSeq e x w

/-- Run one bolt's trace until it ends, fails or reaches a BARRIER OP 0. -/
def State.traceRun (s : State) (e : TraceEnv) : Nat → Tr → Tr
  | 0, x => x.fail 0x75
  | f + 1, x => if x.done || x.bad.isSome || x.atBar.isSome then x else s.traceRun e f (s.traceWord e x)

/-- Steps a trace may take on a bolt between barriers: primitives, loop repeats and branches are each one. -/
def traceFuel : Nat := 4194304

/-! ### All bolts of a command (R166, R224) -/

/-- A bolt released from its barrier at cycle `t`. -/
def Tr.release (x : Tr) (t : Nat) : Tr :=
  match x.b.pattern[x.b.pc]? with
  | none => { x with atBar := none }
  | some w => ({ ({ x with atBar := none } : Tr).hereAt w (t + 1) with t := t } : Tr).pass x.b.pc

/-- The bolts of a barrier at which all have arrived, with its release. -/
def fullBarrier (xs : List (Nat × Tr)) : Option (BitVec 16 × Nat) :=
  xs.findSome? fun x => match x.2.atBar with
    | none => none
    | some (id, mask) =>
      let js := xs.filter fun y => mask.getLsbD y.1
      if js.length = (boltsIn mask).length && js.all fun y => decide (y.2.atBar = some (id, mask)) then
        some (mask, maxOf (js.map fun y => max y.2.t y.2.stores) + barrierCycles mask)
      else none

/-- Go from barrier to barrier: a round runs every bolt on, then releases a full barrier; bolts that wait for ever fail
the command (R216, R231). -/
def State.traceRounds (s : State) (e : Nat → TraceEnv) : Nat → List (Nat × Tr) → List (Nat × Tr)
  | 0, xs => xs.map fun x => (x.1, x.2.fail 0x75)
  | f + 1, xs =>
    let ys := xs.map fun x => (x.1, s.traceRun (e x.1) traceFuel x.2)
    if ys.any (fun y => y.2.bad.isSome) || ys.all (fun y => y.2.done) then ys
    else match fullBarrier ys with
      | some (mask, t) => s.traceRounds e f (ys.map fun y => if mask.getLsbD y.1 then (y.1, y.2.release t) else y)
      | none => ys.map fun y => if y.2.done then y else (y.1, y.2.fail 0x75)

/-- The bolt a trace starts from: the command loaded under R201 over the local store as it stands; a bolt priced warm at the
command's start has used every array just before it (R462). -/
def State.traceStart (s : State) (h : QHdr) (a : ArgBlock) (p : Pattern) (warm : Bool) (bno : Nat) (mute : List Nat) : Tr :=
  { used := if warm then [0, 1, 2, 3] else [], mute := mute
    b := { (s.bolt bno).clear with
      pattern := p.words, cursors := overrideCursors p.cursors a.overrides, scalars := scalarsOn h a bno
      mem := (s.bolt bno).mem } }

/-- Bolts that reach the k-th BARRIER OP 0 word of an ID name one mask in it, and every bolt of the mask reaches it (R216,
R231). -/
def barriersJoin (xs : List (Nat × Tr)) : Bool :=
  let words (y : Tr) (id : Nat) : List (BitVec 16) := (y.bars.filter fun w => w.1 == id).map (·.2)
  xs.all fun x => (List.range 16).all fun id => (words x.2 id).zipIdx.all fun w =>
    (boltsIn w.1).all fun c => xs.any fun y => y.1 == c && (words y.2 id)[w.2]? == some w.1 &&
      (words y.2 id).length == (words x.2 id).length

/-- Cycles that the primitives of a trace keep a shared unit busy. -/
def Tr.busyOn (x : Tr) (u : Nat) : Nat := sumOf (x.prims.flatMap fun p => p.busy.filterMap fun e => if e.1 = u then some e.2 else none)

/-- The price of a bolt whose command carries two halves (R165): the largest of the backward half alone, the forward half
alone, and the busy cycles of each shared unit. -/
def Tr.halfPrice (x : Tr) (back forth : Nat) : Nat :=
  maxOf (back :: forth :: [keyRail, keyVector, keyRotation, keyStreamer, keyStack, keySeam].map x.busyOn)

/-- The trace of a RUN on all its bolts, with the claims that have pockets and the bolts that are priced warm at its start
(R462). Where bolts carry two halves, each half is traced alone as well, with the primitives that serve only the other half
muted (R165). -/
def State.trace (s : State) (v : Sleeve) (r : Run) (a : ArgBlock) (p : Pattern) (pocketed : Nat → List Claim) (warm : Nat → Bool) :
    List (Nat × Tr) :=
  let go (mute : Nat → List Nat) : List (Nat × Tr) := s.traceRounds (fun b => ⟨v, r, b, pocketed b⟩) 65536
    ((boltsIn r.hdr.bolts).map fun b => (b, s.traceStart r.hdr a p (warm b) b (mute b)))
  let xs := go fun _ => []
  if xs.any (fun x => x.2.bad.isSome) then xs
  else if !barriersJoin xs then xs.map fun x => (x.1, x.2.fail 0x75)
  else
    let sides (b : Nat) : Option (List Nat × List Nat) := (xs.find? fun x => x.1 == b).bind fun x => x.2.sides
    if xs.all fun x => (sides x.1).isNone then xs
    else
      let alone (back : Bool) : List (Nat × Tr) := go fun b => match sides b with
        | some (bs, fs) => if back then fs.filter fun n => !bs.contains n else bs.filter fun n => !fs.contains n
        | none => []
      let lastOn (ys : List (Nat × Tr)) (b : Nat) : Nat := match ys.find? fun y => y.1 == b with | some y => y.2.last | none => 0
      let back := alone true
      let forth := alone false
      xs.map fun x => (x.1, if (sides x.1).isNone then x.2
        else { x.2 with last := x.2.halfPrice (lastOn back x.1) (lastOn forth x.1) })

/-- Beads of a number of cycles (R163). -/
def beadsOf (cycles : Nat) : Nat := ceilDiv cycles 256

/-- Cycle of a bolt's next own start slot at or after `c`, none past the working part (R462). -/
def startSlot (len bno c : Nat) : Option Nat :=
  let slot := bitsOf bno 0 0 * 8 + bitsOf bno 1 1 * 4 + bitsOf bno 2 2 * 2 + bitsOf bno 3 3
  let own := 1760 * slot
  let t := if c ≤ own then own else own + 28160 * ceilDiv (c - own) 28160
  if t < workUs len * 1600 then some t else none

end Sys2Proof.Machine
end

