-- ==== Sys2Proof/Machine/Descriptor.lean ====
section
/-! DEFINITION. Reading a descriptor and what it points to (R384 to R389): header, argument block, the parameter blocks of
chapters 05, 06 and 11, and the checks that need only the bytes (R14, R385, R396). -/
namespace Sys2Proof.Machine
open Sys2Proof

/-- An address field (R385): bits [63:62] space, [47:0] address. -/
def addrField (l : List Byte) (off : Nat) : Addr :=
  let v := fieldOf l off 8
  ⟨bitsOf v 63 62, bitsOf v 47 0⟩

/-- The reserved bits of an address field are 0. -/
def addrReservedOk (l : List Byte) (off : Nat) : Bool := decide (bitsOf (fieldOf l off 8) 61 48 = 0)

/-- An address field that names space 1 or 2, or names nothing with length 0 (R385). -/
def addrSpaceOk (a : Addr) (len : Nat) : Bool :=
  decide (a.space = 1 ∨ a.space = 2) || decide (a.space = 0 ∧ a.addr = 0 ∧ len = 0)

/-- A predecessor or target reference (R386). -/
def refOf (v : Nat) : PredRef := ⟨bitsOf v 30 28, bitsOf v 27 16, BitVec.ofNat 16 v⟩

/-- The header of a descriptor (R384). -/
def headerOf (o : Owner) (queue slot : Nat) (l : List Byte) : QHdr :=
  let flags := fieldOf l 5 1
  let oppt := fieldOf l 15 1
  { owner := o, queue := queue, slot := slot, seq := BitVec.ofNat 16 (fieldOf l 0 2), tag := BitVec.ofNat 16 (fieldOf l 2 2)
    cls := bitOf flags 0, watch := BitVec.ofNat 2 (bitsOf flags 2 1), gradMode := bitsOf flags 4 3
    deadline := fieldOf l 6 2, bolts := BitVec.ofNat 16 (fieldOf l 8 2), base := fieldOf l 10 2, pattern := fieldOf l 12 2
    preds := (List.range (min 4 (fieldOf l 14 1))).map fun i => refOf (fieldOf l (16 + 4 * i) 4)
    oppt := if bitOf oppt 3 then some (bitsOf oppt 2 0) else none
    args := addrField l 32, argsLen := fieldOf l 40 4, statsAddr := addrField l 48, statsLen := fieldOf l 44 4
    reserved := decide (bitsOf flags 7 5 ≠ 0 ∨ bitsOf flags 4 3 = 3 ∨ bitsOf oppt 7 4 ≠ 0 ∨ bitsOf (fieldOf l 6 2) 15 12 ≠ 0 ∨
        fieldOf l 56 8 ≠ 0) ||
      ((List.range 4).any fun i => if i < fieldOf l 14 1 then bitOf (fieldOf l (16 + 4 * i) 4) 31
        else decide (fieldOf l (16 + 4 * i) 4 ≠ 0)) || !addrReservedOk l 32 || !addrReservedOk l 48 }

/-- The argument block (R387). -/
def argBlockOf (l : List Byte) : ArgBlock :=
  let n := fieldOf l 120 2
  { scalars := (List.range 30).map fun i => BitVec.ofNat 32 (fieldOf l (4 * i) 4), novr := n
    overrides := (List.range n).map fun i =>
      ⟨bitsOf (fieldOf l (128 + 16 * i) 1) 4 0, fieldOf l (130 + 16 * i) 6, fieldOf l (136 + 16 * i) 6⟩
    reserved := decide (fieldOf l 122 6 ≠ 0) || (List.range n).any fun i =>
      decide (bitsOf (fieldOf l (128 + 16 * i) 1) 7 5 ≠ 0 ∨ fieldOf l (129 + 16 * i) 1 ≠ 0 ∨ fieldOf l (142 + 16 * i) 2 ≠ 0) }

/-- The update parameter block (R170). -/
def updateBlockOf (l : List Byte) : UpdateBlock :=
  let h (off : Nat) : BitVec 16 := BitVec.ofNat 16 (fieldOf l off 2)
  { kind := fieldOf l 0 1, decayDarn := bitOf (fieldOf l 1 1) 0, clipEn := bitOf (fieldOf l 1 1) 1, step := fieldOf l 4 4
    lr := h 8, omb1 := h 10, omb2 := h 12, eps := h 14, decay := h 16, gscale := h 18, clip := h 20
    reserved := decide (bitsOf (fieldOf l 1 1) 7 2 ≠ 0 ∨ fieldOf l 2 2 ≠ 0 ∨ fieldOf l 22 10 ≠ 0 ∨ 1 < fieldOf l 0 1) }

/-- A darned-layer entry (R133). -/
def darnOf (l : List Byte) : Darn :=
  let v := fieldOf l 0 8
  { rows := bitsOf v 63 32, slot := bitsOf v 22 20, kind := bitsOf v 19 16, layer := bitsOf v 15 0
    reserved := decide (bitsOf v 31 23 ≠ 0 ∨ 4 < bitsOf v 19 16) }

/-- A patch descriptor with its lists (R110, R111, R133): `layers` 4 bytes an entry, `darns` 8 bytes an entry. -/
def patchDescOf (l layers darns : List Byte) : PatchDesc :=
  let n := fieldOf l 10 2
  { tenant := fieldOf l 0 2, base := fieldOf l 2 2, rankCode := fieldOf l 4 1, train := bitOf (fieldOf l 6 1) 0
    scale := BitVec.ofNat 16 (fieldOf l 8 2)
    layers := (List.range n).map fun i => fieldOf layers (4 * i) 2
    imageLen := fieldOf l 32 8
    darns := (List.range (fieldOf l 5 1)).map fun i => darnOf (darns.drop (8 * i))
    darnsAddr := fieldOf l 40 8
    reserved := decide (bitsOf (fieldOf l 6 1) 7 1 ≠ 0 ∨ fieldOf l 7 1 ≠ 0 ∨ fieldOf l 12 4 ≠ 0 ∨ fieldOf l 48 16 ≠ 0) ||
      (List.range n).any fun i => decide (fieldOf layers (4 * i + 2) 2 ≠ 0) }

/-- A group parameter block with its member list (R290). -/
def groupBlockOf (l members : List Byte) : GroupBlock :=
  { group := fieldOf l 0 1, format := fieldOf l 1 1, headroom := fieldOf l 2 1, schedule := fieldOf l 3 1
    keyId := fieldOf l 6 2, width := fieldOf l 8 1
    members := (List.range (fieldOf l 4 2)).map fun i => fieldOf members (2 * i) 2
    reserved := decide (fieldOf l 9 7 ≠ 0 ∨ fieldOf l 24 8 ≠ 0 ∨ 1 < fieldOf l 1 1 ∨ 2 < fieldOf l 3 1) }

/-! ### Bodies (R389) -/

/-- Whether a queue takes an opcode: `sleeve` and `admin` queues. -/
def opcodeQueues (op : Nat) : Option (Bool × Bool) :=
  if [0x01, 0x02, 0x10, 0x11, 0x12, 0x13, 0x14, 0x18, 0x19, 0x1A, 0x1B, 0x20, 0x21, 0x22, 0x23, 0x28, 0x29].contains op then
    some (true, false)
  else if [0x03, 0x04, 0x30, 0x31].contains op then some (true, true)
  else if [0x40, 0x41, 0x42].contains op then some (false, true)
  else none

/-- The bits of a body's bytes that an opcode gives a meaning, as (first byte, bytes, mask); bits [61:48] of an address with
a space are reserved (R385). -/
def bodyFields (op : Nat) : List (Nat × Nat × Nat) :=
  let full (a n : Nat) : Nat × Nat × Nat := (a, n, 2 ^ (8 * n) - 1)
  let addr (a : Nat) : Nat × Nat × Nat := (a, 8, 2 ^ 64 - 2 ^ 62 + 2 ^ 48 - 1)
  match op with
  | 0x02 => [full 64 32, full 96 2, addr 104]
  | 0x03 => [(64, 4, 2 ^ 31 - 1)]
  | 0x10 => [full 64 4]
  | 0x11 => [full 64 2]
  | 0x12 => [addr 72]
  | 0x13 => [full 64 2]
  | 0x14 => [full 64 2, addr 72, full 80 4]
  | 0x18 => [addr 72, full 80 4]
  | 0x19 => [full 64 2]
  | 0x1A => [(64, 1, 1), (65, 1, 15), full 72 8]
  | 0x1B => [(64, 1, 15), (65, 1, 3), full 72 8]
  | 0x20 => [full 72 16, (88, 1, 7), full 90 2]
  | 0x21 => [full 72 16]
  | 0x22 => [full 64 1, (65, 1, 3), full 68 4, full 72 16]
  | 0x23 => [full 64 1]
  | 0x28 => [full 64 16, addr 80, full 88 8]
  | 0x29 => [full 64 1]
  | 0x30 => [(64, 1, 1), full 66 2, full 72 6, full 80 4]
  | 0x31 => [full 64 1, addr 72, full 80 4]
  | 0x40 => [(64, 1, 3)]
  | 0x41 => [full 64 1]
  | 0x42 => [full 68 4, full 72 16]
  | _ => []

/-- The mask of one body byte. -/
def byteMask (fs : List (Nat × Nat × Nat)) (i : Nat) : Nat :=
  fs.foldl (fun m f => if f.1 ≤ i ∧ i < f.1 + f.2.1 then m ||| (f.2.2 / 2 ^ (8 * (i - f.1)) % 256) else m) 0

/-- Body bytes and bits that are not listed are 0 (R389). -/
def bodyReservedOk (op : Nat) (l : List Byte) : Bool :=
  (List.range 64).all fun i =>
    let b := fieldOf l (64 + i) 1
    decide (b &&& byteMask (bodyFields op) (64 + i) = b)

/-- The body of a descriptor; `aux` holds what firmware reads from host memory with it. -/
def bodyOf (op : Nat) (l : List Byte) (aux : HostAux) : Option QBody :=
  let n (off k : Nat) : Nat := fieldOf l off k
  match op with
  | 0x01 => some (.run (argBlockOf aux.args))
  | 0x02 => some (.update (updateBlockOf (l.drop 64)) ((List.range (n 96 2)).map fun i => fieldOf aux.list (2 * i) 2))
  | 0x03 => some (.kill (refOf (n 64 4)))
  | 0x04 => some .fence
  | 0x10 => some (.regTenant (n 64 2) (n 66 2))
  | 0x11 => some (.deregTenant (n 64 2))
  | 0x12 => some (.regPatch (patchDescOf aux.bytes aux.list aux.list2) aux.image)
  | 0x13 => some (.deregPatch (n 64 2))
  | 0x14 => some (.exportPatch (n 64 2) (addrField l 72) (n 80 4))
  | 0x18 => some (.loadPattern aux.bytes (n 80 4))
  | 0x19 => some (.freePattern (n 64 2))
  | 0x1A => some (.setRecipe (bitOf (n 64 1) 0) (n 65 1 % 16) (BitVec.ofNat 64 (n 72 8)))
  | 0x1B => some (.configStack (n 64 1 % 16) (n 65 1 % 4) (n 72 8))
  | 0x20 => some (.map (n 72 8) (n 80 8) (n 88 1 % 4) (bitOf (n 88 1) 2) (n 90 2))
  | 0x21 => some (.unmap (n 72 8) (n 80 8))
  | 0x22 => some (.setWindow (n 64 1) (bitOf (n 65 1) 0) (bitOf (n 65 1) 1) (n 68 4) (n 72 8) (n 80 8))
  | 0x23 => some (.clearWindow (n 64 1))
  | 0x28 => some (.createGroup (groupBlockOf (l.drop 64) aux.list))
  | 0x29 => some (.destroyGroup (n 64 1))
  | 0x30 =>
    if bitOf (n 64 1) 0 then some (.snapshotDomain (BitVec.ofNat 16 (n 66 2)) (n 72 6) (n 80 4))
    else some (.snapshot (BitVec.ofNat 16 (n 66 2)) (n 72 6) (n 80 4))
  | 0x31 => some (.telemetry (n 64 1) (addrField l 72) (n 80 4))
  | 0x40 => some (.setStitch (n 64 1 % 4))
  | 0x41 => some (.setFloor (n 64 1))
  | 0x42 => some (.openIngest (n 68 4) (n 72 8) (n 80 8))
  | _ => none

/-! ### Checks that need only the descriptor -/

/-- A BF16 value that is finite and greater than 0. -/
def bfPositive (b : BitVec 16) : Bool :=
  let v := decodeBits 0 b.toNat
  v.isFinite && !v.isZero && !v.isNeg

/-- A BF16 value greater than 0, an infinity included. -/
def bfAbove (b : BitVec 16) : Bool :=
  match decodeBits 0 b.toNat with
  | .nan => false
  | v => !v.isZero && !v.isNeg

/-- A BF16 value in (0, 1]. -/
def bfUnit (b : BitVec 16) : Bool := bfPositive b && !(Num.fin false 1 0).lt (decodeBits 0 b.toNat)

/-- The update block's fields lie in their ranges (R170): LR is finite, the others need only be positive. -/
def updateBlockOk (u : UpdateBlock) : Bool :=
  decide (1 ≤ u.step) && bfPositive u.lr && bfUnit u.omb1 &&
    (if u.kind = 0 then decide (u.omb2 = 0 ∧ u.eps = 0) else bfUnit u.omb2 && bfAbove u.eps) &&
    ((decodeBits 0 u.decay.toNat).isZero || bfAbove u.decay) && bfAbove u.gscale &&
    (if u.clipEn then bfAbove u.clip else decide (u.clip = 0))

/-- What a body alone is refused for (R389, R396); none where it passes. -/
def bodyFault : QBody → Option Status
  | .run a => if a.reserved then some 0x72 else none
  | .update u ps => if u.reserved then some 0x72 else if updateBlockOk u && decide (1 ≤ ps.length ∧ ps.length ≤ 4096) then none else some 0x74
  | .regTenant t _ => if t = 0 then some 0x74 else none
  | .deregTenant t => if t = 0 then some 0x74 else none
  | .regPatch d _ =>
    if d.reserved || d.darns.any (·.reserved) then some 0x72
    else if d.tenant = 0 ∨ 31 < d.rankCode ∨ d.layers.length = 0 ∨ 4096 < d.layers.length ∨
        (decodeBits 0 d.scale.toNat).isFinite = false ∨ (d.darns = [] ∧ d.darnsAddr ≠ 0) then some 0x74
    else if 8 < d.darns.length then some 0x37 else none
  | .exportPatch _ a n => if addrSpaceOk a n && decide (n ≠ 0) then none else some 0x74
  | .setRecipe _ k _ => if 10 < k then some 0x72 else none
  | .configStack _ _ n => if n % 2097152 = 0 ∧ n ≤ 256 * 2 ^ 30 then none else some 0x74
  | .map _ _ p _ _ => if p = 3 then some 0x74 else none
  | .setWindow w _ _ p _ _ => if 15 < w ∨ 2 ^ 20 ≤ p then some 0x74 else none
  | .clearWindow w => if 15 < w then some 0x74 else none
  | .createGroup b =>
    if b.reserved then some 0x72
    else if 15 < b.group ∨ 7 < b.headroom ∨ (b.format = 1 ∧ b.headroom ≠ 0) ∨ b.members.length < 2 ∨ 32768 < b.members.length ∨
        b.width = 0 ∨ 8 < b.width ∨ b.members.eraseDups.length ≠ b.members.length then some 0x74 else none
  | .destroyGroup g => if 15 < g then some 0x74 else none
  | .telemetry k a n => if 4 < k then some 0x74 else if addrSpaceOk a n then none else some 0x74
  | .setFloor f => if f < 8 ∨ 15 < f then some 0x74 else none
  | .openIngest p _ _ => if 2 ^ 20 ≤ p then some 0x74 else none
  | _ => none

/-- The addresses with a space that a body names, with the bytes they name (R385, R389). -/
def bodyAddrs (op : Nat) (l : List Byte) : List (Addr × Nat) :=
  match op with
  | 0x02 => [(addrField l 104, 2 * fieldOf l 96 2)]
  | 0x12 => [(addrField l 72, 64)]
  | 0x14 => [(addrField l 72, fieldOf l 80 4)]
  | 0x18 => [(addrField l 72, fieldOf l 80 4)]
  | 0x28 => [(addrField l 80, 2 * fieldOf l 68 2)]
  | 0x31 => [(addrField l 72, fieldOf l 80 4)]
  | _ => []

/-- Whether a body names a pattern or bolts of its own accord. -/
def bodyOnBolts : QBody → Bool
  | .run _ => true
  | .update _ _ => true
  | _ => false

/-- What a descriptor is refused for before anything of the machine is looked at, first failure first. -/
def descFault (o : Owner) (op : Nat) (l : List Byte) (h : QHdr) (body : Option QBody) : Option Status :=
  let onQueue := match opcodeQueues op with
    | some q => if o = .admin then q.2 else q.1
    | none => false
  if !onQueue then some 0x73
  else if h.reserved || !bodyReservedOk op l then some 0x72
  else if h.deadline = 0 ∨ 4 < fieldOf l 14 1 ∨ addrSpaceOk h.args h.argsLen = false ∨ addrSpaceOk h.statsAddr h.statsLen = false ∨
      ((bodyAddrs op l).all fun a => addrSpaceOk a.1 a.2) = false then some 0x74
  else match body with
    | none => some 0x73
    | some b =>
      if bodyOnBolts b = false ∧ (h.bolts ≠ 0 ∨ h.pattern ≠ 0) then some 0x74
      else bodyFault b

end Sys2Proof.Machine
end

