-- ==== Sys2Proof/Machine/Admission.lean ====
section
/-! DEFINITION. Admission (R36 to R45): the conditions that a stitch must meet (R39 with R113, R194, R233, R245, R402, R403,
R437, R475), the price of a command in a stitch (R127 to R130, R233, R234, R462), and placing it. -/
namespace Sys2Proof.Machine
open Sys2Proof

/-! ### The submission stitch and what later stitches have -/

/-- The submission stitch of a header read now (R36). -/
def State.submitStitch (s : State) : Nat := s.time.stitch.toNat + (if s.time.hem then 1 else 0)

/-- The first stitch from which a bolt, or in Rest the module, may take work: an exit from a gated state completes one
latency after the admission that begins it, at `tau` microseconds into the stitch (R475). -/
def State.restReady (s : State) (tau : Nat) : Nat :=
  match s.power.pstate, s.power.restExit with
  | .rest, some e => e
  | .rest, none => s.time.stitch.toNat + ceilDiv (tau + 3000) (stitchUs s.time.len)
  | _, _ => 0

/-- The first stitch that fits on a bolt for its gate, the module's Rest, and an unravel that holds the bolts (R49, R475). -/
def State.boltReady (s : State) (tau bno : Nat) : Nat :=
  let b := s.bolt bno
  let own := match b.exitDone, b.gate with
    | some e, _ => e
    | none, .none => 0
    | none, .clock => s.time.stitch.toNat + ceilDiv (tau + 3) (stitchUs s.time.len)
    | none, .power => s.time.stitch.toNat + ceilDiv (tau + 80) (stitchUs s.time.len)
  let held := match s.rel.unravel with | some (_, e) => e | none => 0
  maxOf [s.restReady tau, if s.power.pstate = .rest then 0 else own, held]

/-! ### Predecessors (R386) -/

/-- The descriptors last accepted from an owner's queues, newest first. -/
def State.acceptedOf (s : State) : Owner → List Accepted
  | .admin => s.admAccepted
  | .sleeve n => match s.sleeve n with | some v => v.accepted | none => []

/-- Change an owner's accepted descriptors. -/
def State.updAccepted (s : State) (o : Owner) (f : List Accepted → List Accepted) : State :=
  match o with
  | .admin => { s with admAccepted := f s.admAccepted }
  | .sleeve n => s.updSleeve n fun v => { v with accepted := f v.accepted }

/-- The accepted descriptor that a reference names, among the last 4,096 of its queue (R386). -/
def State.accepted (s : State) (o : Owner) (r : PredRef) : Option Accepted :=
  (((s.acceptedOf o).filter fun a => a.queue == r.queue).take 4096).find? fun a => a.slot == r.slot && a.seq == r.seq

/-- Statuses with which a predecessor's dependency is met (R386). -/
def meetsPred (st : Status) : Bool := decide (st.toNat ≤ 3 ∨ st = 0x24 ∨ (0x50 ≤ st.toNat ∧ st.toNat ≤ 0x53))

/-- A command's runs that are still uncommitted among its predecessors, or the status it is refused with (R41, R386): a
predecessor that has been refused or stopped counts from then on, before its record. -/
def State.predsOf (s : State) (o : Owner) (rs : List PredRef) : Except Status (List Nat) :=
  let found := rs.map (s.accepted o)
  if found.any (·.isNone) then .error 0x76
  else
    let as := found.filterMap id
    let failed (a : Accepted) : Bool := match a.status with
      | some st => !meetsPred st
      | none => match s.findRun a.run with | some r => r.stop.any fun st => !meetsPred st.status | none => false
    if as.any failed then .error 0x22
    else .ok (as.filterMap fun a => if a.status = none then some a.run else none)

/-- Runs that a list of runs depends on, directly or through others. -/
def State.ancestors (s : State) : Nat → List Nat → List Nat
  | 0, ids => ids
  | f + 1, ids =>
    let more := (ids.flatMap fun i => match s.findRun i with | some r => r.preds | none => []).filter fun i => !ids.contains i
    if more = [] then ids else s.ancestors f (ids ++ more.eraseDups)

/-- Whether a run with predecessors `preds` is ordered after run `q`. -/
def State.orderedAfter (s : State) (preds : List Nat) (q : Nat) : Bool := (s.ancestors s.runs.length preds).contains q

/-- Runs that depend on a run, directly or through others, the run left out (R199, R413). -/
def State.dependents (s : State) (id : Nat) : List Nat :=
  (s.runs.filter fun r => r.id != id && s.orderedAfter r.preds id).map (·.id)

/-- The latest stitch of a run's uncommitted predecessors that are placed or list candidates (R39); while one waits in the
book, the run waits as well (`mustWait`). -/
def State.latestPred (s : State) (preds : List Nat) : Nat :=
  maxOf (preds.map fun i => match s.findRun i with
    | some r => (match r.phase with | .candidate => maxOf r.candidates | .waiting => 0 | _ => r.place)
    | none => 0)

/-! ### Conditions of a stitch -/

/-- Bolts that an owner's shares count by (R402). -/
def State.shareBolts (s : State) : Owner → Nat
  | .admin => 16
  | .sleeve n => match s.sleeve n with | some v => (boltsIn v.bolts).length | none => 0

/-- Pattern words placed on a bolt in a stitch: each image once (R233). -/
def State.patternWords (s : State) (bno e : Nat) (own : List (Nat × Nat)) : Nat :=
  let hs := own ++ (s.runs.filter fun r => r.uses bno && r.holds e).filterMap fun r =>
    match (s.sleeve (ownerNum r.hdr.owner)).bind fun v => v.patterns.find? fun p => p.handle == r.hdr.pattern with
    | some p => some (p.handle, p.words.length)
    | none => none
  sumOf (hs.eraseDups.map (·.2))

/-- Privileged tensors placed on a bolt in a stitch (R194). -/
def State.privOn (s : State) (bno e : Nat) : Nat := sumOf (s.runs.map fun r => if r.uses bno && r.holds e then look 0 r.priv bno else 0)

/-- Whether a run's device-memory footprint meets that of a placement of the same sleeve in a stitch (R245). -/
def State.granuleClash (s : State) (r : Run) (e : Nat) : Bool :=
  s.runs.any fun q => decide (q.hdr.owner = r.hdr.owner) && q.holds e &&
    (r.writeGran.any (fun g => q.writeGran.contains g || q.readGran.contains g) || r.readGran.any q.writeGran.contains)

/-- Tenants of patches. -/
def State.tenantsOf (s : State) (hs : List Nat) : List Nat := (hs.filterMap fun h => (s.patch h).map (·.tenant)).eraseDups

/-- Tenants under whose keys a sleeve's unsettled lines are sealed (R437): by the lines' tags in its space, by the patch in a
patch's region, by the frames' rows in a lane's. -/
def State.unsettledTenants (s : State) (v : Sleeve) : List Nat :=
  ((s.memSide.unsettled.flatMap fun u =>
    if u.1 = v.id then [(look 0 v.tags u.2).toNat]
    else ((s.patches.filter fun p => p.sleeve == v.id && patchArea p.handle == u.1).map (·.tenant)) ++
      (boltsIn v.bolts).flatMap fun b => (s.bolt b).lanes.flatMap fun l =>
        if laneArea b l.1 = u.1 then l.2.frames.flatMap fun f => f.rows.map fun r => r.selvage.toNat else []).filter (· ≠ 0)).eraseDups

/-- The key condition of R437: keys needed up to stitch `e` and for unsettled lines fit the sleeve's entries, and those not
held yet can be loaded before `e` begins, at one a microsecond and bolt. -/
def State.keysFit (s : State) (r : Run) (e tau : Nat) : Bool :=
  match r.hdr.owner with
  | .admin => true
  | .sleeve n =>
    let nb := s.shareBolts r.hdr.owner
    let now := s.time.stitch.toNat
    let runs := s.runs.filter fun q => decide (q.hdr.owner = r.hdr.owner) && (List.range (e + 1 - now)).any fun i => q.holds (now + i)
    let need := s.tenantsOf (r.patches ++ runs.flatMap (·.patches))
    let lines := match s.sleeve n with
      | some v => s.unsettledTenants v
      | none => []
    let held := s.heldTenants
    decide ((need ++ lines).eraseDups.length ≤ 256 * nb) &&
      decide ((need.filter fun t => !held.contains t && !lines.contains t).length ≤ nb * ((e - now) * stitchUs s.time.len - tau))

/-- (Patch, layer) pairs of a bolt that hits or fills of a stitch after `e` pin (R130). -/
def pinnedPairs (b : Bolt) (hs : List Nat) (e : Nat) : List (Nat × Nat) :=
  (b.pockets.filterMap fun x => if hs.contains x.2.patch ∧ e < x.2.pinned ∧ (x.2.valid ∨ x.2.fillFor ≤ e) then
    some (x.2.patch, x.2.layer) else none).eraseDups

/-- Beads of the refresh fills that an update committed in stitch `e` needs on a bolt in the next (R130). -/
def State.refreshBeads (s : State) (bno : Nat) (hs : List Nat) (e : Nat) : Nat :=
  ceilDiv (sumOf ((pinnedPairs (s.bolt bno) hs e).map fun f => match s.patch f.1 with
    | some p => ceilDiv (s.pairBytes p f.2) 128
    | none => 0)) 256

/-- Refresh fills of a run placed in `e`, by bolt: an update's only. -/
def State.refreshOf (s : State) (r : Run) (e : Nat) : Sparse Nat :=
  if isUpdate r.body then (List.range 16).foldl (fun m b => put 0 m b (s.refreshBeads b r.patches e)) [] else []

/-- R39 and the conditions added to it, for a run that is not in the book, at costs already known. -/
def State.fitsIn (s : State) (r : Run) (costs : Sparse Nat) (words : List (Nat × Nat)) (tau e : Nat) : Bool :=
  let t := s.ahead
  let o := r.hdr.owner
  let bs := boltsIn r.hdr.bolts
  decide (s.restReady tau ≤ e) &&
  bs.all (fun b => decide (s.beadsOn b e + look 0 costs b ≤ t.budget) && decide (s.boltReady tau b ≤ e) &&
    decide (s.patternWords b e words ≤ 4096) && decide (s.privOn b e + look 0 r.priv b ≤ 16)) &&
  decide (s.hostBytesIn o e + r.hostBytes ≤ t.hostShare o) &&
  decide ((s.patchesIn o e ++ r.patches).eraseDups.length ≤ 256 * s.shareBolts o) &&
  !s.granuleClash r e && s.keysFit r e tau &&
  (s.refreshOf r e).all fun x => decide (s.beadsOn x.1 (e + 1) + x.2 ≤ t.budget)

/-! ### Pockets (R126 to R130) -/

/-- Stitches of placed updates that name a patch, before `e`. -/
def State.updatesBefore (s : State) (h e : Nat) : List Nat :=
  (s.runs.filter fun r => isUpdate r.body && r.patches.contains h && r.stop = none && decide (r.phase ≠ .waiting ∧ r.place < e)).map (·.place)

/-- Pockets that hold every part of a pair by stitch `e`, valid or filling by then; an update between drops a copy that no
later hit pins (R127, R130). -/
def State.pairPockets (s : State) (b : Bolt) (p : Patch) (layer n e : Nat) : Option (List Nat) :=
  let us := s.updatesBefore p.handle e
  let one (part : Nat) : Option Nat := (List.range 256).find? fun i =>
    let k := look {} b.pockets i
    decide (k.patch = p.handle ∧ k.layer = layer ∧ k.part = part) &&
      ((k.valid && decide (k.version = p.version)) || decide (k.fillFor ≠ 0 ∧ k.fillFor ≤ e)) &&
      us.all fun u => decide (u < k.pinned)
  (List.range n).mapM one

/-- Unpinned pockets in the order in which fills take them (R127). -/
def freePockets (b : Bolt) (now : Nat) : List Nat :=
  let key (i : Nat) : Nat := let k := look {} b.pockets i; if k.valid then k.lastClaim + 1 else 0
  sorted (fun i j => decide (key i ≤ key j))
    ((List.range 256).filter fun i => decide ((look {} b.pockets i).pinned < now ∨ (look {} b.pockets i).pinned = 0))

/-- One claim of a stitch (R127): a hit, a fill, or demoted; the flag says that the segment runs pocketed. A copy that is
there for a stitch more than 16 ahead is priced as a fill (example of R138). -/
def State.resolveClaim (s : State) (now e : Nat) (b : Bolt) (c : Claim) : Bolt × Bool :=
  match s.patch c.patch with
  | none => (b, false)
  | some p =>
    let n := ceilDiv (s.pairBytes p c.layer) pocketBytes
    let pin (b : Bolt) (i : Nat) (k : Pocket) : Bolt := { b with pockets := put {} b.pockets i k }
    let fill : Bolt × Bool :=
      let free := freePockets b now
      if free.length < n then (b, false)
      else (((free.take n).zipIdx).foldl (fun b x => pin b x.1
        { patch := c.patch, layer := c.layer, part := x.2, version := p.version, valid := false, pinned := e,
          lastClaim := e, fillFor := e, filling := false }) b, true)
    if n = 0 ∨ 64 < n then (b, false)
    else match s.pairPockets b p c.layer n e with
      | some ks =>
        if e ≤ now + 16 then
          (ks.foldl (fun b i => let k := look {} b.pockets i
            pin b i { k with pinned := max k.pinned e, lastClaim := max k.lastClaim e }) b, true)
        else fill
      | none => fill

/-- All claims of a command on a bolt in trace order, giving the bolt with its pockets and the claims that run pocketed. -/
def State.resolveClaims (s : State) (now e : Nat) : Bolt → List Claim → Bolt × List Claim
  | b, [] => (b, [])
  | b, c :: cs =>
    let x := s.resolveClaim now e b c
    let y := s.resolveClaims now e x.1 cs
    (y.1, if x.2 then c :: y.2 else y.2)

/-! ### The price of a RUN in a stitch -/

/-- Cycles of a pattern load, 0 where the image is resident or placed on the bolt in the stitch (R233). -/
def State.loadCycles (s : State) (r : Run) (p : Pattern) (bno e : Nat) : Nat :=
  let there := (s.bolt bno).resident.contains p.handle ||
    s.runs.any fun q => q.uses bno && q.holds e && decide (q.hdr.owner = r.hdr.owner ∧ q.hdr.pattern = p.handle)
  if there then 0 else ceilDiv p.bytes 128 + 512

/-- The largest cost that firmware remembers for a run on its `i`-th bolt (R45). -/
def raisedCost (v : Sleeve) (h : QHdr) (scalars : List (BitVec 32)) (i : Nat) : Nat :=
  maxOf (v.raised.filterMap fun x =>
    if x.pattern = h.pattern ∧ x.cls = h.cls ∧ x.scalars = scalars ∧ x.costs.length = (boltsIn h.bolts).length then
      some (x.costs.getD i 0) else none)

/-- Whether a bolt is priced warm at the start of a command placed in a stitch: it is not the first placed there (R462). -/
def State.warmIn (s : State) (e bno : Nat) : Bool := s.runs.any fun q => q.uses bno && q.holds e

/-- A command's beads on one bolt in a stitch: trace, pattern load, and the wait for a start slot where it is the bolt's
first (R234, R462); none where no slot is left. -/
def State.costOn (s : State) (v : Sleeve) (r : Run) (a : ArgBlock) (p : Pattern) (e bno : Nat) (x : Tr) : Option Nat :=
  let load := s.loadCycles r p bno e
  let first := !s.warmIn e bno
  let wait : Option Nat := match x.firstRow with
    | none => some 0
    | some f => if first then (startSlot s.ahead.time.len bno (load + f)).map (· - (load + f)) else some 0
  wait.map fun w => max (beadsOf (x.last + load + w)) (raisedCost v r.hdr a.scalars ((boltsIn r.hdr.bolts).idxOf bno))

/-- Costs by bolt, none where some bolt has none. -/
def costMap : List (Nat × Option Nat) → Option (Sparse Nat)
  | [] => some []
  | (b, some c) :: rest => (costMap rest).map fun m => put 0 m b c
  | (_, none) :: _ => none

/-- A command's claims resolved for stitch `e` on its bolts (R127): the machine with its pockets claimed, and the claims
that run pocketed on each bolt. -/
def State.claimIn (s : State) (r : Run) (claims : Nat → List Claim) (e : Nat) : State × (Nat → List Claim) :=
  let res := (boltsIn r.hdr.bolts).map fun b => (b, s.resolveClaims s.submitStitch e (s.bolt b) (claims b))
  (res.foldl (fun (s : State) x => s.setBolt x.1 x.2.1) s,
    fun b => match res.find? fun x => x.1 == b with | some x => x.2.2 | none => [])

/-- The claims of a trace without pockets, by bolt in trace order. -/
def claimsIn (xs : List (Nat × Tr)) (b : Nat) : List Claim :=
  match xs.find? fun x => x.1 == b with | some x => x.2.claims.reverse.eraseDups | none => []

/-- The claims of a run that is placed again: those of its trace. -/
def State.claimsOf (s : State) (r : Run) : Nat → List Claim :=
  match r.body, s.sleeve (ownerNum r.hdr.owner) with
  | .run a, some v => match v.patterns.find? fun p => p.handle == r.hdr.pattern with
    | some p => claimsIn (s.trace v r a p (fun _ => []) fun _ => false)
    | none => fun _ => []
  | _, _ => fun _ => []

/-- Whether the passes of a command's posts, with the decision bound B, end before the hem of stitch `e` (R301): a group's posts
run in the order of their post cycles, taken at the floor after what is placed on the bolt before the command. -/
def State.passesEnd (s : State) (r : Run) (xs : List (Nat × Tr)) (e : Nat) : Bool :=
  let t := s.ahead.time
  let posts := xs.flatMap fun x => x.2.posts.map fun p => (p.1, ceilDiv ((256 * s.beadsOn x.1 e + p.2.1) * 16) t.floor, p.2.2)
  let ends := (sorted (fun a b => decide (a.2.1 ≤ b.2.1)) posts).foldl (fun m p => put 0 m p.1 (max p.2.1 (look 0 m p.1) + p.2.2)) []
  ends.all fun x =>
    let wide := match s.group (ownerNum r.hdr.owner) x.1 with | some g => groupWide g.block | none => false
    decide (x.2 + collectiveCycles wide ≤ workUs t.len * 1600)

/-- The price of a RUN in stitch `e`, and the machine with its pockets claimed (R127); none where no start slot is left. -/
def State.priceRun (s : State) (v : Sleeve) (r : Run) (a : ArgBlock) (p : Pattern) (claims : Nat → List Claim) (e : Nat) :
    Option (Sparse Nat × State) :=
  let c := s.claimIn r claims e
  let xs := s.trace v r a p c.2 (s.warmIn e)
  (costMap (xs.map fun x => (x.1, s.costOn v r a p e x.1 x.2))).map fun costs => (costs, c.1)

/-- A RUN weighed in stitch `e`: its costs, and the machine with its pockets claimed (R39, R127, R301). -/
def State.weighRun (s : State) (v : Sleeve) (r : Run) (a : ArgBlock) (p : Pattern) (claims : Nat → List Claim) (tau e : Nat) :
    Option (Sparse Nat × State) :=
  match s.priceRun v r a p claims e with
  | none => none
  | some (costs, s1) =>
    let ended := r.groups = [] || s.passesEnd r (s.trace v r a p (s.claimIn r claims e).2 (s.warmIn e)) e
    if s1.fitsIn r costs [(p.handle, p.words.length)] tau e && ended then some (costs, s1) else none

/-! ### Search and placement -/

/-- Whether a command must wait before it is placed: for a host page (R251), or for a predecessor that is itself not placed,
since its own stitch lies after that one's (R39, R40). -/
def State.mustWait (s : State) (r : Run) : Bool :=
  (s.hif.pageReqs.any fun q => q.run == r.id) ||
  r.preds.any fun i => match s.findRun i with
    | some q => decide (q.phase = .waiting ∧ q.stop = none)
    | none => false

/-- The first stitch that a command may be placed in when it is placed now: after the present submission stitch and its
predecessors (R37, R39), and not before the stitch that its ingest allows, which a run not yet placed carries in `place`
(R388). -/
def State.firstStitch (s : State) (r : Run) : Nat := maxOf [s.submitStitch + 1, s.latestPred r.preds + 1, r.place]

/-- The first stitch from `e` on, at most `n` of them, in which a command fits. -/
def firstFit {α : Type} (weigh : Nat → Option α) : Nat → Nat → Option (Nat × α)
  | 0, _ => none
  | n + 1, e => match weigh e with
    | some w => some (e, w)
    | none => firstFit weigh n (e + 1)

/-- Exits of gated bolts, or of Rest, that a placement begins (R475). -/
def State.beginExits (s : State) (bolts : BitVec 16) (tau : Nat) : State :=
  if s.power.pstate = .rest then
    if s.power.restExit = none then { s with power := { s.power with restExit := some (s.restReady tau) } } else s
  else s.updBolts (boltsIn bolts) fun bno b =>
    if b.gate ≠ .none ∧ b.exitDone = none then { b with exitDone := some (s.boltReady tau bno) } else b

/-- A run enters the book in stitch `e` (R39): reservations last until its commit or its end. -/
def State.enter (s : State) (r : Run) (e : Nat) (costs : Sparse Nat) (tau : Nat) : State :=
  let q := { r with place := e, phase := .placed, costs := costs, refresh := s.refreshOf r e }
  ({ s with runs := s.runs ++ [q], time := { s.time with placed := s.time.placed + 1 } } : State).beginExits r.hdr.bolts tau

/-- A refused command waits for its record, which follows the next hem's commits (R391). -/
def State.refuse (s : State) (r : Run) (st : Status) (detail bno : Nat) : State :=
  { s with runs := s.runs ++ [{ r with phase := .waiting, stop := some ⟨st, BitVec.ofNat 56 detail, bno⟩ }] }

/-- Pattern words of a run's image, for R233. -/
def State.ownWords (s : State) (r : Run) : List (Nat × Nat) :=
  match (s.sleeve (ownerNum r.hdr.owner)).bind fun v => v.patterns.find? fun p => p.handle == r.hdr.pattern with
  | some p => [(p.handle, p.words.length)]
  | none => []

/-- A stitch after every placement in the book. -/
def State.horizon (s : State) : Nat :=
  maxOf (s.time.stitch.toNat :: s.runs.flatMap fun r => r.place :: r.candidates) + 2

/-- A member's list joins the manager's table (R325): arrivals are the latest of any member. -/
def State.addList (s : State) (node : Nat) (m : Membership) (seqNo : Nat) (stitches arrivals : List Nat) : State :=
  let same (c : MgrColl) : Bool := c.membership == m && c.seqNo == seqNo && c.place.isNone
  let latest (a b : List Nat) : List Nat := (List.range (max a.length b.length)).map fun i => max (a.getD i 0) (b.getD i 0)
  let mine : Nat × List Nat := (node, stitches.take 16)
  let joined (c : MgrColl) : MgrColl :=
    { c with lists := (c.lists.filter fun x => x.1 != node) ++ [mine], arrivals := latest c.arrivals arrivals }
  let cs := s.domain.colls
  let new : List MgrColl :=
    if cs.any same then cs.map (fun c => if same c then joined c else c)
    else cs ++ [{ membership := m, seqNo := seqNo, lists := [mine], arrivals := arrivals }]
  { s with domain := { s.domain with colls := new } }

/-- A collective's candidates go to the manager that decides (R325), which may be this module. -/
def State.sendList (s : State) (m : Membership) (seqNo : Nat) (stitches arrivals : List Nat) : State :=
  if s.decides m then s.addList s.domain.node m seqNo stitches arrivals
  else s.emit (.channel0 (.candidates m seqNo stitches arrivals))

/-- Place a run again at costs that are known (R45, R305): in the earliest stitch up to its deadline that fits, else in the
earliest after it; its pockets are claimed for that stitch (R127). -/
def State.placeAgain (s : State) (r : Run) (costs : Sparse Nat) : State :=
  let s0 := s.dropRun r.id
  let from_ := max (s.time.stitch.toNat + 1) (s0.latestPred r.preds + 1)
  let claims := s0.claimsOf r
  let weigh (e : Nat) : Option State :=
    let t := (s0.claimIn r claims e).1
    if t.fitsIn r costs (s0.ownWords r) 0 e then some t else none
  match firstFit weigh (s0.horizon + 4096 - from_) from_ with
  | some (e, t) => t.enter r e costs 0
  | none => s0.enter r (max from_ s0.horizon) costs 0

end Sys2Proof.Machine
end

