-- ==== Sys2Proof/Machine/Reading.lean ====
section
/-! DEFINITION. Descriptor reads (R369, R370, R384 to R390): the sequence check, the checks and the placement of each queue
command, and KILL, which acts when it is read (R390, R413). -/
namespace Sys2Proof.Machine
open Sys2Proof

/-! ### What a sleeve's share is charged with (R404, R527) -/

/-- Pages that a sleeve is charged for. -/
def State.chargedPages (s : State) (v : Sleeve) : Nat :=
  sumOf ((v.leaves.filter fun l => decide (l.node = 0xFFFF ∨ l.node = s.domain.node)).map fun l => pageBytes l.code / 65536) +
  pages (tableCharge v.leaves) +
  sumOf ((boltsIn v.bolts).map fun b => sumOf ((s.bolt b).lanes.map fun l => pages l.2.size)) +
  sumOf ((s.patches.filter fun p => p.sleeve == v.id && !p.lost).map fun p => pages p.bytes) +
  sumOf (v.patterns.map fun p => pages p.bytes) + 256 + sumOf (v.e1Posts.map fun e => pages e.2.2)

/-- Pages left of a sleeve's share. -/
def State.pagesLeft (s : State) (v : Sleeve) : Nat := 16384 * v.memGib - s.chargedPages v

/-! ### Runs before they are placed -/

/-- The base that a command names: REG_PATCH by its descriptor, the rest by the header (R110, R384). -/
def baseNamed (h : QHdr) : QBody → Nat
  | .regPatch d _ => d.base
  | _ => h.base

/-- An alias as the committed pointer resolves it (R336). -/
def State.resolveBase (s : State) (b : Nat) : Nat := if 0xF000 ≤ b ∧ b ≤ 0xF0FF then look 0 s.bases.aliasMap b else b

/-- Whether a body is a patch registration, whose state takes the training recipes whatever its CLASS (log entry 99). -/
def isRegPatch : QBody → Bool
  | .regPatch _ _ => true
  | _ => false

/-- The run of a descriptor, its recipes fixed (R180) and its base resolved (R336). -/
def State.newRun (s : State) (h : QHdr) (body : QBody) (preds : List Nat) : Run :=
  let v := s.sleeve (ownerNum h.owner)
  { id := s.nextRun, hdr := h, body := body, submit := s.submitStitch, place := 0, phase := .waiting, preds := preds
    base := s.resolveBase (baseNamed h body)
    recipes := match v with | some v => if h.cls && !isRegPatch body then v.recServe else v.recTrain | none => [] }

/-- The base that a command names is READY here and not due for retirement, or it names none (R336, R338). -/
def State.baseOk (s : State) (named resolved : Nat) : Bool :=
  decide (named = 0) || (match s.slotOf resolved with
    | some n => decide ((s.slot n).state = .ready) && !s.bases.pendingRetire.contains resolved
    | none => false)

/-! ### Gradients and accumulators (R167, R168, R310) -/

/-- Admitted ADDs of a patch since its last admitted or committed DRAIN, with those committed (R168). -/
def State.addCount (s : State) (h : Nat) : Nat :=
  let c := match s.patch h with | some p => p.adds | none => 0
  s.runs.foldl (fun n r =>
    if r.stop = none ∧ r.grads.contains h = true then
      if r.hdr.gradMode = 1 then n + 1 else if r.hdr.gradMode = 2 then 0 else n
    else n) c

/-- Whether a patch that a command posts has an ADD since its last DRAIN, the command's own gradients (`own`) among them (R310). -/
def State.addsOpen (s : State) (r : Run) (own : List Nat) (h : Nat) : Bool :=
  if own.contains h && decide (r.hdr.gradMode ≠ 0) then decide (r.hdr.gradMode = 1) else decide (s.addCount h ≠ 0)

/-- Some admitted run writes a patch's accumulator or gradient region and the command is not ordered after it (R168). -/
def State.unorderedWriter (s : State) (preds : List Nat) (hs : List Nat) : Bool :=
  s.runs.any fun q => decide (q.stop = none) && hs.any q.regions.contains && !s.orderedAfter preds q.id

/-- Some admitted run uses a stack lane and the command is not ordered after it (R147). -/
def State.unorderedLane (s : State) (preds : List Nat) (ls : List Nat) : Bool :=
  s.runs.any fun q => decide (q.stop = none) && ls.any q.lanes.contains && !s.orderedAfter preds q.id

/-- Some admitted update names a patch of the list and the command is not ordered after it (R139). -/
def State.unorderedUpdate (s : State) (preds : List Nat) (hs : List Nat) : Bool :=
  s.runs.any fun q => decide (q.stop = none) && isUpdate q.body && hs.any q.patches.contains && !s.orderedAfter preds q.id

/-! ### RUN -/

/-- What all bolts' traces say of the command. -/
def gather (xs : List (Nat × Tr)) (f : Tr → List Nat) : List Nat := (xs.flatMap fun x => f x.2).eraseDups

/-- Lines of the statistics area (R192): a record for each tag, of its widest tensor, with a histogram where a hand-off of a
privileged tag holds one: patch gradients, reduced and two-ply tensors hold counts only (R191). -/
def statAreaLines (xs : List (Nat × Tr)) : Nat :=
  let tags := gather xs fun x => x.kinds.map (·.1)
  sumOf (tags.map fun t =>
    statLines (maxOf (xs.map fun x => look 0 x.2.chans t)) (xs.any fun x => x.2.stats.contains t && x.2.hists.contains t))

/-- The memberships that a command's collective words name (R216, R324): groups, and 256 + channel for the base's span; a
group with the span's members counts as the span. -/
def State.membershipsOf (s : State) (sl base : Nat) (xs : List (Nat × Tr)) : List Membership :=
  let span := match s.slotOf base with | some n => 256 + (s.slot n).spanChannel | none => 256
  let asSpan (g : Nat) : Bool := match s.slotOf base, s.group sl g with
    | some n, some x => decide (1 < (s.slot n).span) && (x.block.members.all (s.slot n).spanMembers.contains) &&
        (s.slot n).spanMembers.all x.block.members.contains
    | _, _ => false
  ((gather xs (·.groups)).map (fun g => if asSpan g then span else g) ++
    (if xs.any fun x => x.2.spans then [span] else [])).eraseDups

/-- Whether the command's base is spanned. -/
def State.baseSpanned (s : State) (base : Nat) : Bool :=
  match s.slotOf base with | some n => decide (1 < (s.slot n).span) | none => false

/-- Groups that the words of an image name. -/
def groupsNamed (ws : List PWord) : List Nat :=
  (ws.filterMap fun w =>
    let h := wordHdr w
    if h.cls = 7 then some (reduceWord w).group
    else if h.cls = 8 ∧ h.op = 1 ∧ (barrierWord w).span = false then some (barrierWord w).group else none).eraseDups

/-- The argument block against the image (R385, R387, R233). -/
def argsFault (p : Pattern) (h : QHdr) (a : ArgBlock) : Option Status :=
  let n := (boltsIn h.bolts).length
  if n < p.minBolts ∨ p.maxBolts < n then some 0x74
  else if h.argsLen ≠ 128 + 16 * a.novr then some 0x74
  else if (a.scalars.drop p.nscalars).any (· ≠ 0) then some 0x74
  else if a.overrides.any fun o => decide (p.cursors.length ≤ o.cursor) then some 0x74
  else if (a.overrides.map (·.cursor)).eraseDups.length ≠ a.overrides.length then some 0x74
  else none

/-- The statistics area against what the command hands off (R192). -/
def statsFault (v : Sleeve) (h : QHdr) (lines : Nat) : Option (Status × Nat) :=
  let ps := [(h.statsAddr.addr, 128 * lines)]
  if lines = 0 then none
  else if h.statsLen < 128 * lines ∨ h.statsAddr.addr % 128 ≠ 0 ∨ h.statsAddr.space = 0 then some (0x74, 0)
  else if h.statsAddr.space = 1 then v.spaceFault true ps else v.windowFault true ps

/-- A traced RUN with everything its reservation needs. -/
def State.traced (s : State) (r : Run) (xs : List (Nat × Tr)) : Run :=
  let lines := statAreaLines xs
  let inHost := decide (r.hdr.statsAddr.space = 2 ∧ lines ≠ 0)
  let inDev := decide (r.hdr.statsAddr.space = 1 ∧ lines ≠ 0)
  let grads := gather xs (·.gradPatches)
  { r with
    hostBytes := sumOf (xs.map fun x => x.2.hostBytes) + if inHost then 128 * lines else 0
    patches := gather xs (·.patches), regions := (grads ++ gather xs (·.posted)).eraseDups, grads := grads
    tenantRows := xs.any fun x => x.2.tenants
    windows := (gather xs (·.windows) ++ if inHost then [(windowOf r.hdr.statsAddr.addr).1] else []).eraseDups
    readGran := gather xs (·.reads)
    writeGran := (gather xs (·.writes) ++ if inDev then granules r.hdr.statsAddr.addr (128 * lines) else []).eraseDups
    lanes := gather xs (·.lanes), groups := gather xs (·.groups)
    priv := xs.foldl (fun m x => put 0 m x.1 x.2.stats.length) []
    coll := (s.membershipsOf (ownerNum r.hdr.owner) r.base xs).head? }

/-- Whether this module was removed from a span (R308, R322). -/
def State.spanLeft (s : State) (m : Membership) : Bool :=
  (List.range 4).any fun n => (s.slot n).spanGone && decide ((s.slot n).spanChannel + 256 = m)

/-- Whether a removal request bars collectives (R518). -/
def State.leaving (s : State) : Bool := decide (s.board.removal = .preparing ∨ s.board.removal = .safe)

/-- Each tag has one kind on every bolt (R177). -/
def oneKind (ks : List (Nat × Nat)) : Bool := ks.all fun k => ks.all fun q => k.1 != q.1 || k.2 == q.2

/-- What a traced RUN is refused for: status, DETAIL and bolt (R396), first failure first. -/
def State.traceFault (s : State) (v : Sleeve) (r : Run) (xs : List (Nat × Tr)) (preds : List Nat) : Option (Status × Nat × Nat) :=
  let grads := xs.map fun x => x.2.gradPatches.eraseDups
  let all := grads.flatten
  let writes := (all ++ gather xs (·.posted)).eraseDups
  let ms := s.membershipsOf v.id r.base xs
  let hostUse := gather xs (·.hostLines) ≠ [] || decide (r.hostBytes ≠ 0)
  let e1 := (xs.flatMap fun x => x.2.e1Posts).filter fun e => !(v.e1Posts.any fun k => k.1 == e.1 && k.2.1 == e.2.1)
  match xs.findSome? fun x => x.2.bad.map fun f => (x.1, f, x.2.badAddr) with
  | some (b, (st, w), a) => some (st, if st = 0x75 then w else if st = 0x10 ∨ st = 0x11 then a else 0, b)
  | none =>
    if oneKind (xs.flatMap fun x => x.2.kinds) = false then some (0x75, 0, 255)
    else if all.eraseDups.length ≠ all.length ∨ 1 < ms.length ∨ (xs.any (fun x => x.2.spans) && !s.baseSpanned r.base) = true then
      some (0x75, 0, 255)
    else if ms.any (s.spanLeft ·) ∨ (ms ≠ [] ∧ s.leaving = true) then some (0x66, 0, 255)
    else match statsFault v r.hdr (statAreaLines xs) with
      | some (st, a) => some (st, a, 255)
      | none =>
        if v.cxl = 0 ∧ hostUse = true then some (0x21, 0, 255)
        else if s.unorderedWriter preds writes then some (0x35, 0, 255)
        else if r.hdr.gradMode = 1 ∧ all.any (fun h => decide (63 ≤ s.addCount h)) = true then some (0x74, 0, 255)
        else if (gather xs (·.posted)).any (s.addsOpen r all) then some (0x79, 0, 255)
        else if s.unorderedLane preds r.lanes then some (0x79, 0, 255)
        else if s.pagesLeft v < sumOf (e1.map fun e => pages e.2.2) then some (0x21, 0, 255)
        else none

/-- What a command is refused for because no stitch could hold it (R29, R43, R113, R194, R403). -/
def State.tooLarge (s : State) (r : Run) (beads : List Nat) : Bool :=
  let t := s.ahead
  beads.any (fun b => decide (t.budget < b)) || decide (t.hostShare r.hdr.owner < r.hostBytes) ||
  decide (256 * s.shareBolts r.hdr.owner < r.patches.length) || r.priv.any fun p => decide (16 < p.2)

/-- The host page of a SPACE 2 address of an owner: window, PASID, page. An admin command's lies in the session PASID's space. -/
def State.hostPage (s : State) (o : Owner) (a : Nat) : Option (Nat × Nat × Nat) :=
  match o with
  | .admin => s.session.map fun x => (0, x.pasid, a / 4096)
  | .sleeve n => ((s.sleeve n).bind fun v => v.hostAddr a).map fun h => ((windowOf a).1, h.1, h.2 / 4096)

/-- The host pages of an owner's SPACE 2 addresses that have no translation, each with its window. -/
def State.missingPages (s : State) (o : Owner) (as : List Nat) : List (Nat × Nat × Nat) :=
  ((as.filterMap (s.hostPage o)).filter fun p => (s.atcFind p.2.1 p.2.2).isNone).eraseDups

/-- Whether an owner may write through a window. -/
def State.windowWrites (s : State) (o : Owner) (w : Nat) : Bool :=
  match o with
  | .admin => true
  | .sleeve n => match s.sleeve n with | some v => v.windows.any fun x => x.id == w && x.w | none => false

/-- Translations are requested for the host pages of a command that have none (R251); unless the host grants them at once,
the command waits for each. -/
def State.askPages (s : State) (r : Run) (as : List Nat) (granted : Bool) : State :=
  let miss := s.missingPages r.hdr.owner as
  let s1 := miss.foldl (fun s m => s.emit (.atsRequest m.2.1 m.2.2)) s
  if granted then s1
  else miss.foldl (fun (s : State) m => s.waitPage
    { group := 0, sleeve := ownerNum r.hdr.owner, pasid := m.2.1, page := m.2.2, write := s.windowWrites r.hdr.owner m.1, run := r.id
      window := m.1, stage := .asked }) s1

/-- The SPACE 2 addresses of a destination, one a page. -/
def destPages (d : Addr) (n : Nat) : List Nat :=
  if d.space = 2 ∧ n ≠ 0 then (List.range (ceilDiv n 4096 + 1)).map fun i => min (d.addr + 4096 * i) (d.addr + n - 1) else []

/-- Candidate stitches of a collective (R325): up to `n`, each reserved before the next is weighed. -/
def State.candidatesFrom (s : State) (weigh : State → Nat → Option (Sparse Nat × State)) :
    Nat → Nat → Nat → List (Nat × Sparse Nat) × State
  | 0, _, _ => ([], s)
  | fuel + 1, n, e =>
    if n = 0 then ([], s)
    else match weigh s e with
      | some (c, s1) =>
        let x := s1.candidatesFrom weigh fuel (n - 1) (e + 1)
        ((e, c) :: x.1, x.2)
      | none => s.candidatesFrom weigh fuel n (e + 1)

/-- The status of a RUN that no stitch up to its deadline takes (R43): 0x21 where its cost in each of them exceeds the budget of
a whole stitch on some bolt, else 0x20. -/
def State.notPlaced (s : State) (v : Sleeve) (r : Run) (a : ArgBlock) (p : Pattern) (claims : Nat → List Claim) (n from_ : Nat) : Status :=
  let large (e : Nat) : Bool := match s.priceRun v r a p claims e with
    | some (c, _) => c.any fun x => decide (s.ahead.budget < x.2)
    | none => true
  if n ≠ 0 ∧ ((List.range n).all fun i => large (from_ + i)) = true then 0x21 else 0x20

/-- Place a RUN whose checks have passed (R39), or list a collective's candidates (R325). `xs` is its trace without
pockets. -/
def State.placeRun (s : State) (v : Sleeve) (r : Run) (a : ArgBlock) (p : Pattern) (xs : List (Nat × Tr)) (tau : Nat) : State :=
  let claims := claimsIn xs
  let d := r.hdr.deadline
  match r.coll with
  | none =>
    let from_ := s.firstStitch r
    let n := r.submit + d + 1 - from_
    match firstFit (s.weighRun v r a p claims tau) n from_ with
    | some (e, c, s1) => s1.enter r e c tau
    | none => s.refuse r (s.notPlaced v r a p claims n from_) 0 255
  | some m =>
    let seqNo := look 0 s.domain.collSeq m
    let s0 : State := { s with domain := { s.domain with collSeq := put 0 s.domain.collSeq m (seqNo + 1) } }
    let from_ := max (s.submitStitch + 2) (s.firstStitch r)
    if s.domain.usedUp.contains (m, seqNo) then s0.refuse r 0x28 0 255
    else
      let arr := (xs.map fun x => x.2.collAt).foldl (fun acc l => if acc.length < l.length then l else acc) []
      let arrivals := (List.range arr.length).map fun i => maxOf (xs.map fun x => x.2.collAt.getD i 0)
      let r1 := { r with ownArrivals := arrivals, arrivals := arrivals }
      let cs := s0.candidatesFrom (fun s e => s.weighRun v r1 a p claims tau e) (r.submit + d + 1 - from_) 16 from_
      if cs.1 = [] then s0.refuse r (s0.notPlaced v r a p claims (r.submit + d + 1 - from_) from_) 0 255
      else
        let q := { r1 with phase := .candidate, candidates := cs.1.map (·.1), candCosts := cs.1.map (·.2), collSeq := seqNo }
        (({ cs.2 with runs := cs.2.runs ++ [q] } : State).beginExits r.hdr.bolts tau).sendList m seqNo q.candidates arrivals

/-- A RUN is weighed again by its trace, with no pocket. -/
def State.traceOf (s : State) (v : Sleeve) (r : Run) (a : ArgBlock) (p : Pattern) : List (Nat × Tr) :=
  s.trace v r a p (fun _ => []) fun _ => false

/-- Admission of a RUN (R231, R234, R385 to R387). -/
def State.admitRun (s : State) (r : Run) (a : ArgBlock) (pagesGranted : Bool) (tau : Nat) : State :=
  match s.sleeve (ownerNum r.hdr.owner) with
  | none => s.refuse r 0x7A 0 255
  | some v =>
    match v.patterns.find? fun p => p.handle == r.hdr.pattern with
    | none => s.refuse r 0x7A 0 255
    | some p =>
      let removed := s.groups.any fun g => g.sleeve == v.id && g.removed && (groupsNamed p.words).contains g.block.group
      if r.hdr.bolts &&& ~~~v.bolts ≠ 0 then s.refuse r 0x7B 0 255
      else match argsFault p r.hdr a with
        | some st => s.refuse r st 0 255
        | none =>
          if !s.baseOk r.hdr.base r.base then s.refuse r 0x3A 0 255
          else if removed then s.refuse r 0x66 0 255
          else
            let xs := s.traceOf v r a p
            let q := s.traced r xs
            match s.traceFault v q xs r.preds with
            | some (st, d, b) => s.refuse q st d b
            | none =>
              if s.tooLarge q [] then s.refuse q 0x21 0 255
              else
                let e1 := (xs.flatMap fun x => x.2.e1Posts).filter fun e => !(v.e1Posts.any fun k => k.1 == e.1 && k.2.1 == e.2.1)
                let s1 := s.updSleeve v.id fun v => { v with e1Posts := v.e1Posts ++ e1.eraseDups }
                let pages := gather xs (·.hostLines) ++ destPages r.hdr.statsAddr (128 * statAreaLines xs)
                let s2 := s1.askPages q pages pagesGranted
                if s2.mustWait q then { s2 with runs := s2.runs ++ [{ q with phase := .waiting }] }
                else s2.placeRun v q a p xs tau

/-- Place a command whose cost does not depend on its stitch (R39, R388). -/
def State.placeFixed (s : State) (r : Run) (tau : Nat) : State :=
  let from_ := s.firstStitch r
  let weigh (e : Nat) : Option Unit := if s.fitsIn r r.costs [] tau e then some () else none
  match firstFit weigh (r.submit + r.hdr.deadline + 1 - from_) from_ with
  | some (e, _) => s.enter r e r.costs tau
  | none => s.refuse r 0x20 0 255

/-- A command that waited in the book is placed: a RUN by its trace (R251). -/
def State.placeWaiting (s : State) (id tau : Nat) : State :=
  match s.findRun id with
  | none => s
  | some r =>
    match r.body, s.sleeve (ownerNum r.hdr.owner) with
    | .run a, some v =>
      match v.patterns.find? fun p => p.handle == r.hdr.pattern with
      | none => (s.dropRun id).refuse r 0x7A 0 255
      | some p => (s.dropRun id).placeRun v r a p (s.traceOf v r a p) tau
    | .run _, none => s
    | _, _ => (s.dropRun id).placeFixed r tau

/-- Between the acceptance of a stitch length and its edge the Reckoner reads no header and places no command, so that no
reservation is made under the old length (R24; log entry 115). -/
def State.lengthPending (s : State) : Bool := s.time.hem && s.time.lenNext.isSome

/-- Every command that waits in the book for nothing any more is placed, in the order of submission; each may free those that
wait for it. -/
def State.placeWaiters (s : State) (tau : Nat) : Nat → State
  | 0 => s
  | fuel + 1 => match s.runs.find? fun r => decide (r.phase = .waiting ∧ r.stop = none) && !s.mustWait r && !s.lengthPending with
    | some r => (s.placeWaiting r.id tau).placeWaiters tau fuel
    | none => s

/-! ### Other queue commands -/

/-- Bytes of a TELEMETRY report (R284, R331, R418, R471, R485), `len` the destination's length. -/
def State.telemetryBytes (s : State) (o : Owner) (kind len : Nat) : Nat :=
  match kind with
  | 0 => 3072
  | 1 => 64
  | 2 => 512 * (match o with | .admin => 16 | .sleeve n => (match s.sleeve n with | some v => (boltsIn v.bolts).length | none => 0))
  | 3 => 64 + 32 * minOf ((len - 64) / 32) [1024, s.rel.log.length + s.store.fatalRing.length]
  | _ => 5120

/-- Plaintext bytes of a patch's sealed image (R441): factors, darned layers, and optimiser state where it is trainable. -/
def patchPlain (p : Patch) : Nat := p.plain.length

/-- Host-write bytes and device granules of a command without a pattern. -/
def State.plainUse (s : State) (o : Owner) : QBody → Nat × List Nat × List Nat
  | .exportPatch h d _ =>
    match s.patch h with
    | none => (0, [], [])
    | some p =>
      let n := imageBytes (patchPlain p)
      if d.space = 2 then (n, [], [(windowOf d.addr).1]) else (0, granules d.addr n, [])
  | .telemetry k d len =>
    let n := s.telemetryBytes o k len
    if d.space = 2 then (n, [], [(windowOf d.addr).1]) else (0, granules d.addr n, [])
  | _ => (0, [], [])

/-- Patches that a command without a pattern references (R140). -/
def plainPatches : QBody → List Nat
  | .exportPatch h _ _ => [h]
  | _ => []

/-- Microseconds of ingest at 60 GB/s that a command waits for before it is placed (R388). -/
def ingestUs : QBody → Nat
  | .regPatch _ i => ceilDiv (imageBytes i.plain.length) 60000
  | .loadPattern _ n => ceilDiv n 60000
  | _ => 0

/-- The first stitch whose hem comes no sooner than `us` microseconds from `tau` into the present stitch. -/
def State.stitchAfter (s : State) (tau us : Nat) : Nat :=
  let len := s.time.len
  s.time.stitch.toNat + (if tau + us ≤ workUs len then 0 else ceilDiv (tau + us - workUs len) (stitchUs len))

/-- Whether a destination can take `n` bytes: its length, then the rights of its mapping or window (R231, R250); a
destination of the admin queue lies in the session PASID's space. -/
def State.destFault (s : State) (o : Owner) (a : Addr) (len n : Nat) : Option (Status × Nat) :=
  if len < n then some (0x74, 0)
  else match o with
    | .admin => if a.space = 2 then none else some (0x74, 0)
    | .sleeve k => match s.sleeve k with
      | none => some (0x7A, 0)
      | some v => if a.space = 1 then v.spaceFault true [(a.addr, n)]
          else if a.space = 2 then v.windowFault true [(a.addr, n)] else some (0x74, 0)

/-- What a command without a pattern is refused for by what it names: status and DETAIL. -/
def State.plainFault (s : State) (r : Run) : Option (Status × Nat) :=
  match r.body with
  | .exportPatch h d n => match s.patch h with
    | none => some (0x31, 0)
    | some p => if p.lost ∨ p.sleeve ≠ ownerNum r.hdr.owner then some (0x31, 0)
        else s.destFault r.hdr.owner d n (imageBytes (patchPlain p))
  | .telemetry k d n =>
    if k ≠ 2 ∧ r.hdr.owner ≠ Owner.admin then some (0x74, 0)
    else if k = 3 ∧ n < 64 then some (0x74, 0) else s.destFault r.hdr.owner d n (s.telemetryBytes r.hdr.owner k n)
  | .regPatch d _ => if s.baseOk d.base r.base && decide (d.base ≠ 0) then none else some (0x3A, 0)
  | _ => none

/-- The host pages that a command without a pattern writes (R251). -/
def State.plainPages (s : State) (o : Owner) : QBody → List Nat
  | .exportPatch h d _ => (match s.patch h with | some p => destPages d (imageBytes (patchPlain p)) | none => [])
  | .telemetry k d n => destPages d (s.telemetryBytes o k n)
  | _ => []

/-- A command that is checked is placed, or waits in the book (R39, R251). -/
def State.placeOrWait (s : State) (r : Run) (tau : Nat) : State :=
  if s.mustWait r then { s with runs := s.runs ++ [{ r with phase := .waiting }] } else s.placeFixed r tau

/-- Admission of a command that costs no bead (R388). -/
def State.admitPlain (s : State) (r : Run) (pagesGranted : Bool) (tau : Nat) : State :=
  let use := s.plainUse r.hdr.owner r.body
  let q := { r with
    hostBytes := use.1, writeGran := use.2.1, windows := use.2.2, patches := plainPatches r.body
    place := if ingestUs r.body = 0 then 0 else s.stitchAfter tau (ingestUs r.body) }
  match s.plainFault q with
  | some (st, d) => s.refuse q st d 255
  | none =>
    if s.tooLarge q [] then s.refuse q 0x21 0 255
    else (s.askPages q (s.plainPages r.hdr.owner r.body) pagesGranted).placeOrWait q tau

/-- What an UPDATE is refused for by the patches it names (R170, R389). -/
def State.updateFault (s : State) (r : Run) (u : UpdateBlock) (ps : List Nat) : Option Status :=
  let found := ps.map s.patch
  if found.any fun p => match p with | some p => p.lost || decide (p.sleeve ≠ ownerNum r.hdr.owner) | none => true then some 0x31
  else if found.any fun p => match p with | some p => !p.train || (decide (u.kind = 1) && !p.hasMom2) | none => true then some 0x74
  else none

/-- Lines of an update's statistics area (R192): one a tag of what it hands off (R190), patch-owned records having no
channels. -/
def updateLines (u : UpdateBlock) : Nat :=
  (((if u.kind = 1 then [4, 5, 9, 16] else [4, 9, 16]).map fun k => (Config.updateTag k).toNat).eraseDups).length

/-- Admission of an UPDATE: firmware supplies the pattern, whose price the manual does not give; it fits a stitch. -/
def State.admitUpdate (s : State) (r : Run) (u : UpdateBlock) (ps : List Nat) (pagesGranted : Bool) (tau : Nat) : State :=
  match s.sleeve (ownerNum r.hdr.owner) with
  | none => s.refuse r 0x7A 0 255
  | some v =>
    if r.hdr.bolts &&& ~~~v.bolts ≠ 0 then s.refuse r 0x7B 0 255
    else if r.hdr.bolts = 0 ∨ r.hdr.pattern ≠ 0 then s.refuse r 0x74 0 255
    else if !s.baseOk r.hdr.base r.base then s.refuse r 0x3A 0 255
    else match s.updateFault r u ps with
      | some st => s.refuse r st 0 255
      | none =>
        let f := s.fresh
        let s1 := f.2
        if s.unorderedUpdate r.preds ps then s.refuse r 0x35 0 255 else
        let beads := Config.updateBeads f.1 % (s1.ahead.budget + 1)
        let costs := (boltsIn r.hdr.bolts).foldl (fun m b => put 0 m b beads) []
        let lines := updateLines u
        let inHost := decide (r.hdr.statsAddr.space = 2 ∧ lines ≠ 0)
        let q := { r with
          patches := ps.eraseDups, costs := costs, hostBytes := if inHost then 128 * lines else 0
          windows := if inHost then [(windowOf r.hdr.statsAddr.addr).1] else []
          writeGran := if r.hdr.statsAddr.space = 1 ∧ lines ≠ 0 then granules r.hdr.statsAddr.addr (128 * lines) else [] }
        match statsFault v r.hdr lines with
        | some (st, a) => s1.refuse q st a 255
        | none =>
          if v.cxl = 0 ∧ inHost = true then s1.refuse q 0x21 0 255
          else if s1.tooLarge q [] then s1.refuse q 0x21 0 255
          else (s1.askPages q (destPages r.hdr.statsAddr (128 * lines)) pagesGranted).placeOrWait q tau

/-! ### KILL (R46, R390, R413) -/

/-- Stop a run for KILL or withdrawal; the statuses of R390: one that is withdrawn already keeps 0x22. -/
def State.killRun (s : State) (id : Nat) (st : Status) : State := s.stopRun id st 0 255

/-- A KILL is read: it acts at once and its own record comes in the next hem. -/
def State.readKill (s : State) (r : Run) (t : PredRef) : State :=
  match s.accepted r.hdr.owner t with
  | none => s.refuse r 0x76 0 255
  | some a =>
    match a.status, s.findRun a.run with
    | none, some x =>
      if x.coll.isSome then s.refuse r 0x79 0 255
      else
        let deps := s.dependents x.id
        let s1 := deps.foldl (fun s i => s.killRun i 0x22) (s.killRun x.id 0x23)
        s1.refuse r 0x00 0 255
    | _, _ => s.refuse r 0x00 0 255

/-! ### The read itself (R369, R370) -/

/-- Whether a queue has a slot that the Reckoner may read now (R41, R322, R346, R372, R392, R402, R403, R415). -/
def State.hasSlot (s : State) (o : Owner) (q : Sq) : Bool :=
  let room := match o with
    | .admin => decide (s.admHeaders < 128)
    | .sleeve n => match s.sleeve n with
      | some v => decide (v.headers < 120 * (boltsIn v.bolts).length ∧ v.stage = .none)
      | none => false
  let cqFull := (s.cqs o).any fun c => c.id == q.cq && c.full
  s.hostOpen && decide (s.dev.phase = .ready) && !q.stopped && decide (q.pi ≠ q.ci) && !cqFull && !s.dev.admitSuspended && !s.domain.resync && room &&
    decide (s.time.headers < 2048)

/-- Every submission queue with its owner. -/
def State.allSqs (s : State) : List (Owner × Sq) :=
  s.admSqs.map (fun q => (Owner.admin, q)) ++ s.sleeves.flatMap fun v => v.sqs.map fun q => (Owner.sleeve v.id, q)

/-- Whether one queue is taken before another (R41): the admin queue, then sleeves and their queues in rising number. -/
def takenBefore (a : Owner × Nat) (b : Owner × Nat) : Bool :=
  let k (o : Owner) : Nat := match o with | .admin => 0 | .sleeve n => n + 1
  decide (k a.1 < k b.1) || (decide (k a.1 = k b.1) && decide (a.2 < b.2))

/-- Whether the Reckoner reads a queue now: it has a slot, and no queue that comes before it has one (R41), but for one
whose slot waits to be read again (R370). -/
def State.readable (s : State) (o : Owner) (q : Sq) : Bool :=
  s.hasSlot o q && !s.lengthPending &&
  !(s.allSqs.any fun x => takenBefore (x.1, x.2.id) (o, q.id) && decide (x.2.retries = 0) && s.hasSlot x.1 x.2)

/-- The check of a header's SEQ against the queue (R369). -/
def Sq.accepts (q : Sq) (sq : BitVec 16) : Bool :=
  let adv := (sq - q.l).toNat
  (decide (1 ≤ adv) || decide (q.lastSeq = some sq)) && decide (adv ≤ (q.d - q.l).toNat)

/-- The queue after a descriptor of its next slot is accepted. -/
def Sq.consume (q : Sq) (sq : BitVec 16) : Sq :=
  let ci := (q.ci + 1) % q.size
  { q with l := sq, ci := ci, retries := 0, lastSeq := if ci = q.pi then none else some sq }

/-- Count a header read (R41, R402). -/
def State.countHeader (s : State) (o : Owner) : State :=
  let s1 := { s with time := { s.time with headers := s.time.headers + 1 } }
  match o with
  | .admin => { s1 with admHeaders := s1.admHeaders + 1 }
  | .sleeve n => s1.updSleeve n fun v => { v with headers := v.headers + 1 }

/-- An accepted descriptor is checked and placed, refused, or acts (R384 to R390). -/
def State.acceptCommand (s : State) (o : Owner) (queue slot : Nat) (bytes : List Byte) (aux : HostAux) : State :=
  let h := headerOf o queue slot bytes
  let op := fieldOf bytes 4 1
  let body := bodyOf op bytes aux
  let f := s.fresh
  let tau := if s.time.hem then 0 else Config.elapsed f.1 % (workUs s.time.len + 1)
  let id := s.nextRun
  let s1 := ({ f.2 with nextRun := id + 1 } : State).updAccepted o fun l => ⟨queue, slot, h.seq, id, none⟩ :: l
  let r0 := s.newRun h (body.getD .fence) []
  match descFault o op bytes h body with
  | some st => s1.refuse r0 st 0 255
  | none =>
    match s.predsOf o h.preds with
    | .error st => s1.refuse r0 st 0 255
    | .ok ids =>
      let r := { r0 with preds := ids }
      match r.body with
      | .run a => s1.admitRun r a aux.pagesGranted tau
      | .update u ps => s1.admitUpdate r u ps aux.pagesGranted tau
      | .kill t => s1.readKill r t
      | _ => s1.admitPlain r aux.pagesGranted tau

/-- A read of the next slot's two lines, the upper one first (R356, R369): accepted, or read again later (R370). -/
def State.readSlot (s : State) (o : Owner) (q : Sq) (bytes : List Byte) (aux : HostAux) : State :=
  let a := q.base + 128 * q.ci
  let s := (s.emit (.readCurr q.pasid (a + 64))).emit (.readCurr q.pasid a)
  let sq := BitVec.ofNat 16 (fieldOf bytes 0 2)
  if q.accepts sq then
    ((s.updSq o q.id fun q => q.consume sq).countHeader o).acceptCommand o q.id q.ci bytes aux
  else if q.retries < 16 then s.updSq o q.id fun q => { q with retries := q.retries + 1 }
  else
    let h := headerOf o q.id q.ci bytes
    let r := s.newRun h .fence []
    ({ s.refuse r 0x70 0 255 with nextRun := s.nextRun + 1 } : State).stopQueue o q.id 0x70 q.ci

/-- DESCRIPTOR_READ (R369): the Reckoner reads the queue's next slot. -/
def execDescriptorRead (o : Owner) (queue : Nat) (bytes : List Byte) (aux : HostAux) (s : State) :
    Host.Outcome State Fault Refusal :=
  .next (match (s.sqsOf o).find? fun q => q.id == queue with
  | none => s
  | some q => if s.readable o q && decide (q.retries = 0) then s.readSlot o q bytes aux else s)

/-- DESCRIPTOR_REREAD (R370): both lines again after 250 ns; the 16th failure posts 0x70 and stops the queue. -/
def execDescriptorReread (o : Owner) (queue : Nat) (bytes : List Byte) (aux : HostAux) (s : State) :
    Host.Outcome State Fault Refusal :=
  .next (match (s.sqsOf o).find? fun q => q.id == queue with
  | none => s
  | some q => if s.readable o q && decide (0 < q.retries) then s.readSlot o q bytes aux else s)

end Sys2Proof.Machine
end

