-- ==== Sys2Proof/Machine/Commit.lean ====
section
/-! DEFINITION. Completion of a queue command: its final status (R52, R197, R281, R298), its record (R393, R394), the
withdrawal of its dependents (R199, R386), and the commit of a RUN's basting (R27, R28, R183, R192, R199, R244). -/
namespace Sys2Proof.Machine
open Sys2Proof

/-! ### Completion -/

/-- What a command's commit gives its record: status (0x00 for success), DETAIL, failing bolt, HANDLE, and the host writes
of the commit. -/
structure Done where
  status : Status := 0
  detail : Nat := 0
  bolt : Nat := 255
  handle : Nat := 0
  writes : List Output := []
deriving DecidableEq, Repr

/-- Stitches past a run's deadline (R52). -/
def State.lateBy (s : State) (r : Run) : Nat := s.time.stitch.toNat - (r.submit + r.hdr.deadline)

/-- The status of a command that commits, before the numeric watch (R52, R281, R298). -/
def State.onTime (s : State) (r : Run) : Status :=
  if s.lateBy r ≠ 0 then (if r.lateCause.getLsbD 4 then 0x24 else 0x01)
  else if r.lateCause.getLsbD 5 then 0x02
  else if r.lateCause.getLsbD 6 then 0x03
  else 0x00

/-- Whether a status commits some effect (R395). -/
def commits (st : Status) : Bool :=
  [0x00, 0x01, 0x02, 0x03, 0x24, 0x40, 0x50, 0x51, 0x52, 0x53, 0x54, 0x55].contains st.toNat

/-- Whether a status commits the statistics alone (R199). -/
def discards (st : Status) : Bool := decide (st = 0x54 ∨ st = 0x55)

/-- The bolt with the largest admitted cost, the lowest on a tie; none for a command without a cost (R393). -/
def costBolt (costs : Sparse Nat) : Option Nat :=
  costs.foldl (fun acc e => match acc with
    | none => some e.1
    | some b => if look 0 costs b < e.2 then some e.1 else acc) none

/-- LATE_CAUSE of a record (R52, R53): bits [4:0] only when the command is late. -/
def reportedCause (late : Nat) (cause : BitVec 8) : BitVec 8 := if late = 0 then cause &&& 0x60 else cause &&& 0x7F

/-- A command's record (R393), with the watch bits of all that it handed off (R196, R197). -/
def State.recordOf (s : State) (r : Run) (st : Status) (d : Done) : CompRec :=
  let placed := decide (r.phase ≠ .waiting ∧ r.phase ≠ .candidate)
  let b := costBolt r.costs
  let late := if commits st then min (s.lateBy r) 4095 else 0
  { tag := r.hdr.tag, status := st, watch := watchSeen r.watch r.baste.stats, committed := commits st, late := late
    lateCause := if commits st then reportedCause late r.lateCause else r.lateCause &&& 0x60
    queue := r.hdr.queue, submit := r.submit, slot := r.hdr.slot
    delta := min (s.time.stitch.toNat - r.submit) 65535
    cost := if placed then (match b with | some b => look 0 r.costs b | none => 0) else 0
    measured := if placed then (match b with | some b => min (look 0 r.measured b) 65535 | none => 0) else 0
    handle := match r.body with | .run _ => r.base | .update _ _ => r.base | _ => d.handle
    bolt := if d.bolt ≠ 255 then d.bolt else if placed then b.getD 255 else 255
    detail := BitVec.ofNat 56 d.detail }

/-- Withdraw a command under 0x22: one that KILL has stopped reports 0x22 as well (R199, R386, R390). -/
def State.withdraw (s : State) (id : Nat) : State :=
  match s.findRun id with
  | none => s
  | some r =>
    match r.stop with
    | some st => if st.status = 0x23 then s.updRun id fun q => { q with stop := some { st with status := 0x22 } } else s
    | none => s.stopRun id 0x22 0 255

/-- The commands that depend on a failed one are withdrawn (R199, R386). -/
def State.withdrawAll (s : State) (id : Nat) : State := (s.dependents id).foldl State.withdraw s

/-- The completion queue of a run's submission queue. -/
def State.cqOf (s : State) (r : Run) : Nat :=
  match (s.sqsOf r.hdr.owner).find? fun q => q.id == r.hdr.queue with
  | some q => q.cq
  | none => 0

/-- What a command sent over the Seam is released when it commits, and dropped otherwise (R28, R282). -/
def State.releaseSent (s : State) (id : Nat) (committed : Bool) : State :=
  { s with domain := { s.domain with
      released := s.domain.released ++ if committed then (s.domain.sent.filter fun e => e.1 == id).map (·.2) else []
      sent := s.domain.sent.filter fun e => e.1 != id } }

/-- A command completes (R28, R386, R393): its record waits behind its host writes, its dependents are withdrawn where its
status does not meet them, and it leaves the book. -/
def State.complete (s : State) (r : Run) (st : Status) (d : Done) : State :=
  let s1 := if meetsPred st then s else s.withdrawAll r.id
  let s2 := s1.updAccepted r.hdr.owner fun l => l.map fun a => if a.run = r.id then { a with status := some st } else a
  let c : Commit :=
    { owner := r.hdr.owner, cq := s.cqOf r, issued := false, answered := d.writes.isEmpty, writes := d.writes, record := s.recordOf r st d }
  let s3 := (s2.dropRun r.id).releaseSent r.id (commits st && !discards st)
  { s3 with
    hif := { s3.hif with commits := s3.hif.commits ++ [c] }
    posts := s3.posts.filter fun p => p.run != r.id
    groups := s3.groups.map fun (g : Group) => { g with escs := g.escs.filter fun e => e.1 / 2 ^ 44 != r.id }
    time := { s3.time with commitsDone := s3.time.commitsDone + if commits st then 1 else 0 } }

/-- A command ends with nothing committed. -/
def State.fail (s : State) (r : Run) (st : Status) (detail bolt : Nat) : State :=
  s.complete r st { status := st, detail := detail, bolt := bolt }

/-! ### The commit of a RUN -/

/-- A basted device line becomes committed (R243, R244, R249). -/
def Sleeve.commitLine (v : Sleeve) (l : DevLine) : Sleeve :=
  { v with
    mem := memWrite v.mem (128 * l.line) l.bytes
    tags := put 0 v.tags l.line l.tag
    poison := if l.whole then v.poison.filter (· != l.line) else v.poison }

/-- The tweak of a delivered tenant line (R442). -/
def deliveryTweak (stitch : BitVec 48) (window off : Nat) : BitVec 128 :=
  BitVec.ofNat 128 (stitch.toNat * 2 ^ 80 + window % 16 * 2 ^ 76 + off / 128 % 2 ^ 37)

/-- A basted host-window line as a host write (R254, R442). -/
def hostWriteOf (wins : List Window) (stitch : BitVec 48) (l : HostLine) : Option Output :=
  (wins.find? fun w => w.id == l.window).map fun w =>
    .hostWrite w.pasid (w.base + l.off) l.bytes
      (if l.tag = 0 then none else some (l.tag.toNat, deliveryTweak stitch l.window l.off))

/-- Bytes written to a destination of a sleeve: its device memory under tag 0, or a host window (R192, R204); the lines wait
to be settled (R244), and a poisoned line written whole is so no longer (R249). -/
def State.deliver (s : State) (wins : List Window) (sl : Nat) (a : Addr) (bytes : List Byte) : State × List Output :=
  if bytes = [] then (s, [])
  else if a.space = 1 then
    ((s.updSleeve sl fun v => { v with
      mem := memWrite v.mem a.addr bytes
      tags := (linesOf a.addr bytes.length).foldl (fun t l => put 0 t l 0) v.tags
      poison := v.poison.filter fun l => !decide (a.addr ≤ 128 * l ∧ 128 * l + 128 ≤ a.addr + bytes.length) }).unsettle
      ((linesOf a.addr bytes.length).map fun l => (sl, l)), [])
  else match wins.find? fun w => w.id == (windowOf a.addr).1 with
    | some w => (s, [.hostWrite w.pasid (w.base + (windowOf a.addr).2) bytes none])
    | none => (s, [])

/-- A command's statistics area (R192). -/
def statArea (r : Run) (discarded : Bool) (stitch : BitVec 48) : List Byte :=
  r.baste.stats.flatMap fun x => statBytes x discarded stitch

/-- The history entry of a record (R183); none where no entry is added (R184). -/
def histEntry (x : StatRec) : Option (Option Int) :=
  if x.patchOwned || x.fixedByTenant || x.elements = 0 then none else some x.top.log2?

/-- Histories after a command's records (R183). -/
def addHistory (l : List TagHist) (stats : List StatRec) : List TagHist :=
  stats.foldl (fun l x => match histEntry x with | some e => histPush l x.tag e | none => l) l

/-- A patch's gradient region, accumulator and histories after a command (R167, R168, R183). -/
def Patch.commitGrads (p : Patch) (r : Run) : Patch :=
  let mine := r.baste.grads.filter fun g => g.1 == p.handle
  let accs := r.baste.accs.filter fun a => a.1 == p.handle
  { p with
    grad := mine.foldl (fun m g => put zero m g.2.1 g.2.2) p.grad
    accFace := accs.foldl (fun m a => put 0 m a.2.1 a.2.2.1) p.accFace
    accLining := accs.foldl (fun m a => put 0 m a.2.1 a.2.2.2) p.accLining
    adds := if r.grads.contains p.handle then
        (match r.hdr.gradMode with | 1 => p.adds + 1 | 2 => 0 | _ => p.adds)
      else p.adds
    hist := (r.baste.tops.filter fun t => t.1 == p.handle).foldl (fun l t => histPush l t.2.1 t.2.2.log2?) p.hist }

/-- The device-side commit of a RUN (R27): lines, lanes, histories, gradients, error memory, statistics; with its host
writes. `wins` are the sleeve's windows as the hem found them (R250). -/
def State.commitBasting (s : State) (wins : List Window) (r : Run) : State × List Output :=
  let sl := ownerNum r.hdr.owner
  let s1 := s.updSleeve sl fun v =>
    { r.baste.dev.foldl Sleeve.commitLine v with hist := addHistory v.hist r.baste.stats }
  let s2 := { s1.commitEntries r with
    patches := s1.patches.map fun p => p.commitGrads r
    groups := s1.groups.map fun g => if g.sleeve = sl then
        { g with err := (r.baste.errs.filter fun e => e.1 == g.block.group).foldl (fun m e => put 0 m e.2.1 e.2.2) g.err }
      else g }
  let s3 := r.baste.lanes.foldl (fun (s : State) l => s.updBolt (l.1 / 4) fun b =>
    { b with lanes := put {} b.lanes (l.1 % 4) l.2 }) s2
  let d := s3.deliver wins sl r.hdr.statsAddr (statArea r false s.time.stitch)
  (d.1, r.baste.host.filterMap (hostWriteOf wins s.time.stitch) ++ d.2)

/-- A RUN at its hem (R27, R28, R196 to R199): the numeric watch, the commit or the discard, and the record. -/
def State.commitRun (s : State) (wins : List Window) (r : Run) : State :=
  let w := watchSeen r.watch r.baste.stats
  let q := { r with watch := w }
  match watchDiscard r.hdr.watch w with
  | some st =>
    let d := s.deliver wins (ownerNum r.hdr.owner) r.hdr.statsAddr (statArea r true s.time.stitch)
    d.1.complete q st { status := st, writes := d.2 }
  | none =>
    let c := s.commitBasting wins r
    let st := (watchStatus w).getD (s.onTime r)
    c.1.complete q st { status := st, writes := c.2 }

end Sys2Proof.Machine
end

