-- ==== Sys2Proof/Machine/PatchState.lean ====
section
/-! DEFINITION. A patch's stored state: the tensors of its plaintext (R114, R134, R441), reading them at registration, and
the optimiser step that an UPDATE commits (R170 to R176). -/
namespace Sys2Proof.Machine
open Sys2Proof

/-! ### Tensors of a patch -/

/-- A tensor among a patch's elements: first element, elements, stored format, darned or factor. -/
structure Tens where
  off : Nat
  n : Nat
  fmt : Nat
  darn : Bool
deriving DecidableEq, Repr

/-- The tensors of a patch in the order of its plaintext: A and B of each target layer, then the darned layers (R441). -/
def State.tensors (s : State) (p : Patch) : List Tens :=
  ((s.places p 0 p.layers).flatMap fun e =>
    [⟨e.2.off, e.2.rs * e.2.k, e.2.fmt, false⟩, ⟨e.2.off + e.2.rs * e.2.k, e.2.n * e.2.rs, e.2.fmt, false⟩]) ++
  (s.darnPlaces p (s.factorElems p) p.darns).map fun d =>
    ⟨d.2.1, d.2.2, (match s.layerOf p.base d.1.layer with | some e => e.fmt | none => 0), true⟩

/-- Bytes of `n` elements of a format with their MX scales, which follow the elements (R114). -/
def tensBytes (f n : Nat) : Nat := rowBytes f n + (if isMx f then ceilDiv n 32 else 0)

/-- Elements of a list of tensors. -/
def tensElems (ts : List Tens) : Nat := sumOf (ts.map (·.n))

/-- Plaintext bytes of a patch (R441): factors and darned layers, then for a trainable patch masters, m, and u where it has
a second moment; `f1` and `f2` the moments' formats. -/
def plainLength (ts : List Tens) (train second : Bool) (f1 f2 : Nat) : Nat :=
  sumOf (ts.map fun t => tensBytes t.fmt t.n) +
  if train then 4 * tensElems ts + sumOf (ts.map fun t => tensBytes f1 t.n) +
      (if second then sumOf (ts.map fun t => tensBytes f2 t.n) else 0)
  else 0

/-- Bytes of a patch's region (R171, R404): its plaintext's state, accumulators, and the gradient region of format `g`. -/
def regionBytes (ts : List Tens) (train second : Bool) (f1 f2 g : Nat) : Nat :=
  plainLength ts train second f1 f2 + if train then 4 * tensElems ts + sumOf (ts.map fun t => tensBytes g t.n) else 0

/-- The values of one stored tensor. -/
def readTens (f n : Nat) (bytes : List Byte) (scale : Nat) : List Num :=
  let bits := unpackRow f n (bytes.take (rowBytes f n))
  let sc := bytes.drop (rowBytes f n)
  bits.zipIdx.map fun e => readElem f e.1 (if isMx f then (sc.getD (e.2 / 32) 0).toNat else scale)

/-- Read tensors of formats `fs` one after another, giving the values with the bytes and scales left. -/
def readAll : List (Nat × Nat) → List Byte → List (BitVec 8) → List Num × List Byte × List (BitVec 8)
  | [], l, sc => ([], l, sc)
  | (f, n) :: ts, l, sc =>
    let v := readTens f n l ((sc.headD 0x7F).toNat)
    let r := readAll ts (l.drop (tensBytes f n)) (if isMx f then sc else sc.drop 1)
    (v ++ r.1, r.2)

/-- Set elements `off`, `off + 1`, … of a sparse map. -/
def setMany {α : Type} [DecidableEq α] (d : α) : Sparse α → Nat → List α → Sparse α
  | m, _, [] => m
  | m, off, v :: vs => setMany d (put d m off v) (off + 1) vs

/-- A patch filled from its plaintext. -/
def State.fillPatch (s : State) (p : Patch) (plain : List Byte) (scales : List (BitVec 8)) (f1 f2 : Nat) : Patch :=
  let ts := s.tensors p
  let n := tensElems ts
  let a := readAll (ts.map fun t => (t.fmt, t.n)) plain scales
  let q := { p with copy := setMany zero [] 0 a.1, plain := plain }
  if !p.train then q
  else
    let ms := a.2.1
    let pair (i : Nat) : Nat := fieldOf ms (4 * i) 4
    let m := readAll (ts.map fun t => (f1, t.n)) (ms.drop (4 * n)) a.2.2
    let u := if p.hasMom2 then (readAll (ts.map fun t => (f2, t.n)) m.2.1 m.2.2).1 else []
    { q with
      face := setMany 0 [] 0 ((List.range n).map fun i => BitVec.ofNat 16 (pair i / 65536))
      lining := setMany 0 [] 0 ((List.range n).map fun i => BitVec.ofNat 16 (pair i))
      mom1 := setMany zero [] 0 m.1, mom2 := setMany zero [] 0 u }

/-- The lines of a patch's region that its registration or an update writes (R243), all of its bytes. -/
def stateLines (h bytes : Nat) : List (Nat × Nat) := patchLines h 2 1024 (List.range (ceilDiv bytes 128))

/-! ### The optimiser step (R172 to R174) -/

/-- One, as a tally. -/
def oneNum : Num := .fin false 1 0

/-- A product rounded to the tally. -/
def tallyMul (a b : Num) : Num := toTally (a.mul b)

/-- A power by repeated squaring, each product rounded to the tally (log entry 30). -/
def tallyPow : Nat → Num → Nat → Num
  | 0, _, _ => oneNum
  | f + 1, b, n =>
    if n = 0 then oneNum
    else
      let h := tallyPow f (tallyMul b b) (n / 2)
      if n % 2 = 1 then tallyMul b h else h

/-- A BF16 parameter's value. -/
def bfNum (b : BitVec 16) : Num := decodeBits 0 b.toNat

/-- `1 − a` in the tally. -/
def oneMinus (a : Num) : Num := tallyAdd oneNum a.neg

/-- b1 and b2 of R172. -/
def biasFactors (u : UpdateBlock) : Num × Num :=
  let f (b : BitVec 16) : Num := oneMinus (tallyPow 33 (oneMinus (bfNum b)) u.step)
  (recip (f u.omb1), recip (sqrtFn (f u.omb2)))

/-- The L2 norm of γ·g over a patch's gradient (R172): partial sums over equal ranges of elements, one a bolt, added in
bolt order (log entry 30). -/
def clipNorm (g : Nat → Num) (gamma : Num) (n bolts : Nat) : Num :=
  let len := max 1 (ceilDiv n (max 1 bolts))
  let part (b : Nat) : Num := (List.range (min len (n - b * len))).foldl (fun acc i =>
    let x := tallyMul gamma (g (b * len + i))
    tallyAdd acc (tallyMul x x)) zero
  sqrtFn ((List.range (max 1 bolts)).foldl (fun acc b => tallyAdd acc (part b)) zero)

/-- c of R172. -/
def clipFactor (u : UpdateBlock) (g : Nat → Num) (n bolts : Nat) : Num :=
  if u.clipEn then minMax false oneNum (divFn (bfNum u.clip) (clipNorm g (bfNum u.gscale) n bolts)) else oneNum

/-- Steps 1 to 7 of R173 on one element: δ, m and u. -/
def optStep (u : UpdateBlock) (b1 b2 c : Num) (darn : Bool) (f g m r : Num) : Num × Num × Num :=
  let o1 := bfNum u.omb1
  let g1 := tallyMul (tallyMul (bfNum u.gscale) c) g
  let decay (q : Num) : Num := if darn && !u.decayDarn then q else tallyAdd q (tallyMul (bfNum u.decay) f)
  let delta (q : Num) : Num := (tallyMul (bfNum u.lr) (decay q)).neg
  if u.kind = 1 then
    let o2 := bfNum u.omb2
    let m1 := tallyAdd (tallyMul (oneMinus o1) m) (tallyMul o1 g1)
    let v := tallyAdd (tallyMul (oneMinus o2) (tallyMul r r)) (tallyMul o2 (tallyMul g1 g1))
    let u1 := sqrtFn v
    (delta (divFn (tallyMul b1 m1) (tallyAdd (tallyMul b2 u1) (bfNum u.eps))), m1, u1)
  else
    let m1 := tallyAdd (tallyMul (oneMinus o1) m) g1
    (delta m1, m1, r)

/-- One element after steps 1 to 8: face, lining, m, u, and whether it was left unchanged (R174). -/
structure UpdElem where
  face : BitVec 16
  lining : BitVec 16
  m : Num
  u : Num
  kept : Bool
deriving DecidableEq, Repr

/-- Steps 1 to 8 over one tensor (R173, R174). -/
def updTensor (u : UpdateBlock) (b1 b2 c : Num) (p : Patch) (t : Tens) : List UpdElem :=
  (List.range t.n).map fun i =>
    let e := t.off + i
    let face := look 0 p.face e
    let lining := look 0 p.lining e
    let m := look zero p.mom1 e
    let r := look zero p.mom2 e
    let d := optStep u b1 b2 c t.darn (decodeBits 0 face.toNat) (look zero p.grad e) m r
    match twoPlyAdd d.1 face lining with
    | none => ⟨face, lining, m, r, true⟩
    | some x => ⟨x.1, x.2, d.2.1, d.2.2, false⟩

/-! ### Hand-offs of an update (R173 step 9, R175) -/

/-- A tensor handed off by an update: its bytes, the values it reads back as, and its record. -/
structure UpdHand where
  bytes : List Byte
  vals : List Num
  scale : Option (BitVec 8)
  stat : StatRec
  clamped : Bool
  bolt : Bolt
deriving DecidableEq, Repr

/-- The hand-off of one tensor of `vals` under format `f` and plain exponent `x`. DESIGN CHOICE (log entry 114): an MX moment of a
factor whose rows are no multiple of 32 long is blocked across its rows. -/
def handTens (r : Run) (bno : Nat) (b : Bolt) (stitch : BitVec 48) (kind f : Nat) (rcp : Recipe) (stochastic : Bool)
    (x : Int × Bool) (vals : List Num) : UpdHand :=
  let e : Int := if isMx f then 0 else x.1
  let h := handRow f rcp.margin e ⟨bno, stitch, fun _ => laneUnitUpdate, stochastic⟩ b 0 vals
  let blank : StatRec :=
    { tag := (Config.updateTag kind).toNat, kind := kind, cls := r.hdr.cls, fmt := f
      scale := if isMx f then 0 else BitVec.ofNat 8 (scaleByte e), patchOwned := true, satLog := rcp.satLog }
  { bytes := packRow f (h.1.elems.map (·.1)) ++ h.1.scales.map (BitVec.ofNat 8 ·)
    vals := readBack f e h.1
    scale := if isMx f then none else some (BitVec.ofNat 8 (scaleByte e))
    stat := countRow blank false (List.zip (h.1.elems.map (·.2)) vals) 0
    clamped := h.1.clamped || (!isMx f && x.2)
    bolt := h.2 }

/-- A moment's hand-off: the moment recipe's format and scale mode, with the patch's history (R173, R182, R183). -/
def handMoment (r : Run) (bno : Nat) (b : Bolt) (stitch : BitVec 48) (p : Patch) (kind : Nat) (vals : List Num) : UpdHand :=
  let rcp := r.recipe kind
  let f := rcp.format
  handTens r bno b stitch kind f rcp rcp.stochastic
    (plainScale rcp f (histOf p.hist (Config.updateTag kind).toNat) (amaxOf vals) false) vals

/-- A compute copy's hand-off (R175): nearest even, the scale by the base layer's format. -/
def handCopy (r : Run) (bno : Nat) (b : Bolt) (stitch : BitVec 48) (f : Nat) (vals : List Num) : UpdHand :=
  let rcp := r.recipe 9
  handTens r bno b stitch 9 f rcp false (if f = 0 then (0, false) else plainScale rcp f [] (amaxOf vals) false) vals

/-- What the update of one patch makes. -/
structure PatchUpd where
  patch : Patch
  bolt : Bolt
  stats : List StatRec
  watch : BitVec 8
deriving DecidableEq, Repr

/-- Hand off one tensor after another, the bolt's draws going on. -/
def handEach (k : Bolt → Tens → List Num → UpdHand) : Bolt → List (Tens × List Num) → List UpdHand × Bolt
  | b, [] => ([], b)
  | b, (t, vs) :: rest =>
    let h := k b t vs
    let r := handEach k h.bolt rest
    (h :: r.1, r.2)

/-- The update of one patch (R172 to R175): new masters, moments and compute copies, the version one higher; each tag that
it writes takes one history entry (R183). DESIGN CHOICE (log entry 114): the record of the two-ply masters shows KIND 9. -/
def State.updatePatch (s : State) (r : Run) (u : UpdateBlock) (bno : Nat) (b : Bolt) (p : Patch) : PatchUpd :=
  let ts := s.tensors p
  let n := tensElems ts
  let bf := biasFactors u
  let c := clipFactor u (fun e => look zero p.grad e) n (boltsIn r.hdr.bolts).length
  let els := ts.map fun t => (t, updTensor u bf.1 bf.2 c p t)
  let all := els.flatMap (·.2)
  let st := s.time.stitch
  let hm := handEach (fun b _ vs => handMoment r bno b st p 4 vs) b (els.map fun e => (e.1, e.2.map (·.m)))
  let hu := if u.kind = 1 then handEach (fun b _ vs => handMoment r bno b st p 5 vs) hm.2 (els.map fun e => (e.1, e.2.map (·.u)))
    else ([], hm.2)
  let hc := handEach (fun b t vs => handCopy r bno b st t.fmt vs) hu.2
    (els.map fun e => (e.1, e.2.map fun x => decodeBits 0 x.face.toNat))
  let keep (hs : List UpdHand) (old : Nat → Num) : List Num :=
    ((hs.flatMap (·.vals)).zip all).zipIdx.map fun e => if e.1.2.kept then old e.2 else e.1.1
  let kept := (all.filter (·.kept)).length
  let hands := hc.1 ++ hm.1 ++ hu.1
  let stats := hands.foldl (fun l h => addStat l h.stat) []
  let plies : StatRec := { tag := (Config.updateTag 16).toNat, kind := 9, cls := r.hdr.cls, fmt := 10, patchOwned := true, nonfinite := kept }
  let records := addStat stats plies
  let u2 := if u.kind = 1 then setMany zero [] 0 (keep hu.1 fun i => look zero p.mom2 i) else p.mom2
  let oldU := if u.kind = 1 then hu.1.flatMap (·.bytes) else
    p.plain.drop (p.plain.length - (if p.hasMom2 then sumOf (ts.map fun t => tensBytes (r.recipe 5).format t.n) else 0))
  { patch := { p with
      version := p.version + 1
      face := setMany 0 [] 0 (all.map (·.face)), lining := setMany 0 [] 0 (all.map (·.lining))
      mom1 := setMany zero [] 0 (keep hm.1 fun i => look zero p.mom1 i), mom2 := u2
      copy := setMany zero [] 0 (hc.1.flatMap (·.vals))
      hist := stats.foldl (fun l x => histPush l x.tag x.top.log2?) p.hist
      plain := hc.1.flatMap (·.bytes) ++ (all.flatMap fun x => leBytes 4 (x.face.toNat * 65536 + x.lining.toNat)) ++
        hm.1.flatMap (·.bytes) ++ (if p.hasMom2 then oldU else []) }
    bolt := hc.2, stats := records
    watch := seen (seen (seen 0 0 (hands.any fun h => decide (0 < h.stat.nonfinite))) 1 (decide (0 < kept))) 3 (hands.any (·.clamped)) }

/-- Pockets after an update of a patch (R130): older versions lose their valid bit, and every copy that a later stitch
pins takes a refresh fill in the next stitch. -/
def State.refreshPockets (s : State) (h : Nat) : State :=
  let now := s.time.stitch.toNat
  s.updBolts (List.range 16) fun _ b => { b with
    pockets := b.pockets.map fun k =>
      if k.2.patch = h ∧ k.2.valid = true then
        (k.1, { k.2 with valid := false, fillFor := if now < k.2.pinned then now + 1 else k.2.fillFor })
      else k }

/-- The updates of a command's patches in list order. -/
def State.updateEach (s : State) (r : Run) (u : UpdateBlock) (bno : Nat) : Bolt → List Nat → List PatchUpd × Bolt
  | b, [] => ([], b)
  | b, h :: hs =>
    match s.patch h with
    | none => s.updateEach r u bno b hs
    | some p =>
      let x := s.updatePatch r u bno b p
      let rest := s.updateEach r u bno x.bolt hs
      (x :: rest.1, rest.2)

/-- The beads that a command without words of its own measures on each of its bolts (R38): an amount of time, no more than its
price (log entry 10). -/
def State.measure (s : State) (r : Run) : Run × State :=
  (boltsIn r.hdr.bolts).foldl (fun (x : Run × State) b =>
    let f := x.2.fresh
    ({ x.1 with measured := put 0 x.1.measured b (min (look 0 r.costs b) (Config.elapsed f.1)) }, f.2)) (r, s)

/-- An UPDATE at its hem (R170 to R176, R196 to R199): all its patches as one unit. -/
def State.commitUpdate (s : State) (wins : List Window) (r : Run) (u : UpdateBlock) (ps : List Nat) : State :=
  match s.updateFault r u ps with
  | some st => s.fail r st 0 255
  | none =>
    let m := s.measure r
    let s := m.2
    let r := m.1
    let bno := (boltsIn r.hdr.bolts).headD 0
    let x := s.updateEach r u bno (s.bolt bno) ps.eraseDups
    let stats := (x.1.flatMap (·.stats)).foldl addStat []
    let w := watchSeen (x.1.foldl (fun w p => w ||| p.watch) 0) stats
    let q := { r with watch := w, baste := { r.baste with stats := stats } }
    let sl := ownerNum r.hdr.owner
    match watchDiscard r.hdr.watch w with
    | some st =>
      let d := s.deliver wins sl r.hdr.statsAddr (statArea q true s.time.stitch)
      d.1.complete q st { status := st, writes := d.2 }
    | none =>
      let s1 := x.1.foldl (fun (s : State) p =>
        ((s.updPatch p.patch.handle fun _ => p.patch).refreshPockets p.patch.handle).unsettle (stateLines p.patch.handle p.patch.bytes))
        (s.setBolt bno x.2)
      let d := s1.deliver wins sl r.hdr.statsAddr (statArea q false s.time.stitch)
      d.1.complete q ((watchStatus w).getD (s.onTime r)) { writes := d.2 }

end Sys2Proof.Machine
end

