-- ==== Sys2Proof/Machine/QueueCmds.lean ====
section
/-! DEFINITION. Queue commands at their commit (R388, R389): each row is the command's effect in the hem of its stitch, with
its completion record (log entry 8). -/
namespace Sys2Proof.Machine
open Sys2Proof

/-! ### A row and its run -/

/-- The opcode of a body (R389). -/
def opOf : QBody → Nat
  | .run _ => 0x01
  | .update _ _ => 0x02
  | .kill _ => 0x03
  | .fence => 0x04
  | .regTenant _ _ => 0x10
  | .deregTenant _ => 0x11
  | .regPatch _ _ => 0x12
  | .deregPatch _ => 0x13
  | .exportPatch _ _ _ => 0x14
  | .loadPattern _ _ => 0x18
  | .freePattern _ => 0x19
  | .setRecipe _ _ _ => 0x1A
  | .configStack _ _ _ => 0x1B
  | .map _ _ _ _ _ => 0x20
  | .unmap _ _ => 0x21
  | .setWindow _ _ _ _ _ _ => 0x22
  | .clearWindow _ => 0x23
  | .createGroup _ => 0x28
  | .destroyGroup _ => 0x29
  | .snapshot _ _ _ => 0x30
  | .snapshotDomain _ _ _ => 0x30
  | .telemetry _ _ _ => 0x31
  | .setStitch _ => 0x40
  | .setFloor _ => 0x41
  | .openIngest _ _ _ => 0x42

/-- Whether the command's queue takes it (R389). -/
def onItsQueue (h : QHdr) (b : QBody) : Bool :=
  match opcodeQueues (opOf b) with
  | some q => if h.owner = .admin then q.2 else q.1
  | none => false

/-- What a row is refused for by its descriptor alone (R385, R388, R396). -/
def rowRefusal (h : QHdr) (b : QBody) : Option Status :=
  if !onItsQueue h b then some 0x73
  else if h.reserved then some 0x72
  else if h.deadline = 0 ∨ 4095 < h.deadline then some 0x74
  else if bodyOnBolts b = false ∧ (h.bolts ≠ 0 ∨ h.pattern ≠ 0) then some 0x74
  else bodyFault b

/-- The placed run that a row's header names. -/
def State.placedRun (s : State) (h : QHdr) : Option Run :=
  s.runs.find? fun r =>
    decide (r.hdr.owner = h.owner ∧ r.hdr.queue = h.queue ∧ r.hdr.slot = h.slot ∧ r.hdr.seq = h.seq ∧ r.stop = none) &&
    decide (r.phase ≠ .waiting ∧ r.phase ≠ .candidate)

/-- The run of a row: the one in the book, else a command submitted and placed in the present stitch (log entry 8). -/
def State.runOf (s : State) (h : QHdr) (b : QBody) : Run × State :=
  match s.placedRun h with
  | some r => (r, s)
  | none =>
    ({ s.newRun h b [] with place := s.time.stitch.toNat, phase := .placed }, { s with nextRun := s.nextRun + 1 })

/-- A destination's addresses, one a page. -/
def pageAddrs (a n : Nat) : List Nat := if n = 0 then [] else (List.range (ceilDiv n 4096 + 1)).map fun i => min (a + 4096 * i) (a + n - 1)

/-- SPACE 2 addresses that a command's commit writes. -/
def State.hostTargets (s : State) (r : Run) : List Nat :=
  let out (d : Addr) (n : Nat) : List Nat := if d.space = 2 then pageAddrs d.addr n else []
  (r.baste.host.map fun l => l.window * 2 ^ 44 + l.off) ++
  (if r.baste.stats = [] then [] else out r.hdr.statsAddr (statArea r false s.time.stitch).length) ++
  match r.body with
  | .exportPatch h d _ => (match s.patch h with | some p => out d (imageBytes (patchPlain p)) | none => [])
  | .telemetry k d n => out d (s.telemetryBytes r.hdr.owner k n)
  | _ => []

/-- The first address that a commit writes without a valid translation (R253), through the windows `wins`; an admin command writes in
the session PASID's space. -/
def State.unmapped (s : State) (wins : List Window) (r : Run) : Option Nat :=
  let page (a : Nat) : Option (Nat × Nat) := match r.hdr.owner with
    | .admin => s.session.map fun x => (x.pasid, a / 4096)
    | .sleeve _ => (wins.find? fun w => w.id == (windowOf a).1).map fun w => (w.pasid, (w.base + (windowOf a).2) / 4096)
  (s.hostTargets r).find? fun a =>
    match page a with
    | none => false
    | some p => match s.atcFind p.1 p.2 with
      | some e => !e.w
      | none => true

/-- The windows of the run's sleeve. -/
def State.winsOf (s : State) (r : Run) : List Window :=
  match s.sleeve (ownerNum r.hdr.owner) with
  | some v => v.windows
  | none => []

/-- A command's commit, where every host page that it writes has a valid translation (R253). -/
def State.committing (s : State) (r : Run) (k : State) : State :=
  match s.unmapped (s.winsOf r) r with
  | some a => s.fail r 0x12 a 255
  | none => k

/-- A queue command's row: refused by its descriptor, or its commit `k`. -/
def State.commandRow (s : State) (h : QHdr) (b : QBody) (k : State → Run → State) : State :=
  let x := s.runOf h b
  match rowRefusal h b with
  | some st => x.2.fail x.1 st 0 255
  | none => x.2.committing x.1 (k x.2 x.1)

/-- A command completes with its effect done. -/
def State.done (s : State) (r : Run) (d : Done) : State := s.complete r (s.onTime r) d

/-- A command of a sleeve, given the sleeve. -/
def State.onSleeve (s : State) (r : Run) (k : Sleeve → State) : State :=
  match s.sleeve (ownerNum r.hdr.owner) with
  | none => s.fail r 0x7A 0 255
  | some v => k v

/-- Whether another admitted, uncommitted command meets a test. -/
def State.otherRun (s : State) (r : Run) (p : Run → Bool) : Bool :=
  s.runs.any fun q => q.id != r.id && decide (q.stop = none) && p q

/-- FENCE (R389): commits nothing; a join of predecessors. -/
def State.commitFence (s : State) (r : Run) : State := s.done r {}

/-- FENCE. -/
def execFence (h : QHdr) (s : State) : Host.Outcome State Fault Refusal :=
  .next (s.commandRow h .fence State.commitFence)

/-! ### RUN, UPDATE and KILL -/

/-- RUN (R389): with its run in the book, the command starts on its bolts in the working part of its stitch and commits in
the hem; with none in the book it is admitted as if read now. -/
def execRun (h : QHdr) (args : ArgBlock) (s : State) : Host.Outcome State Fault Refusal :=
  .next (match s.placedRun h with
  | some r =>
    if r.place ≠ s.time.stitch.toNat then s
    else if !s.time.hem then (boltsIn r.hdr.bolts).foldl State.beginNext s
    else if r.phase = .finished then s.committing r (s.commitRun (s.winsOf r) r) else s
  | none =>
    match rowRefusal h (.run args) with
    | some st => ({ s with nextRun := s.nextRun + 1 } : State).refuse (s.newRun h (.run args) []) st 0 255
    | none => ({ s with nextRun := s.nextRun + 1 } : State).admitRun (s.newRun h (.run args) []) args true 0)

/-- UPDATE (R170 to R176). -/
def execUpdate (h : QHdr) (block : UpdateBlock) (patches : List Nat) (s : State) : Host.Outcome State Fault Refusal :=
  .next (s.commandRow h (.update block patches) fun s r =>
    if (s.placedRun h).isNone && s.unorderedUpdate r.preds patches then s.fail r 0x35 0 255
    else s.commitUpdate (s.winsOf r) r block patches)

/-- KILL (R46, R390, R413). -/
def execKill (h : QHdr) (target : PredRef) (s : State) : Host.Outcome State Fault Refusal :=
  .next (match rowRefusal h (.kill target) with
  | some st => ({ s with nextRun := s.nextRun + 1 } : State).refuse (s.newRun h (.kill target) []) st 0 255
  | none => ({ s with nextRun := s.nextRun + 1 } : State).readKill (s.newRun h (.kill target) []) target)

/-! ### Tenants -/

/-- KEYGEN's owner number of a tenant (R247, R435): after the 21 owners of a leaf entry. -/
def tenantOwner (t : Nat) : Nat := 32 + t

/-- The next key set of a memory-key owner (R435). -/
def State.newKeySet (s : State) (owner : Nat) : Nat × State :=
  let g := (look 0 s.memSide.keygens owner + 1) % 16
  (g, { s with memSide := { s.memSide with keygens := put 0 s.memSide.keygens owner g } })

/-- A key of a kind that a sleeve may name. -/
def State.keyOf (s : State) (handle kind sl : Nat) : Option KeyRec :=
  s.sec.keys.find? fun k => k.handle == handle && k.kind == kind && k.sleeve == sl

/-- REG_TENANT at its commit (R108, R435). -/
def State.commitRegTenant (s : State) (r : Run) (t key : Nat) : State :=
  s.onSleeve r fun v =>
    if s.tenants.any fun x => x.num == t then s.fail r 0x31 0 255
    else if 65535 ≤ s.tenants.length then s.fail r 0x38 0 255
    else if (s.keyOf key 0 v.id).isNone then s.fail r 0x3B 0 255
    else if s.sec.entropyFailing then s.fail r 0x7B 0 255
    else
      let g := s.newKeySet (tenantOwner t)
      ({ g.2 with tenants := g.2.tenants ++ [⟨t, v.id, key, g.1⟩] } : State).done r {}

/-- REG_TENANT. -/
def execRegTenant (h : QHdr) (tenant key : Nat) (s : State) : Host.Outcome State Fault Refusal :=
  .next (s.commandRow h (.regTenant tenant key) fun s r => s.commitRegTenant r tenant key)

/-- DEREG_TENANT at its commit (R141): the key handle is destroyed. -/
def State.commitDeregTenant (s : State) (r : Run) (t : Nat) : State :=
  s.onSleeve r fun v =>
    match s.tenants.find? fun x => x.num == t && x.sleeve == v.id with
    | none => s.fail r 0x7A 0 255
    | some x =>
      if s.patches.any fun p => p.tenant == t && !p.lost then s.fail r 0x35 0 255
      else
        let gone := (s.patches.filter fun p => p.tenant == t).map fun p => patchArea p.handle
        (({ s with
          tenants := s.tenants.filter fun y => y.num != t
          patches := s.patches.filter fun p => p.tenant != t
          sec := { s.sec with keys := s.sec.keys.filter fun k => !(k.kind == 0 && k.handle == x.key) } } : State).forgetAreas gone).done r {}

/-- DEREG_TENANT. -/
def execDeregTenant (h : QHdr) (tenant : Nat) (s : State) : Host.Outcome State Fault Refusal :=
  .next (s.commandRow h (.deregTenant tenant) fun s r => s.commitDeregTenant r tenant)

/-! ### Patches -/

/-- Whether a list of numbers rises strictly. -/
def rising : List Nat → Bool
  | a :: b :: l => decide (a < b) && rising (b :: l)
  | _ => true

/-- The target layers rise and are matrix layers of the base (R111). -/
def State.layersOk (s : State) (base : Nat) (ls : List Nat) : Bool :=
  rising ls && ls.all fun l => match s.layerOf base l with | some e => decide (e.kind = 0) | none => false

/-- The base layer kind that a darned kind replaces (R133, R333). -/
def darnedKind : Nat → Nat
  | 0 => 3 | 1 => 1 | 2 => 0 | 3 => 2 | _ => 4

/-- Bytes of a darned layer in the base layer's format. -/
def State.darnBytes (s : State) (p : Patch) (d : Darn) : Nat :=
  match s.layerOf p.base d.layer with
  | none => 0
  | some e => tensBytes e.fmt (s.darnElems p d)

/-- The darned-layer list against R133. -/
def State.darnsOk (s : State) (p : Patch) : Bool :=
  let ds := p.darns
  decide (ds.length ≤ 8) &&
  ds.all (fun d =>
    (match s.layerOf p.base d.layer with | some e => decide (e.kind = darnedKind d.kind) | none => false) &&
    (if d.kind = 3 then decide (1 ≤ d.rows ∧ d.rows ≤ 65536) else decide (d.rows = 0)) &&
    (decide (d.kind = 4) || decide (d.slot = 0)) &&
    decide ((ds.filter fun x => x.layer == d.layer && (x.kind == 4) == (d.kind == 4) && (d.kind != 4 || x.slot == d.slot)).length = 1) &&
    decide (s.darnBytes p d ≤ 268435456)) &&
  decide (sumOf (ds.map (s.darnBytes p)) ≤ 1073741824)

/-- The image's clear fields, checks and length against the descriptor (R441): `n` and `n2` are the plaintext lengths
without and with a second moment. -/
def imageOk (d : PatchDesc) (i : SealedImage) (n n2 : Nat) : Bool :=
  decide (i.version = 1 ∧ i.tenant = d.tenant ∧ i.plainBytes = i.plain.length ∧ d.imageLen = imageBytes i.plainBytes) && i.unwrapOk && i.tagsOk && i.hashOk &&
  (decide (i.plain.length = n) || (d.train && decide (i.plain.length = n2)))

/-- REG_PATCH at its commit (R109 to R118, R133, R134, R167, R441). -/
def State.commitRegPatch (s : State) (r : Run) (d : PatchDesc) (i : SealedImage) : State :=
  s.onSleeve r fun v =>
    let fmt (k : Nat) : Nat := (r.recipe k).format
    let p0 : Patch := { handle := 0, tenant := d.tenant, sleeve := v.id, base := r.base, rank := 8 * (d.rankCode + 1)
                        scale := decodeBits 0 d.scale.toNat, layers := d.layers, darns := d.darns, train := d.train }
    let ts := s.tensors p0
    let n := plainLength ts d.train false (fmt 4) (fmt 5)
    let n2 := plainLength ts d.train true (fmt 4) (fmt 5)
    let second := d.train && decide (i.plain.length ≠ n)
    let bytes := regionBytes ts d.train second (fmt 4) (fmt 5) (fmt 3)
    if !(s.tenants.any fun t => t.num == d.tenant && t.sleeve == v.id) then s.fail r 0x31 0 255
    else if d.base = 0 ∨ s.baseOk d.base r.base = false then s.fail r 0x3A 0 255
    else if !s.layersOk r.base d.layers then s.fail r 0x74 0 255
    else if !s.darnsOk p0 then s.fail r 0x37 0 255
    else if !imageOk d i n n2 then s.fail r 0x36 0 255
    else if 65536 ≤ (s.patches.filter fun p => !p.lost).length then s.fail r 0x38 0 255
    else if s.pagesLeft v < pages bytes then s.fail r 0x21 0 255
    else
      let f := s.fresh
      let hd := freeHandle ((s.patches.filter fun p => !p.lost).map (·.handle)) (Config.handlePick f.1)
      let p := s.fillPatch { p0 with handle := hd, hasMom2 := second, bytes := bytes } i.plain i.scales (fmt 4) (fmt 5)
      (({ f.2 with patches := f.2.patches.filter (fun q => q.handle != hd) ++ [p] } : State).unsettle (stateLines hd bytes)).done r
        { handle := hd }

/-- REG_PATCH. -/
def execRegPatch (h : QHdr) (desc : PatchDesc) (image : SealedImage) (s : State) : Host.Outcome State Fault Refusal :=
  .next (s.commandRow h (.regPatch desc image) fun s r => s.commitRegPatch r desc image)

/-- The registered patch of the run's sleeve that a handle names. -/
def State.ownPatch (s : State) (v : Sleeve) (h : Nat) : Option Patch :=
  s.patches.find? fun p => p.handle == h && p.sleeve == v.id && !p.lost

/-- DEREG_PATCH at its commit (R140). -/
def State.commitDeregPatch (s : State) (r : Run) (h : Nat) : State :=
  s.onSleeve r fun v =>
    if (s.ownPatch v h).isNone then s.fail r 0x31 0 255
    else if s.otherRun r fun q => q.patches.contains h then s.fail r 0x35 0 255
    else
      let s1 := s.updBolts (List.range 16) fun _ b =>
        { b with pockets := b.pockets.filter fun k => k.2.patch != h }
      (({ s1 with patches := s1.patches.filter fun p => p.handle != h } : State).forgetAreas [patchArea h]).done r {}

/-- DEREG_PATCH. -/
def execDeregPatch (h : QHdr) (patch : Nat) (s : State) : Host.Outcome State Fault Refusal :=
  .next (s.commandRow h (.deregPatch patch) fun s r => s.commitDeregPatch r patch)

/-- The bytes of a sealed image as they stand in a destination (R441): the clear header's fields, the rest a free value. -/
def sealedBytes (f tenant : Nat) (imageId : BitVec 128) (plain : List Byte) : List Byte :=
  leBytes 2 1 ++ leBytes 2 tenant ++ leBytes 4 0 ++ leBytes 8 imageId.toNat ++ leBytes 8 plain.length ++
  ((List.range 72).map (Config.sealedByte f)) ++ List.replicate 32 0 ++
  (List.range (imageBytes plain.length - 128)).map fun i => Config.sealedByte f (128 + i)

/-- EXPORT_PATCH at its commit (R443): it exports the version that the hem found (R139), which `ps` holds. -/
def State.commitExportPatch (s : State) (wins : List Window) (ps : List Patch) (r : Run) (h : Nat) (dest : Addr) (len : Nat) :
    State :=
  s.onSleeve r fun v =>
    match s.ownPatch v h, ps.find? fun p => p.handle == h with
    | none, _ => s.fail r 0x31 0 255
    | some _, none => s.fail r 0x31 0 255
    | some _, some p =>
      let n := imageBytes p.plain.length
      match s.destFault r.hdr.owner dest len n with
      | some (st, a) => s.fail r st a 255
      | none =>
        if s.sec.entropyFailing then s.fail r 0x7B 0 255
        else
          let f := s.fresh
          let id := BitVec.ofNat 128 ((Config.randomId f.1).toNat % 2 ^ 64)
          if dest.space = 2 then
            match wins.find? fun w => w.id == (windowOf dest.addr).1 with
            | none => f.2.fail r 0x16 (windowOf dest.addr).1 255
            | some w => f.2.done r { writes := [.sealedImage w.pasid (w.base + (windowOf dest.addr).2) p.tenant id p.plain] }
          else
            let d := f.2.deliver wins v.id dest (sealedBytes f.1 p.tenant id p.plain)
            d.1.done r {}

/-- EXPORT_PATCH. -/
def execExportPatch (h : QHdr) (patch : Nat) (dest : Addr) (destLen : Nat) (s : State) : Host.Outcome State Fault Refusal :=
  .next (s.commandRow h (.exportPatch patch dest destLen) fun s r => s.commitExportPatch (s.winsOf r) s.patches r patch dest destLen)

/-! ### Patterns, recipes and lanes -/

/-- LOAD_PATTERN at its commit (R230, R232, R233). -/
def State.commitLoadPattern (s : State) (r : Run) (image : List Byte) (len : Nat) : State :=
  s.onSleeve r fun v =>
    match checkImage image len with
    | .bad st w => s.fail r st w 255
    | .good p =>
      if s.pagesLeft v < pages p.bytes then s.fail r 0x21 0 255
      else
        let f := s.fresh
        let hd := freeHandle (0 :: v.patterns.map (·.handle)) (Config.handlePick f.1)
        (f.2.updSleeve v.id fun v => { v with patterns := v.patterns ++ [{ p with handle := hd }] }).done r { handle := hd }

/-- LOAD_PATTERN. -/
def execLoadPattern (h : QHdr) (image : List Byte) (imageLen : Nat) (s : State) : Host.Outcome State Fault Refusal :=
  .next (s.commandRow h (.loadPattern image imageLen) fun s r => s.commitLoadPattern r image imageLen)

/-- FREE_PATTERN at its commit (R389); firmware forgets the handle's raised prices (R45). -/
def State.commitFreePattern (s : State) (r : Run) (hd : Nat) : State :=
  s.onSleeve r fun v =>
    if !(v.patterns.any fun p => p.handle == hd) then s.fail r 0x7A 0 255
    else if s.otherRun r fun q => decide (q.hdr.owner = r.hdr.owner) && q.hdr.pattern == hd then s.fail r 0x79 0 255
    else
      let s1 := s.updSleeve v.id fun v => { v with
        patterns := v.patterns.filter fun p => p.handle != hd
        raised := v.raised.filter fun x => x.pattern != hd }
      (s1.updBolts (boltsIn v.bolts) fun _ b => { b with resident := b.resident.filter (· != hd) }).done r {}

/-- FREE_PATTERN. -/
def execFreePattern (h : QHdr) (handle : Nat) (s : State) : Host.Outcome State Fault Refusal :=
  .next (s.commandRow h (.freePattern handle) fun s r => s.commitFreePattern r handle)

/-- What a recipe entry is refused for (R178, R179). -/
def recipeFault (kind : Nat) (e : BitVec 64) : Option Status :=
  let x := recipeOf e
  let n := e.toNat
  let factor := decide (kind = 9)
  if 10 < kind ∨ bitsOf n 49 32 ≠ 0 ∨ bitsOf n 27 24 ≠ 0 ∨ bitsOf n 15 12 ≠ 0 ∨ bitsOf n 7 4 ≠ 0 ∨ x.scaleMode = 3 ∨
      1 < bitsOf n 9 8 ∨ (factor = false ∧ 10 < x.format) ∨ (x.rot ≠ 0 ∧ x.rot ≠ 15 ∧ (x.rot < 5 ∨ 12 < x.rot)) then some 0x72
  else if 32 < x.satLog then some 0x74
  else if factor then (if x.scaleMode = 0 then some 0x74 else none)
  else if x.format = 10 then some 0x74
  else if isMx x.format = true ∧ (x.scaleMode ≠ 0 ∨ x.window ≠ 1 ∨ x.initX ≠ 0) then some 0x74
  else if x.format = 0 ∧ (x.scaleMode = 0 ∨ x.scaleMode = 2) then some 0x74
  else if x.scaleMode = 2 ∧ kind ≠ 4 ∧ kind ≠ 5 then some 0x74
  else none

/-- SET_RECIPE at its commit (R180); raised prices are forgotten (R45). -/
def State.commitSetRecipe (s : State) (r : Run) (cls : Bool) (kind : Nat) (e : BitVec 64) : State :=
  s.onSleeve r fun v =>
    match recipeFault kind e with
    | some st => s.fail r st 0 255
    | none =>
      (s.updSleeve v.id fun v => { v with
        recServe := if cls then setAt v.recServe kind e else v.recServe
        recTrain := if cls then v.recTrain else setAt v.recTrain kind e
        raised := [] }).done r {}

/-- SET_RECIPE. -/
def execSetRecipe (h : QHdr) (cls : Bool) (kind : Nat) (entry : BitVec 64) (s : State) : Host.Outcome State Fault Refusal :=
  .next (s.commandRow h (.setRecipe cls kind entry) fun s r => s.commitSetRecipe r cls kind entry)

/-- CONFIG_STACK at its commit (R144, R389). -/
def State.commitConfigStack (s : State) (r : Run) (bolt lane size : Nat) : State :=
  s.onSleeve r fun v =>
    let old := (look {} (s.bolt bolt).lanes lane).size
    if !v.bolts.getLsbD bolt then s.fail r 0x7B 0 255
    else if s.otherRun r fun q => q.lanes.contains (4 * bolt + lane) then s.fail r 0x79 0 255
    else if s.pagesLeft v + pages old < pages size then s.fail r 0x21 0 255
    else ((s.updBolt bolt fun b => { b with lanes := put {} b.lanes lane { size := size, frames := [] } }).forgetAreas
      [laneArea bolt lane]).done r {}

/-- CONFIG_STACK. -/
def execConfigStack (h : QHdr) (bolt lane size : Nat) (s : State) : Host.Outcome State Fault Refusal :=
  .next (s.commandRow h (.configStack bolt lane size) fun s r => s.commitConfigStack r bolt lane size)

/-! ### Mappings and windows -/

/-- The leaves of a mapping (R246, R247). -/
def newLeaves (v : Sleeve) (pick : BitVec 25) (base len page : Nat) (w : Bool) (node : Nat) : List Leaf :=
  let n := pageBytes page
  let first := pick.toNat / (n / 65536) * (n / 65536)
  (List.range (len / n)).map fun i =>
    { dva := base + n * i, code := page, owner := v.id, keygen := v.keygen
      addr := BitVec.ofNat 25 (first + n / 65536 * i), w := w, node := node, mapped := page }

/-- Whether two byte ranges meet. -/
def rangesMeet (a n b m : Nat) : Bool := decide (a < b + m ∧ b < a + n)

/-- MAP at its commit (R246, R342, R404, R527). -/
def State.commitMap (s : State) (r : Run) (base len page : Nat) (w : Bool) (node : Nat) : State :=
  s.onSleeve r fun v =>
    let n := pageBytes page
    let f := s.fresh
    let ls := newLeaves v (Config.dpaPick f.1) base len page w node
    let v1 := { v with leaves := v.leaves ++ ls }
    if 2 < page then s.fail r 0x74 0 255
    else if len = 0 ∨ base % n ≠ 0 ∨ len % n ≠ 0 ∨ 2 ^ 48 < base + len ∨ (node ≠ 0xFFFF ∧ page ≠ 1) then s.fail r 0x17 0 255
    else if v.leaves.any fun l => rangesMeet l.dva (pageBytes l.code) base len then s.fail r 0x17 0 255
    else if 16384 * v.memGib < s.chargedPages v1 then s.fail r 0x17 0 255
    else (f.2.updSleeve v.id fun v => { v with leaves := v.leaves ++ ls }).done r {}

/-- MAP. -/
def execMap (h : QHdr) (base len page : Nat) (writable : Bool) (node : Nat) (s : State) : Host.Outcome State Fault Refusal :=
  .next (s.commandRow h (.map base len page writable node) fun s r => s.commitMap r base len page writable node)

/-- Whether a range's ends keep to the pages they fall inside (R246). -/
def endsOk (v : Sleeve) (base len : Nat) : Bool :=
  (match v.leafAt base with | some l => decide (base % pageBytes l.mapped = 0) | none => true) &&
  (match v.leafAt (base + len - 1) with | some l => decide ((base + len) % pageBytes l.mapped = 0) | none => true)

/-- Whether a byte address lies in a page of a list. -/
def inLeaves (ls : List Leaf) (a : Nat) : Bool := ls.any fun l => decide (l.dva ≤ a ∧ a < l.dva + pageBytes l.code)

/-- A sleeve without some of its pages, their contents erased (R246, R404). -/
def Sleeve.dropLeaves (v : Sleeve) (gone : List Leaf) : Sleeve :=
  { v with
    leaves := v.leaves.filter fun l => !gone.contains l
    mem := v.mem.filter fun e => !inLeaves gone e.1
    tags := v.tags.filter fun e => !inLeaves gone (128 * e.1)
    poison := v.poison.filter fun e => !inLeaves gone (128 * e) }

/-- UNMAP at its commit (R246, R248). -/
def State.commitUnmap (s : State) (r : Run) (base len : Nat) : State :=
  s.onSleeve r fun v =>
    let gone := v.leaves.filter fun l => decide (base ≤ l.dva ∧ l.dva + pageBytes l.code ≤ base + len)
    let used (g : Nat) : Bool := inLeaves gone (65536 * g)
    if len = 0 then s.done r {}
    else if !endsOk v base len then s.fail r 0x17 0 255
    else if s.otherRun r fun q => decide (q.hdr.owner = r.hdr.owner) && (q.readGran.any used || q.writeGran.any used) then
      s.fail r 0x35 0 255
    else
      let s1 := s.updSleeve v.id fun v => v.dropLeaves gone
      ((s1.forgetLines fun a l => a == v.id && inLeaves gone (128 * l)).forgetPages fun a p =>
        a == v.id && inLeaves gone (65536 * p)).done r {}

/-- UNMAP. -/
def execUnmap (h : QHdr) (base len : Nat) (s : State) : Host.Outcome State Fault Refusal :=
  .next (s.commandRow h (.unmap base len) fun s r => s.commitUnmap r base len)

/-- Withdraw the commands that name a removed window; those placed in the present stitch commit normally, or are withdrawn once the
hem's commits are made (R250). -/
def State.windowGone (s0 : State) (sl w : Nat) : State :=
  let s := s0.updSleeve sl fun v => { v with swapped := w :: v.swapped }
  let hit := s.runs.filter fun q =>
    decide (q.hdr.owner = Owner.sleeve sl ∧ q.stop = none) && q.windows.contains w && !q.holds s.time.stitch.toNat
  hit.foldl (fun s q => s.stopRun q.id 0x16 w 255) s

/-- Withdraw every command that names a removed window, once the hem's commits are made: one of the present stitch that the
hem cut is withdrawn as well (R250). -/
def State.windowLost (s : State) (sl w : Nat) : State :=
  let hit := s.runs.filter fun q => decide (q.hdr.owner = Owner.sleeve sl ∧ q.stop = none) && q.windows.contains w
  hit.foldl (fun s q => s.stopRun q.id 0x16 w 255) s

/-- SET_WINDOW at its commit (R250, R411). -/
def State.commitSetWindow (s : State) (r : Run) (w : Window) : State :=
  s.onSleeve r fun v =>
    if 15 < w.id ∨ w.base % 4096 ≠ 0 ∨ w.len % 4096 ≠ 0 ∨ 2 ^ 44 < w.len then s.fail r 0x74 0 255
    else if !v.pasids.contains w.pasid then s.fail r 0x7A 0 255
    else
      let old := v.windows.any fun x => x.id == w.id
      let s1 := s.updSleeve v.id fun v => { v with windows := v.windows.filter (fun x => x.id != w.id) ++ [w] }
      (if old then s1.windowGone v.id w.id else s1).done r {}

/-- SET_WINDOW. -/
def execSetWindow (h : QHdr) (window : Nat) (r w : Bool) (pasid base len : Nat) (s : State) :
    Host.Outcome State Fault Refusal :=
  .next (s.commandRow h (.setWindow window r w pasid base len) fun s q => s.commitSetWindow q ⟨window, pasid, base, len, r, w⟩)

/-- CLEAR_WINDOW at its commit (R250). -/
def State.commitClearWindow (s : State) (r : Run) (w : Nat) : State :=
  s.onSleeve r fun v =>
    if !(v.windows.any fun x => x.id == w) then s.fail r 0x7A 0 255
    else
      let s1 := s.updSleeve v.id fun v => { v with windows := v.windows.filter fun x => x.id != w }
      (s1.windowGone v.id w).done r {}

/-- CLEAR_WINDOW. -/
def execClearWindow (h : QHdr) (window : Nat) (s : State) : Host.Outcome State Fault Refusal :=
  .next (s.commandRow h (.clearWindow window) fun s r => s.commitClearWindow r window)

/-! ### Reduction groups (R290) -/

/-- A manager's view of a group block that `node` presents: whether another member presented a different one (R290). -/
def State.blockDiffers (s : State) (b : GroupBlock) : Bool :=
  s.domain.presented.any fun x => x.2.group == b.group && decide (x.2 ≠ b) && b.members.contains x.1

/-- Every member has presented this block. -/
def State.allPresented (s : State) (b : GroupBlock) : Bool :=
  b.members.all fun n => s.domain.presented.any fun x => x.1 == n && decide (x.2 = b)

/-- The manager records a presented block; once every member has presented it the group is ready here, and the job key
goes to the other members (R290, R433). -/
def State.present (s : State) (node : Nat) (b : GroupBlock) : State :=
  let rest := s.domain.presented.filter fun (x : Nat × GroupBlock) => !(x.1 == node && x.2.group == b.group)
  let s1 : State := { s with domain := { s.domain with presented := rest ++ [(node, b)] } }
  if s1.allPresented b then
    let gs := s1.groups.map fun (g : Group) => if g.block = b then { g with ready := true } else g
    let s2 : State := { s1 with groups := gs }
    (b.members.filter (· ≠ s.domain.node)).foldl (fun s n => s.emit (.channel0 (.wrappedKey n b.keyId 2))) s2
  else s1

/-- CREATE_GROUP at its commit (R290, R406): the manager gets the block, and the group stays refused (0x7C) to the commands that name
it until the manager has found every member's block identical and sent the job key. -/
def State.commitCreateGroup (s : State) (r : Run) (b : GroupBlock) : State :=
  s.onSleeve r fun v =>
    if !b.members.contains s.domain.node then s.fail r 0x74 0 255
    else if v.seam = 0 ∨ (s.groups.any fun g => g.block.group == b.group && !(g.removed && g.sleeve == v.id)) = true then
      s.fail r 0x7B 0 255
    else if s.isManager && s.blockDiffers b then s.fail r 0x7C 0 255
    else
      let g : Group := ⟨v.id, b, false, false, [], []⟩
      let others := s.groups.filter fun (x : Group) => x.block.group != b.group
      let s1 : State := { s with groups := others ++ [g] }
      let s2 : State := { s1 with domain := { s1.domain with
        collSeq := drop s1.domain.collSeq b.group, usedUp := s1.domain.usedUp.filter fun u => u.1 != b.group } }
      (if s.isManager then s2.present s.domain.node b else s2.emit (.channel0 (.groupBlock b))).done r {}

/-- CREATE_GROUP. -/
def execCreateGroup (h : QHdr) (block : GroupBlock) (s : State) : Host.Outcome State Fault Refusal :=
  .next (s.commandRow h (.createGroup block) fun s r => s.commitCreateGroup r block)

/-- A job key that no group here, and on a manager no presented block, names any more is dropped (R420). -/
def State.dropJobKey (s : State) (key : Nat) : State :=
  if (s.groups.any fun g => g.block.keyId == key) || (s.domain.presented.any fun x => x.2.keyId == key) then s
  else { s with sec := { s.sec with keys := s.sec.keys.filter fun k => !(k.kind == 2 && k.handle == key) } }

/-- Groups of this module end: it presents their blocks no more, and job keys go with the last group that names them. -/
def State.endGroups (s : State) (gs : List Group) : State :=
  let mine (x : Nat × GroupBlock) : Bool := x.1 == s.domain.node && gs.any fun g => g.block.group == x.2.group
  let s1 : State := { s with
    groups := s.groups.filter fun x => !gs.any fun g => g.block.group == x.block.group
    domain := { s.domain with presented := s.domain.presented.filter fun x => !mine x } }
  gs.foldl (fun s g => s.dropJobKey g.block.keyId) s1

/-- DESTROY_GROUP at its commit (R389). -/
def State.commitDestroyGroup (s : State) (r : Run) (g : Nat) : State :=
  s.onSleeve r fun v =>
    if !(s.groups.any fun x => x.block.group == g && x.sleeve == v.id) then s.fail r 0x7A 0 255
    else if s.otherRun r fun q => q.groups.contains g || decide (q.coll = some g) then s.fail r 0x79 0 255
    else
      let s1 := s.updSleeve v.id fun v => { v with e1Posts := v.e1Posts.filter fun e => e.1 != g }
      (s1.endGroups (s1.groups.filter fun x => x.block.group == g)).done r {}

/-- DESTROY_GROUP. -/
def execDestroyGroup (h : QHdr) (group : Nat) (s : State) : Host.Outcome State Fault Refusal :=
  .next (s.commandRow h (.destroyGroup group) fun s r => s.commitDestroyGroup r group)

end Sys2Proof.Machine
end

