-- ==== Sys2Proof/Machine/AdminCmds.lean ====
section
/-! DEFINITION. SNAPSHOT, TELEMETRY, SET_STITCH, SET_FLOOR and OPEN_INGEST at their commits (R24, R33, R334, R389, R456,
R491, R492), with the layouts of the telemetry reports (R284, R331, R418, R471, R485, R486). -/
namespace Sys2Proof.Machine
open Sys2Proof

/-! ### Snapshots (R491, R492) -/

/-- Units of 0.625 ns in a stitch. -/
def snapUnits (len : Nat) : Nat := stitchUs len * 1600

/-- Arm an instant: target stitch, offset, SNAP_ID, source. -/
def State.armSnap (s : State) (target offset : Nat) (id : BitVec 16) (source : Nat) : State :=
  { s with snap := { s.snap with armed := s.snap.armed ++ [(target, offset, id, source)] } }

/-- SNAPSHOT with DOMAIN 0 at its commit (R491). -/
def State.commitSnapshot (s : State) (r : Run) (id : BitVec 16) (target offset : Nat) : State :=
  if snapUnits s.time.len ≤ offset ∨ target ≤ s.time.stitch.toNat then s.fail r 0x74 0 255
  else (s.armSnap target offset id 1).done r {}

/-- SNAPSHOT with DOMAIN 0. -/
def execSnapshot (h : QHdr) (snapId : BitVec 16) (target offset : Nat) (s : State) : Host.Outcome State Fault Refusal :=
  .next (s.commandRow h (.snapshot snapId target offset) fun s r => s.commitSnapshot r snapId target offset)

/-- A TRIGGER word (R492). -/
def triggerWordOf (id : BitVec 16) (target offset : Nat) : BitVec 56 :=
  BitVec.ofNat 56 (target % 65536 * 2 ^ 40 + offset % 2 ^ 24 * 2 ^ 16 + id.toNat)

/-- The manager sends a TRIGGER word down the tree and takes it itself where SRC_DOMAIN is set (R492). -/
def State.sendTrigger (s : State) (id : BitVec 16) (target offset : Nat) : State :=
  let s1 := s.emit (.tickWord tickTrigger (triggerWordOf id target offset))
  if s.snapArmed 4 then s1.armSnap target offset id 4 else s1

/-- SNAPSHOT with DOMAIN 1 at its commit (R389, R492). -/
def State.commitSnapshotDomain (s : State) (r : Run) (id : BitVec 16) (target offset : Nat) : State :=
  if r.hdr.owner ≠ Owner.admin ∨ s.isManager = false then s.fail r 0x74 0 255
  else if snapUnits s.time.len ≤ offset ∨ target < s.time.stitch.toNat + 2 then s.fail r 0x74 0 255
  else (s.sendTrigger id target offset).done r {}

/-- SNAPSHOT with DOMAIN 1. -/
def execSnapshotDomain (h : QHdr) (snapId : BitVec 16) (target offset : Nat) (s : State) :
    Host.Outcome State Fault Refusal :=
  .next (s.commandRow h (.snapshotDomain snapId target offset) fun s r => s.commitSnapshotDomain r snapId target offset)

/-! ### Telemetry reports -/

/-- Bytes of zero. -/
def zeros (n : Nat) : List Byte := List.replicate n 0

/-- A link record (R284). -/
def linkRecord (p : Nat) (x : Port) : List Byte :=
  leBytes 1 p ++ leBytes 1 (portCode x.state) ++ leBytes 1 (x.mode + x.pair % 4 * 64) ++ leBytes 1 x.badLanes.toNat ++
  leBytes 2 x.peerNode ++ leBytes 1 x.peerPort ++ zeros 1 ++ leBytes 4 x.tickRtt ++ leBytes 4 x.tickErrors.toNat ++
  leBytes 8 x.corrected.toNat ++ leBytes 8 x.uncorrected.toNat ++ leBytes 4 x.crcFail.toNat ++ leBytes 4 x.replays.toNat ++
  leBytes 4 x.authFail.toNat ++ leBytes 4 x.losEvents.toNat ++ leBytes 4 x.trainings.toNat ++ zeros 4 ++
  leBytes 8 x.upSince.toNat

/-- TELEMETRY KIND 0: one record a port (R284). -/
def State.linkReport (s : State) : List Byte := (List.range 48).flatMap fun p => linkRecord p (s.port p)

/-- Role codes (R331). -/
def roleCode : Role → Nat
  | .worker => 0 | .standby => 1 | .manager => 2 | .topManager => 3

/-- TICK codes (R331). -/
def tickCode : Tick → Nat
  | .unlocked => 0 | .locked => 1 | .holdover => 2 | .adrift => 3

/-- SLOT_STATE codes (R331). -/
def slotCode : SlotState → Nat
  | .free => 0 | .loading => 1 | .ready => 2 | .retiring => 3

/-- A signed number as `n` bytes, two's complement. -/
def signedBytes (n : Nat) (v : Int) : List Byte := leBytes n (v.emod (2 ^ (8 * n))).toNat

/-- TELEMETRY KIND 1: the domain record (R331). DOMAIN is [14:9] of the node (R315), 0 where there is no node. -/
def State.domainReport (s : State) : List Byte :=
  let d := s.domain
  let none_ := decide (d.node = 0xFFFF)
  leBytes 2 d.node ++ leBytes 1 (if none_ then 0 else d.node / 512 % 64) ++
  leBytes 1 (roleCode d.role + (if s.board.mgrEn then 4 else 0) + s.board.domainSel.toNat * 16) ++
  leBytes 1 (tickCode d.tick + d.epoch.toNat * 4) ++ leBytes 1 (min 255 d.missedEdges) ++ leBytes 2 d.manager ++
  leBytes 2 d.standby ++ leBytes 1 s.time.len ++ zeros 1 ++ signedBytes 4 d.edgeErr ++ leBytes 4 d.rosterGen ++
  leBytes 2 d.roster.length ++ zeros 2 ++
  ((List.range 4).flatMap fun n => leBytes 2 (if (s.slot n).state = .free then 0 else (s.slot n).handle)) ++
  ((List.range 4).flatMap fun n => leBytes 1 (slotCode (s.slot n).state)) ++
  leBytes 4 (min d.shifts (2 ^ 32 - 1)) ++ leBytes 4 (min d.takeovers (2 ^ 32 - 1)) ++ zeros 4 ++ leBytes 8 d.lastShift ++ zeros 8

/-- INDEX of a slowdown record (R418). -/
def slowIndex (measured isolated : Nat) : Nat :=
  if measured = 0 then 0x0100 else if isolated = 0 then 0xFFFF else min 0xFFFF (measured * 256 / isolated)

/-- A slowdown record (R418). -/
def slowRecord (x : SlowRec) : List Byte :=
  leBytes 6 x.stitch ++ leBytes 1 x.bolt ++ leBytes 1 x.sleeve ++ leBytes 4 x.measured ++ leBytes 4 x.isolated ++
  leBytes 2 (slowIndex x.measured x.isolated) ++ leBytes 2 x.beads ++ leBytes 4 x.mem ++ leBytes 4 x.host ++ leBytes 4 x.seam

/-- The last 16 records of a bolt, oldest first; before the first stitches stand records of no sleeve. -/
def State.slowOf (s : State) (bno : Nat) : List Byte :=
  let l := s.power.slow.filter fun x => x.bolt == bno
  let l := l.drop (l.length - 16)
  ((List.replicate (16 - l.length) (⟨0, bno, 255, 0, 0, 0, 0, 0, 0⟩ : SlowRec)) ++ l).flatMap slowRecord

/-- TELEMETRY KIND 2 (R418). -/
def State.slowReport (s : State) (o : Owner) : List Byte :=
  let bs := match o with
    | .admin => List.range 16
    | .sleeve n => match s.sleeve n with | some v => boltsIn v.bolts | none => []
  bs.flatMap s.slowOf

/-- A log record (R486). -/
def logRecord (x : LogRec) : List Byte :=
  leBytes 4 x.seq ++ leBytes 6 x.stitch ++ leBytes 1 x.cls ++ leBytes 1 x.source ++ leBytes 1 x.loc ++ leBytes 1 x.sleeve ++
  leBytes 1 x.status.toNat ++ leBytes 1 x.k ++ leBytes 8 x.addr.toNat ++ leBytes 8 x.info.toNat

/-- The records that a report of `n` records gives: the newest, oldest first, those of the flash ring before those of this
boot, with CLASS 3 and SEQ counting down from 0xFFFFFFFF (R485, R488). -/
def State.logRecords (s : State) (n : Nat) : List LogRec :=
  let ring := s.store.fatalRing.zipIdx.map fun x => { x.1 with cls := 3, seq := 0xFFFFFFFF - x.2 }
  let all := ring ++ s.rel.log
  all.drop (all.length - n)

/-- TELEMETRY KIND 3 into `len` bytes (R485). -/
def State.logReport (s : State) (len : Nat) : List Byte :=
  let l := s.logRecords (min 1024 ((len - 64) / 32))
  let x := s.rel
  leBytes 8 x.total ++ leBytes 4 (match l with | r :: _ => r.seq | [] => 0) ++ leBytes 2 l.length ++ leBytes 2 s.memSide.spares ++
  leBytes 8 x.corrected ++ leBytes 4 x.uncorr ++ leBytes 4 x.unravels ++ leBytes 4 x.refetched ++ leBytes 4 x.retired ++
  leBytes 4 x.integrity ++ leBytes 4 (x.patchesLost * 65536 + x.framesLost) ++ leBytes 4 x.entropy ++ zeros 12 ++
  l.flatMap logRecord

/-- A sleeve entry of a power record (R471). -/
def powerEntry (l : List SleevePower) (n : Nat) : List Byte :=
  match l.find? fun x => x.sleeve == n with
  | none => leBytes 1 255 ++ zeros 15
  | some x => leBytes 1 n ++ leBytes 1 ((if x.overShare then 1 else 0) + (if x.fallback then 2 else 0)) ++ leBytes 2 x.powerW ++
      leBytes 4 x.energyUj ++ leBytes 4 x.bubbleCycles ++ leBytes 4 x.stretchCycles

/-- `n` nibbles of a list. -/
def nibbles (l : List Nat) : Nat := sumOf (l.zipIdx.map fun x => x.1 % 16 * 16 ^ x.2)

/-- A power record (R471). -/
def powerRecord (x : PowerRec) : List Byte :=
  leBytes 6 x.stitch ++ leBytes 1 x.state.toNat ++ leBytes 1 x.floor ++ leBytes 2 x.capW ++ leBytes 2 x.inputW ++
  leBytes 2 x.peakW ++ leBytes 2 x.mean1s ++ leBytes 2 x.vinMin ++ leBytes 2 x.peakUsed ++ (x.classW.flatMap (leBytes 2)) ++
  leBytes 8 (nibbles x.clocks) ++ leBytes 8 (nibbles x.bubbles) ++ (x.temps.flatMap (leBytes 1)) ++ leBytes 1 (min 255 x.spread) ++
  leBytes 2 (min 65535 x.droops) ++ leBytes 4 (min (2 ^ 32 - 1) x.stretchMax) ++ zeros 4 ++
  (List.range 16).flatMap (powerEntry x.sleeves)

/-- A power record of no stitch, before sixteen have passed. -/
def noPowerRecord : List Byte := zeros 64 ++ (List.range 16).flatMap (powerEntry [])

/-- TELEMETRY KIND 4 (R471). -/
def State.powerReport (s : State) : List Byte :=
  let l := s.power.records.drop (s.power.records.length - 16)
  ((List.replicate (16 - l.length) noPowerRecord).flatten) ++ l.flatMap powerRecord

/-- The report of a KIND into a destination of `len` bytes. -/
def State.report (s : State) (o : Owner) (kind len : Nat) : List Byte :=
  match kind with
  | 0 => s.linkReport
  | 1 => s.domainReport
  | 2 => s.slowReport o
  | 3 => s.logReport len
  | _ => s.powerReport

/-- TELEMETRY at its commit (R389): a destination of the admin queue lies in the session PASID's space. -/
def State.commitTelemetry (s : State) (wins : List Window) (r : Run) (kind : Nat) (dest : Addr) (len : Nat) : State :=
  match s.plainFault { r with body := .telemetry kind dest len } with
  | some (st, a) => s.fail r st a 255
  | none =>
    let bytes := s.report r.hdr.owner kind len
    match r.hdr.owner with
    | .admin => s.done r { writes := [.hostWrite s.sessionPasid dest.addr bytes none] }
    | .sleeve n =>
      let d := s.deliver wins n dest bytes
      d.1.done r { writes := d.2 }

/-- TELEMETRY KIND 0. -/
def execTelemetryLink (h : QHdr) (dest : Addr) (destLen : Nat) (s : State) : Host.Outcome State Fault Refusal :=
  .next (s.commandRow h (.telemetry 0 dest destLen) fun s r => s.commitTelemetry (s.winsOf r) r 0 dest destLen)

/-- TELEMETRY KIND 1. -/
def execTelemetryDomain (h : QHdr) (dest : Addr) (destLen : Nat) (s : State) : Host.Outcome State Fault Refusal :=
  .next (s.commandRow h (.telemetry 1 dest destLen) fun s r => s.commitTelemetry (s.winsOf r) r 1 dest destLen)

/-- TELEMETRY KIND 2. -/
def execTelemetrySlowdown (h : QHdr) (dest : Addr) (destLen : Nat) (s : State) : Host.Outcome State Fault Refusal :=
  .next (s.commandRow h (.telemetry 2 dest destLen) fun s r => s.commitTelemetry (s.winsOf r) r 2 dest destLen)

/-- TELEMETRY KIND 3. -/
def execTelemetryErrorLog (h : QHdr) (dest : Addr) (destLen : Nat) (s : State) : Host.Outcome State Fault Refusal :=
  .next (s.commandRow h (.telemetry 3 dest destLen) fun s r => s.commitTelemetry (s.winsOf r) r 3 dest destLen)

/-- TELEMETRY KIND 4. -/
def execTelemetryPower (h : QHdr) (dest : Addr) (destLen : Nat) (s : State) : Host.Outcome State Fault Refusal :=
  .next (s.commandRow h (.telemetry 4 dest destLen) fun s r => s.commitTelemetry (s.winsOf r) r 4 dest destLen)

/-! ### SET_STITCH, SET_FLOOR, OPEN_INGEST -/

/-- Whether a collective that this manager has placed after stitch `e`, or has lists of, holds a reservation on the modules
of its members (R24, R323, R325; log entry 31). -/
def State.collsAfter (s : State) (e : Nat) : Bool :=
  s.isManager && s.domain.colls.any fun c => match c.place with | some p => decide (e < p) | none => true

/-- Whether a command placed in the present stitch may be placed again in its hem, which reserves a later one (R45, R50, R298): one
that has not finished, or a collective that holds no RELEASE. -/
def State.mayReadmit (s : State) : Bool :=
  s.runs.any fun q => decide (q.stop = none ∧ q.place = s.time.stitch.toNat) &&
    match q.body with
    | .run _ => decide (q.phase = .placed ∨ q.phase = .running) || (q.coll.isSome && decide (q.decision ≠ some true))
    | _ => false

/-- SET_STITCH at its commit (R24, R323). Only this module's reservations can be seen from here (log entry 31). -/
def State.commitSetStitch (s : State) (r : Run) (code : Nat) : State :=
  if !(s.domain.standalone || decide (s.domain.role = .topManager)) then s.fail r 0x73 0 255
  else if s.reservesAfter r.id s.time.stitch.toNat false || s.collsAfter s.time.stitch.toNat || s.mayReadmit then
    s.fail r 0x26 0 255
  else
    let s1 := { s with time := { s.time with lenNext := some (code % 4) } }
    (if s.domain.standalone then s1 else s1.emit (.channel0 (.stitchLength (s.time.stitch.toNat + 1) (code % 4)))).done r {}

/-- SET_STITCH. -/
def execSetStitch (h : QHdr) (code : Nat) (s : State) : Host.Outcome State Fault Refusal :=
  .next (s.commandRow h (.setStitch code) fun s r => s.commitSetStitch r code)

/-- Full-activity power of the bolts of sleeves at a guard, in milliwatts (R456). -/
def State.ownedPower (s : State) (guard : Nat) : Nat := boltsPower s.ownedBolts guard

/-- Whether the cap sustains a floor (R456). -/
def State.sustains (s : State) (floor : Nat) : Bool :=
  decide (s.ownedPower (floor + 1) ≤ s.computePart s.power.capW s.power.order) &&
  s.sleeves.all fun v => decide (boltsPower v.bolts (floor + 1) ≤ 1000 * v.power)

/-- A spread hold or a thermal emergency is in force (R467, R468). -/
def State.hotHold (s : State) : Bool :=
  decide (s.power.spreadHold ≠ [] ∨ s.power.spreadEmergency ≠ [] ∨ s.power.emergencies ≠ [])

/-- SET_FLOOR at its commit (R33, R456). Where a raise meets both the cap's refusal and a hold's (R19, R456), the cap's 0x29
answers (log entry 80, DESIGN CHOICE). -/
def State.commitSetFloor (s : State) (r : Run) (floor : Nat) : State :=
  let now := s.time.floorNext.getD s.time.floor
  let after := s.time.stitch.toNat
  if floor < 8 ∨ 15 < floor then s.fail r 0x74 0 255
  else if floor < now ∧ s.reservesAfter r.id after true = true then s.fail r 0x26 0 255
  else if now < floor ∧ s.sustains floor = false then s.fail r 0x29 0 255
  else if now < floor ∧ s.hotHold = true then s.fail r 0x2A 0 255
  else ({ s with time := { s.time with floorNext := some floor } } : State).done r {}

/-- SET_FLOOR. -/
def execSetFloor (h : QHdr) (floor : Nat) (s : State) : Host.Outcome State Fault Refusal :=
  .next (s.commandRow h (.setFloor floor) fun s r => s.commitSetFloor r floor)

/-- OPEN_INGEST at its commit (R334, R389): the module reads its share of the images that it is a seed of. -/
def State.commitOpenIngest (s : State) (r : Run) (pasid base len : Nat) : State :=
  let s1 : State := { s with bases := { s.bases with ingest := some (pasid, base, len) } }
  ((List.range 4).foldl State.seedRead s1).done r {}

/-- OPEN_INGEST. -/
def execOpenIngest (h : QHdr) (pasid base len : Nat) (s : State) : Host.Outcome State Fault Refusal :=
  .next (s.commandRow h (.openIngest pasid base len) fun s r => s.commitOpenIngest r pasid base len)

end Sys2Proof.Machine
end

