-- ==== Sys2Proof/Machine/BoltEvents.lean ====
section
/-! DEFINITION. Events of a bolt: overrun (R44), matrix-unit activity (R95, R96, R462), pocket fills (R129), droop (R35,
R463). -/
namespace Sys2Proof.Machine
open Sys2Proof

/-- The cost at which a cut command is admitted again (R45). -/
def nextCost (budget cost : Nat) : Nat := min budget (ceilDiv (3 * cost) 2)

/-- BEAD_METER_OVERRUN (R44): the meter reaches the admitted cost on the bolt, which stops issuing the command; the next
placed there starts at once; the OVERRUN event is posted (R400). -/
def execBeadMeterOverrun (bolt : Nat) (s : State) : Host.Outcome State Fault Refusal :=
  .next (if s.time.hem then s else match s.liveRun bolt with
  | none => s
  | some r =>
    let c := look 0 r.costs bolt
    let s1 := (s.updBolt bolt fun b => { b with meter := c }).updRun r.id fun q => { q with
      overrun := true, overOn := bolt :: q.overOn, measured := put 0 q.measured bolt c, largest := max q.largest c }
    let s2 := s1.event 0x01 (ownerNum r.hdr.owner) [(16, 1, r.hdr.queue), (18, 2, r.hdr.slot), (20, 2, r.hdr.tag.toNat),
      (22, 1, bolt), (24, 2, c), (26, 2, nextCost s.ahead.budget c)]
    (s2.updBolt bolt Bolt.discard).leave bolt)

/-- Change one matrix unit. -/
def State.updUnit (s : State) (bolt array : Nat) (f : MatrixUnit → MatrixUnit) : State :=
  s.updBolt bolt fun b => { b with mu := put {} b.mu array (f (look {} b.mu array)) }

/-- MATRIX_UNIT_COLD (R95): a unit that issues no row, real or keeper, becomes cold. -/
def execMatrixUnitCold (bolt array : Nat) (s : State) : Host.Outcome State Fault Refusal :=
  .next (
    let u := look {} (s.bolt bolt).mu array
    if !u.cold && (u.keeper || u.queue.isEmpty) then
      s.updUnit bolt array fun u => { u with cold := true, level := 0, keeper := false, ramping := false }
    else s)

/-- KEEPER_STALL_TIMEOUT (R96): after 64 cycles of stall the unit ramps down from the level it held, at 75 % or below; a stalled
instruction climbs again from the level reached when issue resumes. -/
def execKeeperStallTimeout (bolt array : Nat) (s : State) : Host.Outcome State Fault Refusal :=
  .next (
    if (look {} (s.bolt bolt).mu array).cold then s
    else s.updUnit bolt array fun u => { u with level := min u.level 6, keeper := true, dependent := false, ramping := u.stalled })

/-- BOLT_START_SLOT (R462): on a wholly cold bolt the queued MATRIX issues its first rows at the bolt's own slot. -/
def execBoltStartSlot (bolt : Nat) (s : State) : Host.Outcome State Fault Refusal :=
  .next (if s.time.hem then s else match s.liveRun bolt with
  | none => s
  | some _ =>
    if (List.range 4).all fun a => (look {} (s.bolt bolt).mu a).cold then
      (List.range 4).foldl (fun s a =>
        if (look {} (s.bolt bolt).mu a).queue.isEmpty then s
        else s.updUnit bolt a fun u => { u with cold := false, level := 2, keeper := false }) s
    else s)

/-- POCKET_FILL (R129): the reserved pockets of the pair take committed factors; they become valid in the hem. -/
def execPocketFill (bolt patch layer : Nat) (s : State) : Host.Outcome State Fault Refusal :=
  .next (match s.patch patch with
  | none => s
  | some p =>
    if s.time.hem || p.lost then s
    else s.updBolt bolt fun b => { b with
      pockets := b.pockets.map fun x =>
        if x.2.patch = patch ∧ x.2.layer = layer ∧ x.2.valid = false ∧ x.2.fillFor = s.time.stitch.toNat then
          (x.1, { x.2 with filling := true, version := p.version })
        else x })

/-- DROOP_DETECT (R35, R463): the clock is stretched, which costs `stretch` cycles (log entry 10); in the hem a staged
clock change moves to the next edge. -/
def execDroopDetect (bolt stretch : Nat) (s : State) : Host.Outcome State Fault Refusal :=
  .next (s.updBolt bolt fun b => { b with
    droops := b.droops + 1, stretching := true, stretch := b.stretch + stretch
    deferred := b.deferred || (s.time.hem && decide (b.staged ≠ b.clock)) })

/-- DROOP_RECOVER (R463): the clock period is restored. -/
def execDroopRecover (bolt : Nat) (s : State) : Host.Outcome State Fault Refusal :=
  .next (s.updBolt bolt fun b => { b with stretching := false })

/-- DROOP_SLACK_EXHAUSTED (R35): on a bolt that holds a reservation, a supply emergency on the bolt; the hem cuts what has
not finished there. -/
def execDroopSlackExhausted (bolt : Nat) (s : State) : Host.Outcome State Fault Refusal :=
  .next (if !s.time.hem && s.reservedOn bolt s.time.stitch.toNat then s.updBolt bolt fun b => { b with supplyCut := true }
    else s)

end Sys2Proof.Machine
end

