-- ==== Sys2Proof/Machine/Plan.lean ====
section
/-! DEFINITION. The power manager's plan in the hem for the next stitch: bolt clocks (R454, R467, R468), the power
state and gates (R472 to R475), the cap plan (R459), die rails and rail lift (R455). -/
namespace Sys2Proof.Machine
open Sys2Proof

/-- The compute die of a bolt (R18). -/
def dieOfBolt (bno : Nat) : Nat := bno / 4

/-- Runs that hold a reservation on a bolt in a stitch. -/
def State.runsOn (s : State) (bno e : Nat) : List Run := s.runs.filter fun r => r.uses bno && r.holds e

/-- The clock that the commands of a bolt request in a stitch (R454). -/
def State.requestOn (s : State) (bno e : Nat) : Nat :=
  let ops := (s.runsOn bno e).map (·.hdr.oppt)
  if ops.all (·.isSome) then maxOf (ops.map fun o => opClock (o.getD 0)) else 16

/-- Whether a die's clocks are planned down to the guard: a throttle of R467 or a spread hold of R468. -/
def State.dieHeld (s : State) (d : Nat) : Bool :=
  (s.power.throttled.any fun x => decide (x < 32) && x / 8 == d) || s.power.spreadHold.contains d

/-- Whether a die runs at 0.8 GHz from the next edge: its thermal emergency (R467, R468). -/
def State.dieEmergency (s : State) (d : Nat) : Bool :=
  (s.power.emergencies.any fun x => decide (x < 32) && x / 8 == d) || s.power.spreadEmergency.contains d

/-- The clock of a bolt for stitch `e` before the cap plan (R454, R467); `guard` is that stitch's guard. -/
def State.wantedClock (s : State) (guard e bno : Nat) : Nat :=
  if s.dieEmergency (dieOfBolt bno) then 8
  else if s.reservedOn bno e then
    if s.dieHeld (dieOfBolt bno) then guard else max guard (s.requestOn bno e)
  else 8

/-- Power of a bolt in a plan, in milliwatts (R459). -/
def State.planMw (s : State) (e : Nat) (plan : List Nat) (bno : Nat) : Nat :=
  if s.reservedOn bno e then fullMw (plan.getD bno 8)
  else match (s.bolt bno).gate with
    | .none => 8500
    | .clock => 3000
    | .power => 400

/-- Whether a bolt's clock may still be lowered (R459). -/
def State.lowerable (s : State) (guard e : Nat) (plan : List Nat) (bno : Nat) : Bool :=
  decide ((if s.reservedOn bno e then guard else 8) < plan.getD bno 8)

/-- The bolt with the highest clock that may be lowered, the lowest number on a tie. -/
def State.lowerBolt (s : State) (guard e : Nat) (plan : List Nat) (bs : List Nat) : Option Nat :=
  (bs.filter (s.lowerable guard e plan)).foldl (fun acc b => match acc with
    | none => some b
    | some a => if plan.getD a 8 < plan.getD b 8 then some b else some a) none

/-- Predicted power of a sleeve in a plan, in milliwatts. -/
def State.sleeveMw (s : State) (e : Nat) (plan : List Nat) (v : Sleeve) : Nat :=
  sumOf ((boltsIn v.bolts).map (s.planMw e plan))

/-- The sleeve that gives way (R459): the largest excess over POWER_W, else the largest share of it; the lowest number on a
tie. -/
def State.cutSleeve (s : State) (e : Nat) (plan : List Nat) (vs : List Sleeve) : Option Sleeve :=
  let inOrder := sorted (fun a b => decide (a.id ≤ b.id)) vs
  let above := inOrder.filter fun v => decide (1000 * v.power < s.sleeveMw e plan v)
  let best (l : List Sleeve) (better : Sleeve → Sleeve → Bool) : Option Sleeve :=
    l.foldl (fun acc v => match acc with | none => some v | some a => if better v a then some v else some a) none
  if above ≠ [] then
    best above fun v a => decide (s.sleeveMw e plan a - 1000 * a.power < s.sleeveMw e plan v - 1000 * v.power)
  else best inOrder fun v a => decide (s.sleeveMw e plan a * v.power < s.sleeveMw e plan v * a.power)

/-- The cap plan (R459): one 100 MHz step at a time until the prediction fits or nothing can be lowered. -/
def State.capPlan (s : State) (guard e limit : Nat) : Nat → List Nat → List Nat
  | 0, plan => plan
  | n + 1, plan =>
    if sumOf ((List.range 16).map (s.planMw e plan)) ≤ limit then plan
    else
      let open_ := s.sleeves.filter fun v => (s.lowerBolt guard e plan (boltsIn v.bolts)).isSome
      match (s.cutSleeve e plan open_).bind fun v => s.lowerBolt guard e plan (boltsIn v.bolts) with
      | none => plan
      | some b => s.capPlan guard e limit n (setAt plan b (plan.getD b 8 - 1))

/-! ### Power states (R472 to R475) -/

/-- Whether Rest may be entered (R474). -/
def State.mayRest (s : State) : Bool :=
  let now := s.time.stitch.toNat
  ((List.range 16).all fun b => !s.reservedOn b now && !s.reservedAfter b now) &&
  decide (s.memSide.unsettled = []) && decide (s.basted = []) && decide (s.posts = []) &&
  (List.range 4).all fun n => decide ((s.slot n).state ≠ .loading ∧ (s.slot n).refetch = [])

/-- The smallest latency tolerance in microseconds, none where nobody requires one. -/
def State.tolerance (s : State) : Option Nat :=
  let l := s.sleeves.map (·.latTol.toNat) ++ s.domain.requirement.toList
  match l with
  | [] => none
  | x :: _ => some (minOf x l)

/-- The deepest state that the tolerances allow (R474). -/
def State.byTolerance (s : State) : PState :=
  let ok (us : Nat) : Bool := match s.tolerance with | none => true | some t => decide (us ≤ t)
  if ok 3000 && s.mayRest then .rest else if ok 80 then .doze else if ok 3 then .lull else .active

/-- The power state of the stitch that begins: Rest lasts until its exit completes (R474, R475). -/
def State.choosePstate (s : State) : PState :=
  match s.power.pstate, s.power.restExit with
  | .rest, some e => if s.time.stitch.toNat < e then .rest else s.byTolerance
  | _, _ => s.byTolerance

/-- The gate of an idle bolt (R472). -/
def idleGate : PState → Gate
  | .active => .none
  | .lull => .clock
  | _ => .power

/-- A bolt's gate in the stitch that begins (R472, R475). -/
def State.gateOf (s : State) (p : PState) (bno : Nat) : Bolt :=
  let b := s.bolt bno
  let now := s.time.stitch.toNat
  let busy := s.reservedOn bno now || s.reservedAfter bno now
  if p = .rest then { b with gate := .power, exitDone := none, pockets := [], resident := [] }
  else match b.exitDone with
    | some e => if busy then { b with gate := if e ≤ now then .none else b.gate } else { b with exitDone := none, gate := idleGate p }
    | none => if busy then { b with gate := .none } else { b with gate := idleGate p }

/-- The machine with each bolt's gate as planned for the next stitch (R459). -/
def State.gatesPlanned (s : State) : State :=
  let t : State := { s with time := { s.time with stitch := s.time.stitch + 1 } }
  let p := t.choosePstate
  s.updBolts (List.range 16) fun n b => { b with gate := (t.gateOf p n).gate }

/-! ### Clocks and rails -/

/-- The clocks planned for the next stitch (R459). -/
def State.clockPlan (s : State) : List Nat :=
  let e := s.time.stitch.toNat + 1
  let t := s.ahead
  let limit := match s.power.capNext with
    | some (w, o) => s.computePart w o
    | none => s.computePart s.power.capW s.power.order
  s.gatesPlanned.capPlan t.guard e limit 128 ((List.range 16).map (s.wantedClock t.guard e))

/-- A die's own rail need in millivolts (R455). -/
def State.dieNeed (s : State) (e : Nat) (plan : List Nat) (d : Nat) : Nat :=
  let bs := (List.range 4).map (4 * d + ·)
  let rs := bs.flatMap fun b => s.runsOn b e
  if rs ≠ [] ∧ rs.all (·.hdr.oppt.isSome) = true then
    maxOf (bs.map fun b => if s.runsOn b e = [] then 600 else railNeed (max (s.requestOn b e) (plan.getD b 8)))
  else maxOf (bs.map fun b => railNeed (plan.getD b 8))

/-- Pairs of adjacent compute dies (R18). -/
def adjacentDies : List (Nat × Nat) := [(0, 1), (0, 2), (1, 3), (2, 3)]

/-- Raise the lower rail of each adjacent pair to within 150 mV (R455). -/
def liftOnce (rails : List Nat) : List Nat :=
  adjacentDies.foldl (fun r p =>
    let a := r.getD p.1 600
    let b := r.getD p.2 600
    if a + 150 < b then setAt r p.1 (b - 150) else if b + 150 < a then setAt r p.2 (a - 150) else r) rails

/-- Rails after raising, which reaches every die within four rounds. -/
def liftRails (rails : List Nat) : List Nat := liftOnce (liftOnce (liftOnce (liftOnce rails)))

/-- The plan of a hem (R27, R454 to R459): clocks staged, rails set. -/
def State.planStitch (s : State) : State :=
  let plan := s.clockPlan
  let need := (List.range 4).map (s.dieNeed (s.time.stitch.toNat + 1) plan)
  let rails := liftRails need
  let s1 := s.updBolts (List.range 16) fun n b => { b with staged := plan.getD n 8 }
  { s1 with power := { s1.power with rails := rails, railLift := decide (rails ≠ need) } }

end Sys2Proof.Machine
end

