-- ==== Sys2Proof/Machine/Hem.lean ====
section
/-! DEFINITION. The hem (R27): the commit of every placed command, the cuts (R44, R45, R50), collectives without or against
a decision (R298, R305, R307, R308), records of stopped commands (R391, R413), mailbox requests (R378), sleeve resets
(R414, R415), the manager's decisions (R325), and the answers to commit writes (R360, R361). -/
namespace Sys2Proof.Machine
open Sys2Proof

/-! ### Default recipes (R181) -/

/-- A recipe entry with SAT_LOG 10 (R178, R181). -/
def recipeEntry (initX rot window margin mode round fmt : Nat) : BitVec 64 :=
  BitVec.ofNat 64 (initX * 2 ^ 56 + 10 * 2 ^ 50 + rot * 2 ^ 28 + (window - 1) * 2 ^ 20 + margin * 2 ^ 16 + mode * 2 ^ 10 +
    round * 2 ^ 8 + fmt)

/-- BF16, fixed, INIT_X 0x7F, nearest. -/
def bf16Recipe : BitVec 64 := recipeEntry 0x7F 0 1 0 1 0 0

/-- FP8 E5M2, running over 16, margin 1, stochastic, INIT_X 0x70. -/
def actGradRecipe : BitVec 64 := recipeEntry 0x70 0 16 1 0 1 3

/-- The training column, by kind (R177, R181). -/
def defaultTrain : List (BitVec 64) :=
  [recipeEntry 0 0 1 0 0 0 4, recipeEntry 0 15 1 0 0 0 4, actGradRecipe, recipeEntry 0 0 1 0 0 1 5,
   recipeEntry 0 0 1 0 0 1 4, recipeEntry 0 0 1 0 0 1 4, recipeEntry 0 0 1 0 0 0 4, bf16Recipe, bf16Recipe,
   recipeEntry 0 0 1 0 2 0 0, bf16Recipe]

/-- The serving column. -/
def defaultServe : List (BitVec 64) :=
  [recipeEntry 0 0 1 0 0 0 4, recipeEntry 0 15 1 0 0 0 8, actGradRecipe, bf16Recipe, bf16Recipe, bf16Recipe,
   recipeEntry 0 0 1 0 0 0 4, recipeEntry 0 7 1 0 0 0 4, recipeEntry 0 0 1 0 0 0 4, recipeEntry 0 0 1 0 2 0 0, bf16Recipe]

/-! ### Placements made again -/

/-- Commands that depend on a run placed again are placed again where they no longer follow it (R39). -/
def State.replaceDependents (s : State) (id : Nat) : State :=
  (sorted (fun a b => decide (a ≤ b)) (s.dependents id)).foldl (fun s i =>
    match s.findRun i with
    | none => s
    | some q =>
      if q.stop = none ∧ q.phase = .placed ∧ q.place ≤ s.latestPred q.preds then s.placeAgain q q.costs else s) s

/-- A run placed again at costs that are known, its work dropped, with a LATE_CAUSE bit (R45, R281, R305). -/
def State.readmit (s : State) (r : Run) (costs : Sparse Nat) (cause : BitVec 8) : State :=
  let q := r.moved 0 cause
  let s1 := ({ s with posts := s.posts.filter fun p => p.run != r.id } : State).placeAgain { q with phase := .placed } costs
  s1.replaceDependents r.id

/-- The machine as pricing sees it under the plan that a lost port brings (R281). -/
def State.underNewPlan (s : State) : State :=
  { s with edgePorts := s.portsNow, domain := { s.domain with plan := s.domain.plan + if s.domain.planDue.isSome then 1 else 0 } }

/-- A RUN weighed by its trace in stitch `e` under the plan to come: its costs, and the bolts with its pockets claimed (R39, R281). -/
def State.weighReplanned (s : State) (r : Run) (claims : Nat → List Claim) (e : Nat) : Option (Sparse Nat × State) :=
  match r.body, s.sleeve (ownerNum r.hdr.owner) with
  | .run a, some v => match v.patterns.find? fun p => p.handle == r.hdr.pattern with
    | some p => (s.underNewPlan.weighRun v r a p claims 0 e).map fun x => (x.1, { s with bolts := x.2.bolts })
    | none => none
  | _, _ => none

/-- Candidate stitches of a collective listed again at its costs: up to the deadline, or past it where `late` (R45, R50, R298,
R305, R325). One that a lost port ended is priced anew, for the stitches from the new plan's on (R281). A re-run after an abort
(`failStatus` none) goes to the manager with an empty list where none fits: the manager alone knows whether a member's unravel
caused the abort (R328). -/
def State.listAgain (s : State) (r : Run) (cause : BitVec 8) (late : Bool) (failStatus : Option Status) : State :=
  let q := { r.moved 0 cause with phase := .candidate, collNo := none, decision := none, candidates := [], candCosts := [] }
  let s0 := ({ s with posts := s.posts.filter fun p => p.run != r.id } : State).dropRun r.id
  let now := s.time.stitch.toNat
  let from_ := max (if r.replanned then max (now + 1) (s.domain.planDue.getD 0) else now + 2) (s0.latestPred r.preds + 1)
  let last := if late then s0.horizon + 4096 else r.submit + r.hdr.deadline
  let claims := s0.claimsOf q
  let weigh (s : State) (e : Nat) : Option (Sparse Nat × State) :=
    if r.replanned then s.weighReplanned q claims e
    else
      let t := (s.claimIn q claims e).1
      if t.fitsIn q r.costs (s.ownWords q) 0 e then some (r.costs, t) else none
  let cs := s0.candidatesFrom weigh (last + 1 - from_) 16 from_
  let c := { q with candidates := cs.1.map (·.1), candCosts := cs.1.map (·.2) }
  let listed := (({ cs.2 with runs := cs.2.runs ++ [c] } : State).sendList (r.coll.getD 0) r.collSeq c.candidates r.ownArrivals).replaceDependents r.id
  match cs.1, failStatus with
  | [], some st => s.fail { r with lateCause := q.lateCause } st 0 255
  | _, _ => listed

/-! ### Cuts (R44, R45, R50) -/

/-- Costs after an overrun (R45). -/
def raisedCosts (budget : Nat) (costs : Sparse Nat) : Sparse Nat := costs.map fun c => (c.1, nextCost budget c.2)

/-- The larger of two figures on each bolt. -/
def peakOf (a b : Sparse Nat) : Sparse Nat := b.foldl (fun m x => put 0 m x.1 (max (look 0 m x.1) x.2)) a

/-- The raised price that a third cut leaves (R45). -/
def raisedPriceOf (r : Run) (peak : Sparse Nat) : Option RaisedPrice :=
  match r.body with
  | .run a => some ⟨r.hdr.pattern, r.hdr.cls, a.scalars, (boltsIn r.hdr.bolts).map (look 0 peak)⟩
  | _ => none

/-- A command cut for overrun: admitted again at half as much again, a collective by a new list, or failed at its third cut
(R45). The cap is the budget of the stitches to come. -/
def State.recut (s : State) (r : Run) : State :=
  let peak := peakOf r.peak r.measured
  let q : Run := { r with cuts := r.cuts + 1, peak := peak, largest := maxOf (r.largest :: peak.map (·.2)) }
  if 3 ≤ q.cuts then
    let s1 := match raisedPriceOf r peak with
      | some p => s.updSleeve (ownerNum r.hdr.owner) fun v => { v with raised := v.raised ++ [p] }
      | none => s
    s1.fail q 0x25 q.largest 255
  else if r.coll.isSome then s.listAgain { q with costs := raisedCosts s.ahead.budget r.costs } (causeBit 4) true (some 0x66)
  else s.readmit q (raisedCosts s.ahead.budget r.costs) (causeBit 4)

/-- Whether a run is a RUN placed in the present stitch that has not finished. -/
def State.unfinished (s : State) (r : Run) : Bool :=
  (match r.body with | .run _ => true | _ => false) && decide (r.stop = none ∧ r.place = s.time.stitch.toNat) &&
  decide (r.phase = .placed ∨ r.phase = .running)

/-- LATE_CAUSE bits of an emergency that cut a run: one of the whole stitch (R50), or droop on one of its bolts (R35). -/
def State.emergencyOf (s : State) (r : Run) : BitVec 8 :=
  s.time.emergency ||| (if (boltsIn r.hdr.bolts).any fun b => (s.bolt b).supplyCut then causeBit 2 else 0)

/-- Whether an emergency is what left a run unfinished in this stitch (R50). -/
def State.cutByEmergency (s : State) (r : Run) : Bool := s.unfinished r && !r.overrun && decide (s.emergencyOf r ≠ 0)

/-- A run of the book as the cut of a hem found it: what it measured and how it ended, at the place it has now. -/
def Run.asCut (q r : Run) : Run :=
  { q with
    measured := r.measured, overOn := r.overOn, overrun := r.overrun, decision := r.decision, replanned := r.replanned
    watch := r.watch, baste := r.baste }

/-- The cuts of a hem: where an emergency left work unfinished, every uncommitted placement of this stitch or later moves
one stitch (R50); what overran, or did not finish otherwise, is admitted again (R44, R45). Collectives follow in
`dropCollectives`. -/
def State.cutAll (s : State) : State :=
  let un := s.runs.filter s.unfinished
  let emer := un.filter s.cutByEmergency
  let rest := un.filter fun r => !s.cutByEmergency r && r.coll.isNone
  let cause := emer.foldl (fun m r => m ||| s.emergencyOf r) 0
  let s1 := if emer = [] then s else s.shiftFrom s.time.stitch.toNat 1 cause
  rest.foldl (fun s r => match s.findRun r.id with
    | some q => s.recut (q.asCut r)
    | none => s) s1

/-! ### Commits (R28, R253) -/

/-- A placed command's commit by its row. -/
def State.commitRow (s : State) (wins : List Window) (ps : List Patch) (r : Run) : State :=
  match r.body with
  | .run _ => s.commitRun wins r
  | .update u hs => s.commitUpdate wins r u hs
  | .kill _ => s.done r {}
  | .fence => s.commitFence r
  | .regTenant t k => s.commitRegTenant r t k
  | .deregTenant t => s.commitDeregTenant r t
  | .regPatch d i => s.commitRegPatch r d i
  | .deregPatch h => s.commitDeregPatch r h
  | .exportPatch h d n => s.commitExportPatch wins ps r h d n
  | .loadPattern i n => s.commitLoadPattern r i n
  | .freePattern h => s.commitFreePattern r h
  | .setRecipe c k e => s.commitSetRecipe r c k e
  | .configStack b l n => s.commitConfigStack r b l n
  | .map b n p w node => s.commitMap r b n p w node
  | .unmap b n => s.commitUnmap r b n
  | .setWindow w rd wr p b n => s.commitSetWindow r ⟨w, p, b, n, rd, wr⟩
  | .clearWindow w => s.commitClearWindow r w
  | .createGroup b => s.commitCreateGroup r b
  | .destroyGroup g => s.commitDestroyGroup r g
  | .snapshot i t o => s.commitSnapshot r i t o
  | .snapshotDomain i t o => s.commitSnapshotDomain r i t o
  | .telemetry k d n => s.commitTelemetry wins r k d n
  | .setStitch c => s.commitSetStitch r c
  | .setFloor f => s.commitSetFloor r f
  | .openIngest p b n => s.commitOpenIngest r p b n

/-- Whether a placed run has everything done that its commit needs: a RUN has finished on its bolts, a collective holds
RELEASE (R307). -/
def readyToCommit (r : Run) : Bool :=
  (match r.body with | .run _ => decide (r.phase = .finished) | _ => true) &&
  (r.coll.isNone || (decide (r.decision = some true) && !r.replanned))

/-- The commit log takes the state before a command's commit (R47). -/
def State.logCommit (s : State) (id : Nat) : State :=
  let p : LogPoint :=
    { run := id, runs := s.runs, sleeves := s.sleeves, tenants := s.tenants, patches := s.patches, groups := s.groups
      bolts := (List.range 16).map fun b => (b, (s.bolt b).lanes, (s.bolt b).pockets)
      unsettled := s.memSide.unsettled, spilled := s.memSide.spilled, keys := s.sec.keys, lenNext := s.time.lenNext
      floorNext := s.time.floorNext, armed := s.snap.armed, ingest := s.bases.ingest }
  { s with time := { s.time with log := s.time.log ++ [p] } }

/-- The commits of a hem in placement order (R28): `wins` are the sleeves' windows (R250) and `ps` the patches (R139) as the
hem found them. -/
def State.commitAll (s : State) (wins : List (Nat × List Window)) (ps : List Patch) : List Nat → State
  | [] => s
  | id :: ids =>
    match s.findRun id with
    | none => s.commitAll wins ps ids
    | some r =>
      if r.stop ≠ none ∨ readyToCommit r = false then s.commitAll wins ps ids
      else
        let w := match wins.find? fun x => x.1 == ownerNum r.hdr.owner with | some x => x.2 | none => []
        match s.unmapped w r with
        | some a => (s.fail r 0x12 a 255).commitAll wins ps ids
        | none => ((s.logCommit r.id).commitRow w ps r).commitAll wins ps ids

/-- Commands placed in the present stitch. -/
def State.placedNow (s : State) : List Nat :=
  (s.runs.filter fun r => decide (r.stop = none ∧ r.place = s.time.stitch.toNat ∧ r.phase ≠ .waiting ∧ r.phase ≠ .candidate)).map (·.id)

/-! ### Collectives that do not commit -/

/-- The module leaves a base span (R308, R322). -/
def State.leaveSpan (s : State) (m : Membership) : State :=
  (List.range 4).foldl (fun (s : State) n =>
    if (s.slot n).spanChannel + 256 = m ∧ 1 < (s.slot n).span then s.updSlot n fun q => { q with spanGone := true } else s) s

/-- The module is removed from a collective's group or span (R308). -/
def State.removeGroup (s : State) (r : Run) : State :=
  match r.coll with
  | none => s
  | some m => { s.leaveSpan m with groups := s.groups.map fun g =>
      if g.block.group = m ∧ g.sleeve = ownerNum r.hdr.owner then { g with removed := true } else g }

/-- The blocks whose escalation the manager records for a re-run (R305): those of posts still escalating, at their last
ESC. -/
def State.keepEscs (s : State) (r : Run) : State :=
  let mine (g : Group) : List Post := s.posts.filter fun p => p.run == r.id && p.group == g.block.group
  let note (m : Sparse Nat) (p : Post) : Sparse Nat := p.work.zipIdx.foldl (fun m b => put 0 m (escKey p.run p.no b.2) b.1.esc) m
  { s with groups := s.groups.map fun g =>
      if g.sleeve ≠ ownerNum r.hdr.owner then g else { g with escs := (mine g).foldl note g.escs } }

/-- Whether a post of a run has escalated and not ended. -/
def State.escalating (s : State) (r : Run) : Bool := s.posts.any fun p => p.run == r.id && decide (p.pass = .escalation)

/-- A collective of the present stitch that does not hold RELEASE: one that a lost port or an emergency stopped here is
listed again (R50, R281), one that overran here is cut (R45), under ABORT it runs again, as a re-run of R305 on a member that
escalates and found no mismatch, else of R298 (log entry 116), and with no decision it ends with 0x68 and the module leaves the group (R308). `emergency` says that an emergency cut it. -/
def State.dropCollective (s : State) (r : Run) (emergency : Bool) : State :=
  if r.replanned then s.listAgain r (causeBit 5) false (some 0x68)
  else if r.overrun && decide (r.decision ≠ none) then s.recut r
  else if emergency && decide (r.decision ≠ none) then s.listAgain r 0 true (some 0x66)
  else match r.decision with
  | some false =>
    if s.escalating r && !r.mismatch then (s.keepEscs r).listAgain r (causeBit 4) true (some 0x66)
    else if 1 ≤ r.reruns then s.fail r 0x66 0 255
    else s.listAgain { r with reruns := r.reruns + 1 } (causeBit 6) false none
  | _ => (s.removeGroup r).fail r 0x68 0 255

/-- Every collective placed in this stitch that has not committed, and every one whose candidates have all passed with no
placement (R308, R330). -/
def State.dueCollectives (s : State) : List Run :=
  let now := s.time.stitch.toNat
  s.runs.filter fun r => r.coll.isSome && decide (r.stop = none) &&
    match r.phase with
    | .candidate => decide ((if r.candidates = [] then r.place + 16 else maxOf r.candidates) ≤ now)
    | .waiting => false
    | _ => decide (r.place = now)

/-- The cuts of a hem and the collectives that do not commit in it (R44, R45, R50, R298, R305, R308). -/
def State.cutHem (s : State) : State :=
  (s.dueCollectives.map fun r => (r, s.cutByEmergency r)).foldl (fun s x => match s.findRun x.1.id with
    | some q => s.dropCollective (q.asCut x.1) x.2
    | none => s) s.cutAll

/-! ### Records of stopped commands (R391, R413) -/

/-- Queue order: the admin queue, then sleeves, queues and submissions in rising order (R41). -/
def queueOrder (a b : Run) : Bool :=
  let k (r : Run) : Nat := match r.hdr.owner with | .admin => 0 | .sleeve n => n + 1
  if k a ≠ k b then decide (k a < k b)
  else if a.hdr.queue ≠ b.hdr.queue then decide (a.hdr.queue < b.hdr.queue) else decide (a.id ≤ b.id)

/-- Whether a run is a KILL. -/
def isKill (r : Run) : Bool := match r.body with | .kill _ => true | _ => false

/-- Windows that the hem's commits removed or replaced take with them every command that names one and did not commit in
this hem, one that the hem cut among them (R250). -/
def State.windowsGone (s : State) (wins : List (Nat × List Window)) : State :=
  let gone := wins.flatMap fun x => (x.2.filter fun w => match s.sleeve x.1 with
    | some v => !v.windows.contains w || v.swapped.contains w.id
    | none => true).map fun w => (x.1, w.id)
  let s1 : State := { s with sleeves := s.sleeves.map fun (v : Sleeve) => { v with swapped := [] } }
  gone.foldl (fun (s : State) g => s.windowLost g.1 g.2) s1

/-- The lane that a lost frame lay in is emptied (R150). -/
def State.emptyLost (s : State) (st : Stop) : State :=
  if st.status = 0x63 then
    s.updBolt st.bolt fun b =>
      let n := st.detail.toNat % 4
      { b with lanes := put {} b.lanes n (look {} b.lanes n).empty }
  else s

/-- The record of one stopped command. -/
def State.recordStop (s : State) (id : Nat) : State :=
  match s.findRun id with
  | none => s
  | some r => match r.stop with
    | none => s
    | some st => (s.emptyLost st).fail r st.status st.detail.toNat st.bolt

/-- Records of stopped commands: in queue order, each KILL's after those; two rounds, since a failure withdraws dependents
that were not stopped before. -/
def State.recordStops (s : State) : State :=
  let round (kills : Bool) (s : State) : State :=
    ((sorted queueOrder (s.runs.filter fun r => decide (r.stop ≠ none) && isKill r == kills)).map (·.id)).foldl State.recordStop s
  round true (round false (round false s))

/-! ### Pockets (R129) -/

/-- Pockets that a fill of this stitch filled become valid, before the hem's commits, so that an update of the hem finds
them (R130). -/
def State.settleFills (s : State) : State :=
  let now := s.time.stitch.toNat
  s.updBolts (List.range 16) fun _ b => { b with
    pockets := b.pockets.map fun k =>
      if k.2.fillFor = now ∧ k.2.filling = true then (k.1, { k.2 with valid := true, filling := false, fillFor := 0 }) else k }

/-- Fills of this stitch that were not made end with it, but for those that moved with their command (R50). -/
def State.endFills (s : State) : State :=
  let now := s.time.stitch.toNat
  s.updBolts (List.range 16) fun _ b => { b with
    pockets := b.pockets.map fun k => if k.2.fillFor = now ∧ now ≠ 0 then (k.1, { k.2 with filling := false, fillFor := 0 }) else k }

/-! ### Sleeve reset (R414 to R416) -/

/-- The reset of a sleeve takes effect (R414). -/
def State.resetSleeve (s : State) (v : Sleeve) (destroy : Bool) : State :=
  let mine (r : Run) : Bool := decide (r.hdr.owner = Owner.sleeve v.id)
  let ids := (s.runs.filter mine).map (·.id)
  let s1 := s.squashCollectives mine
  let s2 := ids.foldl (fun (s : State) id => match s.findRun id with
    | none => s
    | some r => s.haltRun { r with stop := none } 0x61 0 255) s1
  let s3 := { s2 with
    runs := s2.runs.map fun r => if mine r then { r with stop := some ⟨0x61, 0, 255⟩ } else r
    posts := s2.posts.filter fun p => !ids.contains p.run
    groups := s2.groups.map fun (g : Group) => { g with escs := g.escs.filter fun e => !ids.contains (e.1 / 2 ^ 44) }
    hif := { s2.hif with
      lineCache := s2.hif.lineCache.filter fun e => e.1 != v.id
      pageReqs := s2.hif.pageReqs.filter fun q => q.sleeve != v.id } }
  let s4 := s3.updBolts (boltsIn v.bolts) fun _ b => { b with
    pockets := b.pockets.filter fun k => k.2.valid || decide (k.2.fillFor = 0 ∧ k.2.filling = false) }
  s4.updSleeve v.id fun v => { v with
    stage := .drain, destroying := destroy, sqs := v.sqs.map fun q => { q with stopped := true } }

/-- The lanes of a sleeve lose their frames (R148, R415). -/
def State.emptyLanes (s : State) (v : Sleeve) : State :=
  s.updBolts (boltsIn v.bolts) fun _ b => { b with lanes := b.lanes.map fun l => (l.1, l.2.empty) }

/-- The hem after a reset: lanes emptied, records due (R415); during an unravel the step waits (R416). -/
def State.drainResets (s : State) : State :=
  s.sleeves.foldl (fun s v => if v.stage = .drain ∧ s.rel.unravel = none then
      (s.emptyLanes v).updSleeve v.id fun v => { v with stage := .finish }
    else s) s

/-- A reset whose commits are all answered and recorded is complete; a destruction then tears the sleeve down (R410,
R415); an unravel moves that step with its shift (R416). -/
def State.finishResets (s : State) : State :=
  s.sleeves.foldl (fun s v =>
    if v.stage = .finish ∧ s.rel.unravel = none ∧ (s.hif.commits.any fun c => decide (c.owner = Owner.sleeve v.id)) = false then
      if v.destroying then ((s.tearSleeve v).endGroups (s.groups.filter fun g => g.sleeve == v.id)).mbxDone 0x11 0 []
      else (s.updSleeve v.id fun v => { v with stage := .none }).mbxDone 0x12 0 []
    else s) s

/-! ### Mailbox requests at the hem (R378) -/

/-- Erase bolts that another sleeve last owned (R256, R409). -/
def State.takeBolts (s : State) (sl : Nat) (bolts : BitVec 16) : State :=
  s.updBolts (boltsIn bolts) fun _ b => { (if b.lastOwner = some sl then b else b.disowned) with lastOwner := some sl }

/-- A new sleeve (R401, R409, R435). -/
def State.addSleeve (s : State) (id : Nat) (bolts : BitVec 16) (memGib cxl seam power : Nat) : State :=
  let g := s.newKeySet id
  let v : Sleeve :=
    { id := id, bolts := bolts, memGib := memGib, cxl := cxl, seam := seam, power := power, born := s.time.stitch.toNat
      keygen := g.1, recTrain := defaultTrain, recServe := defaultServe }
  { g.2.takeBolts id bolts with sleeves := g.2.sleeves ++ [v] }

/-- Change the submission queues of an owner. -/
def State.updSqs (s : State) (o : Owner) (f : List Sq → List Sq) : State :=
  match o with
  | .admin => { s with admSqs := f s.admSqs }
  | .sleeve n => s.updSleeve n fun v => { v with sqs := f v.sqs }

/-- Change the completion queues of an owner. -/
def State.updCqs (s : State) (o : Owner) (f : List Cq → List Cq) : State :=
  match o with
  | .admin => { s with admCqs := f s.admCqs }
  | .sleeve n => s.updSleeve n fun v => { v with cqs := f v.cqs }

/-- The MSI-X vector of a completion queue (R365, R383). -/
def cqVector (o : Owner) (vector : Nat) : Nat := match o with | .admin => 1024 | .sleeve n => 64 * n + vector

/-- A PASID leaves a sleeve: its windows go, with the commands that name them, and its translations (R250, R411). -/
def State.unbind (s : State) (sl pasid : Nat) : State :=
  match s.sleeve sl with
  | none => s
  | some v =>
    let ws := (v.windows.filter fun w => w.pasid == pasid).map (·.id)
    let s1 := s.updSleeve sl fun v => { v with
      pasids := v.pasids.filter (· != pasid), windows := v.windows.filter fun w => w.pasid != pasid }
    let s2 := (ws.foldl (fun s w => s.windowLost sl w) s1).recordStops
    { s2 with hif := { s2.hif with
      atc := s2.hif.atc.filter fun e => e.pasid != pasid
      pageReqs := s2.hif.pageReqs.filter fun q => q.pasid != pasid || decide (q.stage = .sent) } }

/-- A mailbox request takes effect (R378, R383, R411). -/
def State.applyReq (s : State) (q : MbxReq) : State :=
  let sl := s.mbx.sleeve
  let o : Owner := if sl = 255 then .admin else .sleeve sl
  match q with
  | .createSleeve b m c e p => (s.addSleeve sl b m c e p).mbxDone 0x10 0 []
  | .destroySleeve => if s.rel.unravel ≠ none then s else match s.sleeve sl with
    | some v => if v.stage = .none then s.resetSleeve v true else s
    | none => s.mbxDone 0x11 0x7A []
  | .resetSleeve => if s.rel.unravel ≠ none then s else match s.sleeve sl with
    | some v => if v.stage = .none then s.resetSleeve v false else s
    | none => s.mbxDone 0x12 0x7A []
  | .bindPasid p => (s.updSleeve sl fun v => { v with
      pasids := if v.pasids.contains p then v.pasids else v.pasids ++ [p] }).mbxDone 0x13 0 []
  | .unbindPasid p =>
    let s1 := s.unbind sl p
    if s1.hif.pageReqs.any fun x => x.pasid == p then s1 else s1.mbxDone 0x14 0 []
  | .createCq q v p b n hd =>
    (s.updCqs o fun l => l ++ [{ id := q, vector := cqVector o v, pasid := s.queuePasid o p, base := b, size := n, headAddr := hd }]).mbxDone
      0x20 0 []
  | .createSq q c sq0 p b n =>
    (s.updSqs o fun l => l ++ [{ id := q, cq := c, pasid := s.queuePasid o p, base := b, size := n, d := sq0, l := sq0, pi := 0, ci := 0 }]).mbxDone
      0x21 0 []
  | .deleteQueue isCq n =>
    if isCq then
      if (s.sqsOf o).any fun x => x.cq == n then s.mbxDone 0x22 0x79 [] else (s.updCqs o fun l => l.filter fun x => x.id != n).mbxDone 0x22 0 []
    else if s.queueBusy o n then s.mbxDone 0x22 0x79 [] else (s.updSqs o fun l => l.filter fun x => x.id != n).mbxDone 0x22 0 []
  | .restartSq n sq0 ci =>
    (s.updSqs o fun l => l.map fun x => if x.id = n then
      { x with d := sq0, l := sq0, ci := ci, pi := ci, stopped := false, ignored := 0, retries := 0, lastSeq := none } else x).mbxDone 0x23 0 []
  | .closeSession => s.endSession.mbxDone 0x02 0 []

/-- The mailbox request that waits for this hem. -/
def State.applyMailbox (s : State) : State :=
  match s.mbx.req with
  | some q => s.applyReq q
  | none => s

/-- The mailbox interrupt due in this hem (R366, R381). -/
def State.mailboxIrq (s : State) : State :=
  if s.mbx.irqDue then ({ s with mbx := { s.mbx with irqDue := false } } : State).msix 1024 else s

/-! ### Table lines (R528), aliases and slots (R337, R338) -/

/-- Bad table lines are rebuilt from the mapping records. -/
def State.rebuildTables (s : State) : State := { s with memSide := { s.memSide with badTables := [] } }

/-- The pages copied in a stitch are switched in its hem (R249). -/
def State.switchPages (s : State) : State :=
  s.memSide.retiring.foldl State.switchCopied { s with memSide := { s.memSide with retiring := [] } }

/-- Alias pointers whose switch stitch comes next are committed (R337). -/
def State.commitSwitches (s : State) : State :=
  let due := s.bases.pendingSwitch.filter fun x => decide (x.2.2 ≤ s.time.stitch.toNat + 1)
  { s with bases := { s.bases with
      pendingSwitch := s.bases.pendingSwitch.filter fun x => decide (s.time.stitch.toNat + 1 < x.2.2)
      aliasMap := due.foldl (fun m x => put 0 m x.1 x.2.1) s.bases.aliasMap } }

/-- A slot with nothing in it. -/
def emptySlot : Slot := {}

/-- A retired slot is free; its base key ends where no other slot names it (R338, R420). -/
def State.freeSlot (s : State) (n : Nat) : State :=
  let q := s.slot n
  let s1 := s.updSlot n fun q => { emptySlot with keygen := q.keygen }
  if (List.range 4).any fun i => decide ((s1.slot i).state ≠ .free ∧ (s1.slot i).keyId = q.keyId) then s1
  else { s1 with sec := { s1.sec with keys := s1.sec.keys.filter fun k => !(k.kind == 1 && k.handle == q.keyId) } }

/-- Slots that an earlier hem put into RETIRING are free, their pages erased; handles due for retirement pass to RETIRING
(R338). -/
def State.retireSlots (s : State) : State :=
  let s1 := (List.range 4).foldl (fun (s : State) n =>
    if (s.slot n).state = .retiring then s.freeSlot n else s) s
  let s2 := s1.bases.pendingRetire.foldl (fun (s : State) h => match s.slotOf h with
    | some n => s.updSlot n fun q => { q with state := .retiring, mem := [], layers := [], got := [], refetch := [], lost := [] }
    | none => s) s1
  { s2 with
    bases := { s2.bases with pendingRetire := [] }
    domain := { s2.domain with holdings := s2.domain.holdings.filter fun x => !s.bases.pendingRetire.contains x.handle } }

/-! ### The manager's decisions (R307, R325, R329) -/

/-- Stitches common to every list. -/
def commonStitches : List (Nat × List Nat) → List Nat
  | [] => []
  | (_, l) :: rest => l.filter fun e => rest.all fun x => x.2.contains e

/-- What the manager decides of one collective in the hem of stitch `now`: none while it waits; else a stitch, or a
refusal (R325). -/
def State.decideColl (s : State) (c : MgrColl) : Option (Except Status Nat) :=
  let now := s.time.stitch.toNat
  let first := if s.domain.soon.contains (c.membership, c.seqNo) then max (now + 1) (s.domain.planDue.getD 0)
    else now + if s.spansDomains c.membership then 4 else 2
  let n := s.memberCount c.membership
  let common := (commonStitches c.lists).filter fun e => decide (first ≤ e)
  if n ≤ c.lists.length ∧ n ≠ 0 then
    some (match common with | [] => .error 0x27 | e :: es => .ok (minOf e es))
  else if common = [] then some (.error 0x28) else none

/-- Status of a collective that the manager refuses: of a re-run that no stitch fits, 0x66 (R298). -/
def refusedStatus (r : Run) (st : Status) : Status := if r.reruns ≠ 0 ∧ (st = 0x27 ∨ st = 0x28) then 0x66 else st

/-- A run takes a stitch that the manager gives its collective (R325): one of its candidates, at the costs found for it, the others
being released at the next edge; or, after a member's unravel (R328), its own stitch and K, which is no re-run of R298. -/
def Run.takeStitch (q : Run) (no : BitVec 16) (e : Nat) : Run :=
  let p : Run := { q with phase := .placed, collNo := some no, decision := none }
  if q.phase ≠ .candidate then p
  else if q.candidates.contains e then { p with place := e, costs := q.candCosts.getD (q.candidates.idxOf e) q.costs }
  else
    { p with
      place := e, shifts := q.shifts + (e - q.place), again := true, reruns := q.reruns - 1
      lateCause := q.lateCause &&& ~~~causeBit 6 ||| causeBit 0 }

/-- A run's costs in its stitch with the arrivals that its members reported (R326). -/
def State.costsWith (s : State) (r : Run) : Sparse Nat :=
  let t := s.dropRun r.id
  match r.body, s.sleeve (ownerNum r.hdr.owner) with
  | .run a, some v => match v.patterns.find? fun p => p.handle == r.hdr.pattern with
    | some p => (match t.priceRun v r a p (t.claimsOf r) r.place with | some x => x.1 | none => r.costs)
    | none => r.costs
  | _, _ => r.costs

/-- A stitch, with the latest arrivals of any member at its barriers, is this member's (R325, R326, R328). -/
def State.takePlace (s : State) (r : Run) (no : BitVec 16) (p : Placing) : State :=
  let q := { r.takeStitch no p.stitch with arrivals := p.arrivals }
  s.updRun r.id fun _ => if p.arrivals = [] ∨ p.arrivals = r.arrivals then q else { q with costs := s.costsWith q }

/-- A placement reaches the member of this module (R325, R328): its stitch, or the status with which it ends. A collective that the
manager refuses before this member has submitted it has used up its sequence number. -/
def State.takePlacement (s : State) (m : Membership) (seqNo : Nat) (no : BitVec 16) (outcome : Option Placing) (st : Status) : State :=
  match s.runs.find? fun r => decide (r.coll = some m ∧ r.collSeq = seqNo ∧ r.phase ≠ .waiting ∧ r.stop = none) with
  | none =>
    if outcome.isSome ∨ s.domain.usedUp.contains (m, seqNo) ∨ seqNo < look 0 s.domain.collSeq m ∨
        (m < 256 ∧ (s.groups.any fun g => g.block.group == m) = false) then s
    else { s with domain := { s.domain with usedUp := s.domain.usedUp ++ [(m, seqNo)] } }
  | some r =>
    match outcome with
    | none => s.stopRun r.id (refusedStatus r st) 0 255
    | some p => if r.phase = .candidate ∨ (r.phase = .placed ∧ p.stitch = r.place) then s.takePlace r no p else s

/-- Whether a collective number may be given to a collective of stitch `e`: none placed within 4,095 stitches of it has it (R324). -/
def State.numberFree (s : State) (e : Nat) (no : BitVec 16) : Bool :=
  s.domain.numbers.all fun x => decide (x.1 ≠ no ∨ x.2 + 4095 < e ∨ e + 4095 < x.2)

/-- The next collective number that is free (R324). -/
def State.freeNumber (s : State) (e : Nat) : BitVec 16 :=
  (((List.range (s.domain.numbers.length + 1)).map fun i => s.domain.nextColl + BitVec.ofNat 16 i).find? (s.numberFree e)).getD
    s.domain.nextColl

/-- The manager gives a collective a stitch and a number, or refuses it with a status, and tells every member. -/
def State.giveStitch (s : State) (c : MgrColl) (e : Option Nat) (st : Status) : State :=
  let no := match e with | some p => s.freeNumber p | none => s.domain.nextColl
  let s1 := { s with domain := { s.domain with
    nextColl := if e.isSome then no + 1 else no
    numbers := match e with | some p => s.domain.numbers ++ [(no, p)] | none => s.domain.numbers
    soon := s.domain.soon.filter fun x => !(x.1 == c.membership && x.2 == c.seqNo)
    colls := s.domain.colls.filterMap fun (x : MgrColl) =>
      if x.membership = c.membership ∧ x.seqNo = c.seqNo then
        (match e with | some p => some { x with number := some no, place := some p, decided := none, released := 0, complete := false } | none => none)
      else some x } }
  let out := e.map fun p => (⟨p, c.arrivals⟩ : Placing)
  (s1.emit (.channel0 (.placement c.membership c.seqNo no out st))).takePlacement c.membership c.seqNo no out st

/-- The manager settles one collective. -/
def State.settleColl (s : State) (c : MgrColl) : State :=
  match s.decideColl c with
  | none => s
  | some (.ok e) => s.giveStitch c (some e) 0
  | some (.error st) => s.giveStitch c none st

/-- Every collective that can be settled in this hem. -/
def State.settleColls (s : State) : State :=
  (s.domain.colls.filter fun c => c.place.isNone && s.decides c.membership).foldl State.settleColl s

/-- A decision reaches this member's run (R307). -/
def State.takeDecision (s : State) (coll : BitVec 16) (release : Bool) : State :=
  { s with runs := s.runs.map fun r =>
      if r.collNo = some coll ∧ r.place = s.time.stitch.toNat ∧ r.phase ≠ .candidate ∧ r.decision = none then
        { r with decision := some release }
      else r }

/-- The manager decides a collective (R307): its DECIDE word goes down the tree, and its own member takes it. An aborted
collective waits for new lists. -/
def State.decide_ (s : State) (coll : BitVec 16) (release : Bool) : State :=
  let s1 := { s with domain := { s.domain with
    colls := s.domain.colls.map fun (c : MgrColl) => if c.number = some coll then { c with decided := some release } else c } }
  (s1.emit (.tickWord tickBarrier (barrierTick (if release then 2 else 3) 0 coll.toNat 0 s.domain.node))).takeDecision coll release

/-- At the start of the hem the manager decides ABORT for every collective of the stitch that it has not released (R307). -/
def State.abortUndecided (s : State) : State :=
  if s.isManager then
    ((s.domain.colls.filter fun c => decide (c.place = some s.time.stitch.toNat ∧ c.decided = none)).filterMap (·.number)).foldl
      (fun s n => s.decide_ n false) s
  else s

/-- Collectives of past stitches leave the manager's table, and numbers that may be given again (R324); those that were aborted are remembered for the stitches in which
the report of an unravel may come (R327, R328). -/
def State.dropColls (s : State) : State :=
  let now := s.time.stitch.toNat
  let bad := s.domain.colls.filterMap fun c => match c.place with
    | some p => if p ≤ now ∧ c.decided = some false then some (c.membership, c.seqNo, p) else none
    | none => none
  { s with domain := { s.domain with
      colls := s.domain.colls.filter fun c => match c.place with | some e => decide (now < e) | none => true
      numbers := s.domain.numbers.filter fun x => decide (now ≤ x.2 + 4095)
      aborted := (s.domain.aborted.filter fun a => decide (now < a.2.2 + unravelK s.time.len)) ++ bad
      unravelling := s.domain.unravelling.filter fun u => decide (now < u.2) } }

/-- One collective is placed again in its original stitch and K (R328). -/
def State.againColl (s : State) (a : Membership × Nat × Nat) : State :=
  let c : MgrColl := { membership := a.1, seqNo := a.2.1, again := true }
  let rest := s.domain.colls.filter fun x => !(x.membership == a.1 && x.seqNo == a.2.1)
  ({ s with domain := { s.domain with colls := rest ++ [c] } } : State).giveStitch c
    (some (max (a.2.2 + unravelK s.time.len) (s.time.stitch.toNat + 1))) 0

/-- The manager places again the collectives with an unravelling module that a hem has aborted (R328). -/
def State.againColls (s : State) : State :=
  let hit := s.domain.aborted.filter fun a => s.decides a.1 && s.domain.unravelling.any fun u => s.hasMember a.1 u.1
  hit.foldl State.againColl { s with domain := { s.domain with aborted := s.domain.aborted.filter fun a => !hit.contains a } }

/-- What the manager mirrors to its standby (R329). -/
def State.mirrorOf (s : State) : Mirror :=
  { rosterGen := s.domain.rosterGen, roster := s.domain.roster, aliasMap := s.bases.aliasMap
    holdings := s.domain.holdings
    epoch := s.domain.epoch, colls := s.domain.colls, plan := s.domain.plan
    parents := s.domain.roster.map fun e => (e.node, s.tickParent e.node)
    nextColl := s.domain.nextColl, numbers := s.domain.numbers }

/-- The mirror of a hem: a manager with a standby sends it (R329). -/
def State.mirrorHem (s : State) : State :=
  if s.isManager && decide (s.domain.standby ≠ 0xFFFF) then s.emit (.channel0 (.mirror s.mirrorOf)) else s

/-- A plan is due at the first edge at least 8 us away (R281). -/
def State.planAnew (s : State) : State :=
  match s.domain.planDue with
  | some _ => s
  | none =>
    let e := s.edgeAfter 8
    { e.2 with domain := { e.2.domain with planDue := some e.1 } }

/-- The manager's plan goes out to its members with their tick parents (R317, R319, R511). -/
def State.sendPlan (s : State) : State :=
  ((s.domain.roster.map (·.node)).filter (· != s.domain.node)).foldl (fun (s : State) n => s.emit (.channel0 (.tickParent n (s.tickParent n))))
    (s.emit (.channel0 s.planMsg))

/-- The plan that comes into force next goes out (R281, R317). -/
def State.sendNextPlan (s : State) : State :=
  let t : State := { s with domain := { s.domain with plan := s.domain.plan + 1 } }
  { s with out := t.sendPlan.out }

/-- A module leaves every group and span that the manager knows, and routes are planned anew (R308, R322, R518). -/
def State.dropMember (s : State) (node : Nat) : State :=
  let out (b : GroupBlock) : GroupBlock := { b with members := b.members.filter (· != node) }
  ({ s with
    groups := s.groups.map fun g => { g with block := out g.block }
    domain := { s.domain with
      presented := (s.domain.presented.filter fun x => x.1 != node).map fun x => (x.1, out x.2)
      holdings := s.domain.holdings.map fun x => { x with nodes := x.nodes.filter (· != node) } } } : State).planAnew.sendNextPlan

/-- The manager removes the members that have become adrift from its groups and spans (R322). Which these are is not known to the
model (log entry 53): a free value. -/
def State.dropAdrift (s : State) : State :=
  if s.isManager = false ∨ (s.domain.presented = [] ∧ s.domain.holdings = []) then s
  else
    let f := s.fresh
    ((s.domain.roster.map (·.node)).filter fun n => n != s.domain.node && Config.memberAdrift f.1 n).foldl State.dropMember f.2

/-- Whether a loading slot has every chunk that it holds (R335). -/
def Slot.whole (q : Slot) : Bool := (List.range (chunkCount q.plainBytes)).all fun i => !q.holdsChunk i || q.got.contains i

/-- Whether every module that is to hold a base has it whole (R335, R340): this one's slot, the others' reports. -/
def State.allReported (s : State) (x : Holding) : Bool :=
  x.nodes.all fun m => if m = s.domain.node then (s.slot x.slot).whole && (s.slot x.slot).handle == x.handle
    else s.domain.loadReports.contains (m, x.handle)

/-- Whether the manager has marked a handle READY for the next edge (R335): its own mark, among the reports. -/
def State.marked (s : State) (h : Nat) : Bool := !s.hasManager || s.domain.loadReports.contains (s.domain.manager, h)

/-- The manager marks the handles that every module has reported READY, for all modules at the next edge, and tells them (R335). -/
def State.markReady (s : State) : State :=
  s.domain.holdings.foldl (fun (s : State) x =>
    if s.isManager && !x.ready && s.allReported x then
      ({ s with domain := { s.domain with
          loadReports := s.domain.loadReports ++ [(s.domain.node, x.handle)]
          holdings := s.domain.holdings.map fun y => if y.handle = x.handle then { y with ready := true } else y } } : State).emit
        (.channel0 (.ready x.handle))
    else s) s

/-! ### The hem -/

/-- Bytes that held writes may take (R241, R372). -/
def holdRoom : Nat := 2 ^ 30 + 2 ^ 22

/-- Held writes that overflow the hold are a link loss (R372). -/
def State.checkHold (s : State) : State :=
  if s.hostOpen = false ∧ holdRoom < s.heldBytes then s.hostReset .holdOverflow else s

/-- A teardown after a host reset empties the machine of sleeves from the next hem (R374); it ends with TEARDOWN_DONE. -/
def State.tearHem (s : State) : State := if s.dev.teardown then s.tearAll else s

/-- The commands of the stitch that stay basted because the drain of a reset leaves no time for them before the edge (R51):
how many commit is an amount of time, and free (log entry 10). -/
def State.heldBack (s : State) : List Nat × State :=
  if s.sleeves.any fun v => decide (v.stage ≠ .none) then
    let x := s.fresh
    ((s.placedNow.filter fun id => match s.findRun id with | some r => readyToCommit r | none => false).drop (Config.hemFits x.1), x.2)
  else ([], s)

/-- They commit at the start of the next hem, and every uncommitted placement of the module moves one stitch later (R51). -/
def State.holdBack (s : State) (ids : List Nat) : State :=
  if ids = [] then s
  else
    let s1 := s.shiftFrom (s.time.stitch.toNat + 1) 1 (causeBit 1)
    { s1 with runs := s1.runs.map fun r =>
        if ids.contains r.id then { r with place := r.place + 1, shifts := r.shifts + 1, lateCause := r.lateCause ||| causeBit 1 } else r }

/-- Messages released in an earlier hem may have been acknowledged by this one (R282, log entry 102). -/
def State.dropAcknowledged (s : State) : State :=
  if s.domain.released = [] then s
  else
    let f := s.fresh
    { f.2 with domain := { s.domain with
        released := (s.domain.released.zipIdx.filter fun e => !Config.acknowledged f.1 e.2).map (·.1) } }

/-- The bead meters close (R27, R31). -/
def State.closeMeters (s : State) : State :=
  (List.range 16).foldl (fun (s : State) b => match s.liveRun b with
    | some r => (s.meterOn r b).closeMeter r.id b
    | none => s) s

/-- Bolts stop issue, and what they hold of commands is dropped (R27), with what an unfinished one handed off (R89). -/
def State.stopIssue (s : State) : State :=
  s.updBolts (List.range 16) fun _ b => (if b.run = none then b else b.discard).clear

/-- The device-side part of a hem: commits, cuts, collectives, records, resets, mailbox (R27, R51, R378, R415). -/
def State.deviceSide (s : State) : State :=
  let wins := s.sleeves.map fun v => (v.id, v.windows)
  let x := s.abortUndecided.heldBack
  let s1 := x.2.holdBack x.1
  let s2 := s1.dropAcknowledged.closeMeters.settleFills
  let s3 := ((s2.commitAll wins s2.patches s2.placedNow).stopIssue).cutHem.endFills
  ((s3.windowsGone wins).drainResets).recordStops.rebuildTables.switchPages.applyMailbox

/-- The manager tells the members whose requirement changes (R474): 80 us for a member of a group or base span and for a
relay of its plans, else none. -/
def State.tellLatency (s : State) : State :=
  let d := s.domain
  let spans := (d.holdings.filter fun x => decide (x.channel ≠ 0)).flatMap (·.nodes)
  let bound (n : Nat) : Bool := (d.presented.any fun x => x.2.members.contains n) || spans.contains n || Config.planRelays d.plan n
  let others := (d.roster.map (·.node)).filter (· != d.node)
  let s1 := others.foldl (fun (s : State) n =>
    if bound n = d.required.contains n then s else s.emit (.channel0 (.latency n (if bound n then some 80 else none)))) s
  { s1 with domain := { s1.domain with
      required := others.filter bound, requirement := if bound d.node then some 80 else none } }

/-- The trigger that the end of a supply warning fires in the hem of its stitch (R465). -/
def State.supplyTrigger (s : State) : State :=
  if s.power.supplyEnded then ({ s with power := { s.power with supplyEnded := false } } : State).errorTrigger 10 else s

/-- HEM_START (R27). -/
def State.hem (s : State) : State :=
  let s0 := (({ s with time := { s.time with hem := true } } : State).updBolts (List.range 16) fun n b =>
    { b with reserved := s.beadsOn n s.time.stitch.toNat }).tearHem
  let s1 := s0.deviceSide
  let s2 := s1.dropColls.againColls.settleColls.commitSwitches.retireSlots.markReady.dropAdrift.mirrorHem
  let s3 := ((if s2.isManager then s2.tellLatency else s2).supplyTrigger).planStitch
  s3.pump.finishResets.mailboxIrq.checkHold

/-- Whether stitches run: firmware has reached READY (R25). -/
def State.stitching (s : State) : Bool := s.valuesWritten

/-- HEM_START, in the working part of a stitch. -/
def execHemStart (s : State) : Host.Outcome State Fault Refusal :=
  .next (if s.stitching && !s.time.hem then s.hem else s)

/-- HOST_WRITE_GO (R360). -/
def execHostWriteGo (s : State) : Host.Outcome State Fault Refusal := .next (s.answer false).releaseInv.finishResets

/-- HOST_WRITE_GO with an error (R361). -/
def execHostWriteGoErr (s : State) : Host.Outcome State Fault Refusal := .next (s.answer true).releaseInv.finishResets

end Sys2Proof.Machine
end

