-- ==== Sys2Proof/Machine/Edge.lean ====
section
/-! DEFINITION. The stitch edge (R21, R24 to R26, R33 to R35, R73, R271, R328, R335, R469 to R475, R480): one shared edge,
which the module's own reference or an EDGE word brings about. -/
namespace Sys2Proof.Machine
open Sys2Proof

/-! ### Records of the stitch that ends (R417, R418, R471) -/

/-- A list that keeps its last `n` entries. -/
def keepLast {α : Type} (n : Nat) (l : List α) : List α := l.drop (l.length - n)

/-- A bolt's slowdown record (R417, R418); cycles by 256 a bead (R31). -/
def State.slowRec (s : State) (bno : Nat) : SlowRec :=
  let b := s.bolt bno
  let m := 256 * b.measured
  match s.ownerOf bno with
  | none => ⟨s.time.stitch.toNat, bno, 255, 0, 0, 0, 0, 0, 0⟩
  | some v => ⟨s.time.stitch.toNat, bno, v.id, m, m - (b.excessMem + b.excessHost + b.excessSeam), b.reserved, b.excessMem,
      b.excessHost, b.excessSeam⟩

/-- Largest difference between package sensors, LPDDR6 and optical sensors left out (R468). -/
def State.spread (s : State) : Nat :=
  let ts := (List.range 44).map (look 0 s.power.temps)
  maxOf ts - minOf (ts.headD 0) ts

/-- A sleeve's entry of a power record (R469 to R471): its energy is a free value (log entry 32). -/
def State.sleevePower (s : State) (n : Nat) (v : Sleeve) : SleevePower :=
  let e := Config.energyCoefficient (16 * n + v.id) % 2 ^ 32
  let bs := boltsIn v.bolts
  { sleeve := v.id, overShare := decide (v.power * stitchUs s.time.len < e)
    fallback := bs.any fun b => Config.modelDeviates (b / 4) n
    powerW := v.power, energyUj := e
    bubbleCycles := sumOf (bs.map fun b => (s.bolt b).bubbleCycles), stretchCycles := sumOf (bs.map fun b => (s.bolt b).stretch) }

/-- Microseconds above 1,320 W in the last 200 ms (R460). -/
def overUsed (p : Power) : Nat := sumOf ((p.window.filter (·.1)).map (·.2))

/-- The power record of the stitch that ends (R471). -/
def State.powerRec (s : State) (n : Nat) : PowerRec :=
  let p := s.power
  let all := (p.sumMw, p.samples) :: p.lastSecond
  let dev := (List.range 4).any fun d => Config.modelDeviates d n
  { stitch := s.time.stitch.toNat, state := BitVec.ofNat 8 (s.powerState + if dev then 32 else 0), floor := s.time.floor
    capW := p.capW, inputW := p.sumMw / max 1 p.samples / 1000, peakW := p.peakMw / 1000
    mean1s := sumOf (all.map (·.1)) / max 1 (sumOf (all.map (·.2))) / 1000
    vinMin := p.vinMin, peakUsed := overUsed p / 10, classW := p.classW
    clocks := (List.range 16).map fun b => clockCode (s.bolt b)
    bubbles := (List.range 16).map fun b => min 15 (s.bolt b).bubble16
    temps := s.dieTemps, spread := s.spread
    droops := sumOf ((List.range 16).map fun b => (s.bolt b).droops)
    stretchMax := maxOf ((List.range 16).map fun b => (s.bolt b).stretch)
    sleeves := s.sleeves.map (s.sleevePower n) }

/-- Entries of the last second: at most 1,000,000 samples of 1 us. -/
def trimSecond : Nat → List (Nat × Nat) → List (Nat × Nat)
  | _, [] => []
  | left, x :: l => if left < x.2 then [] else x :: trimSecond (left - x.2) l

/-- Close the records of the stitch. -/
def State.closeRecords (s : State) : State :=
  let f := s.fresh
  let p := f.2.power
  { f.2 with power := { p with
      slow := keepLast 256 (p.slow ++ (List.range 16).map s.slowRec)
      records := keepLast 16 (p.records ++ [s.powerRec f.1])
      lastSecond := trimSecond 1000000 ((p.sumMw, p.samples) :: p.lastSecond)
      sumMw := 0, samples := 0, peakMw := 0, vinMin := 0 } }

/-! ### Bolts at an edge -/

/-- A bolt's clock, rounding key and counters at the edge (R21, R35, R73): droop that was detected in the hem, or that still
stretches the clock, puts a staged change off to the next edge. `key` is the new key, `short` says that a
deferred clock lies below the guard of a stitch in which the bolt holds a reservation. -/
def Bolt.atEdge (b : Bolt) (key : BitVec 64) (short : Bool) : Bolt :=
  { b with
    clock := if b.deferred || b.stretching then b.clock else b.staged
    deferred := false, roundKey := key, draws := [], droops := 0, stretch := 0, bubbleCycles := 0, excessMem := 0
    excessHost := 0, excessSeam := 0, measured := 0, meter := 0, supplyCut := short, xlate := [], reserved := 0 }

/-- One bolt's edge in the stitch that begins. -/
def State.boltEdge (s : State) (bno : Nat) : State :=
  let f := s.fresh
  let b := s.bolt bno
  let short := (b.deferred || b.stretching) && decide (b.clock < s.guard) && s.reservedOn bno s.time.stitch.toNat
  f.2.updBolt bno fun b => b.atEdge (Config.entropy f.1) short

/-! ### Power states at the edge -/

/-- Power state and gates at an edge. -/
def State.powerEdge (s : State) : State :=
  let p := s.choosePstate
  let s1 := { s with power := { s.power with
    pstate := p, restExit := if p = .rest then s.power.restExit else none } }
  (List.range 16).foldl (fun (s : State) n => s.setBolt n (s.gateOf p n)) s1

/-- Ports whose data lanes idled in Rest send what waits, once the module has left it (R283). -/
def State.wakePorts (s : State) (rested : Bool) : State := if rested then (List.range portCount).foldl State.drain s else s

/-! ### Ports, slots, board -/

/-- Whether a group's traffic goes over a port by the plan in force (R317). -/
def State.groupOn (s : State) (p : Nat) (g : Group) : Bool := !g.removed && Config.planUses s.domain.plan g.block.group s.domain.node p

/-- The quota of a group's channel on a port that the group uses: the smaller of what the two ends offer, here an even part of its
sleeve's share among the sleeve's groups on the port (R406). -/
def State.groupQuota (s : State) (p c : Nat) : Nat :=
  match s.groups.find? fun g => g.block.group + 4 == c && s.groupOn p g with
  | some g => (match s.sleeve g.sleeve with
    | some v => min (Config.peerOffer p c) (v.seam / max 1 (s.groups.filter fun x => x.sleeve == v.id && s.groupOn p x).length)
    | none => 0)
  | none => 0

/-- Quotas of a port's channels, 252 at most together (R275): those of the groups, then of the other channels what the manager gives
them of the rest. -/
def State.quotasFor (s : State) (p : Nat) : Sparse Nat :=
  let m := (List.range 16).foldl (fun m i => put 0 m (i + 4) (s.groupQuota p (i + 4))) []
  ([2, 3, 20, 21, 22, 23] : List Nat).foldl (fun m c => put 0 m c (Config.quotaOf p c % (1 + (252 - sumOf (m.map (·.2)))))) m

/-- Credits of a port that comes UP, as both ends' firmware shares the receive buffer of 2,048 flits (R276): 16 for each
channel with a quota, and the remainder in proportion to quota. -/
def creditsFor (old quotas : Sparse Nat) : Sparse Nat :=
  let total := sumOf (quotas.map (·.2))
  let rest := 2048 - 64 - 16 * quotas.length
  quotas.foldl (fun m q => put 0 m q.1 (16 + rest * q.2 / max 1 total)) old

/-- A port in STANDBY that the manager adds to its plans becomes UP (R271, R400). -/
def State.raisePort (s : State) (n : Nat) : State :=
  (s.updPort n fun p => { p with
    state := .up, upSince := s.time.stitch, credits := creditsFor p.credits (s.quotasFor n) }).event 0x03 255
      [(16, 1, n), (17, 1, (s.port n).mode)]

/-- The ports at an edge: those in STANDBY that the manager's plan of this edge adds become UP, under a new plan (R271), which a manager
sends out; every UP port takes its quotas (R275), and pricing uses the UP ports as they are now (R271, R277). -/
def State.portsEdge (s : State) : State :=
  let waits := (List.range 48).filter fun n => decide ((s.port n).state = .standby)
  let added := waits.filter fun n => Config.planAdds s.freeCtr n
  let s1 := if waits = [] then s else { s with freeCtr := s.freeCtr + 1 }
  let s2 := added.foldl State.raisePort s1
  let s3 := if added = [] then s2 else { s2 with domain := { s2.domain with plan := s2.domain.plan + 1 } }
  let s4 := if added ≠ [] ∧ s3.isManager = true then s3.sendPlan else s3
  let s5 := (List.range 48).foldl (fun (s : State) n =>
    if (s.port n).state = .up then s.updPort n fun p => { p with quotas := s.quotasFor n } else s) s4
  { s5 with edgePorts := s5.portsNow }

/-- Slots become READY at one edge (R335, R340). -/
def State.slotsEdge (s : State) : State :=
  (List.range 4).foldl (fun (s : State) n =>
    let q := s.slot n
    if q.state = .loading ∧ q.whole = true ∧ s.marked q.handle = true then s.updSlot n fun q => { q with state := .ready } else s) s

/-- The end of an unravel (R480), the end of a suspended admission (R465), and held invalidations (R253). -/
def State.recoverEdge (s : State) : State :=
  let s1 := match s.rel.unravel with
    | some (_, e) => if e ≤ s.time.stitch.toNat then
        { s with rel := { s.rel with unravel := none, ownShift := 0 }, dev := { s.dev with unravel := false } } else s
    | none => s
  let s2 := if s1.power.resumeAtEdge then
      { s1 with power := { s1.power with resumeAtEdge := false }, dev := { s1.dev with admitSuspended := s1.domain.resync } } else s1
  let held := s2.hif.heldInv
  held.foldl (fun (s : State) h => s.emit (.invalidationDone h.1 h.2.1)) { s2 with hif := { s2.hif with heldInv := [] } }

/-! ### The edge -/

/-- An EDGE word (R320). -/
def edgeWordOf (stitch len shift epoch : Nat) : BitVec 56 :=
  BitVec.ofNat 56 (stitch % 2 ^ 48 * 256 + len % 4 * 64 + shift % 16 * 4 + epoch % 4)

/-- LATE_CAUSE bits of the emergencies that last into the new stitch (R50). -/
def State.lasting (s : State) : BitVec 8 :=
  (if s.power.supplyHold then causeBit 2 else 0) |||
  (if s.power.emergencies ≠ [] ∨ s.power.spreadEmergency ≠ [] then causeBit 3 else 0)

/-- A message that a lost port carried goes out again over the plan in force, in the segments first sent (R278, R282). -/
def State.resendMsg (s : State) (o : Output) : State :=
  match o with
  | .seam _ gs m =>
    let port := Config.routePort s.domain.plan s.domain.node (match gs with | g :: _ => g.dst | [] => 0)
    gs.foldl (fun s g => s.sendSegment (port % portCount) g) (s.emit (.seam port gs m))
  | _ => s.emit o

/-- Messages that lost ports carried go out again once the new plan is in force (R282). -/
def State.resendEdge (s : State) : State :=
  if s.domain.planDue.isSome ∨ s.domain.resend = [] then s
  else s.domain.resend.foldl State.resendMsg { s with domain := { s.domain with
    released := s.domain.released ++ s.domain.resend, resend := [] } }

/-- What the edge sets of time and plans: the number `n`, length, floor and cap (R24, R25, R33, R457), and a plan that is due
(R281). -/
def State.clockEdge (s : State) (n : Nat) : State :=
  let t : Time := { s.time with
    stitch := BitVec.ofNat 48 n
    us := s.time.us + stitchUs s.time.len
    hem := false
    headers := 0
    placed := 0
    commitsDone := 0
    len := s.time.lenNext.getD s.time.len
    lenNext := none
    floor := s.time.floorNext.getD s.time.floor
    floorNext := none
    correction := 0
    emergency := s.lasting
    log := [] }
  let vs := s.sleeves.map fun (v : Sleeve) => { v with headers := 0 }
  let due := match s.domain.planDue with | some e => decide (e ≤ n) | none => false
  let d : Domain := { s.domain with
    barriers := [], sent := []
    plan := s.domain.plan + (if due then 1 else 0), planDue := if due then none else s.domain.planDue }
  let s1 : State := { s with time := t, sleeves := vs, admHeaders := 0, domain := d }
  match s1.power.capNext with
  | some (w, o) => { s1 with power := { s1.power with capW := w, order := o, capNext := none } }
  | none => s1

/-- The shift that an edge carries is applied to every placement from the stitch it begins (R328), but for the stitches
that stand for this module's own unravel, which follows R49 for its placements; shifts of two unravels add (R53). -/
def State.shiftEdge (s : State) (received : Nat) : State :=
  let k := received - s.rel.ownShift
  let s0 := { s with rel := { s.rel with ownShift := s.rel.ownShift - received } }
  if k = 0 then s0
  else
    let s1 := s0.shiftRuns (fun r => !r.again) s.time.stitch.toNat k (causeBit 0)
    { s1 with domain := { s1.domain with shifts := min (s1.domain.shifts + 1) (2 ^ 32 - 1), lastShift := s.time.stitch.toNat } }

/-- A manager's table follows the shift: places and candidate stitches from the stitch that begins (R328). -/
def collMoved (c : MgrColl) (now k : Nat) : MgrColl :=
  let on (e : Nat) : Nat := if now ≤ e then e + k else e
  if c.again then c else { c with place := c.place.map on, lists := c.lists.map fun l => (l.1, l.2.map on) }

/-- The manager's collectives at an edge with shift `k`; a member releases the candidates that the manager did not choose (R325). -/
def State.collsEdge (s : State) (k : Nat) : State :=
  { s with
    runs := s.runs.map fun r =>
      if r.phase = .candidate then { r with again := false } else { r with again := false, candidates := [], candCosts := [] }
    domain := { s.domain with colls := s.domain.colls.map fun c => { collMoved c s.time.stitch.toNat k with again := false } } }

/-- What the edge makes of everything else: shift, clocks, ports, slots, power states; then the bolts start. -/
def State.startStitch (s : State) (k : Nat) : State :=
  let s1 := (s.shiftEdge k).collsEdge k
  let s2 := (List.range 16).foldl State.boltEdge s1.recoverEdge
  let s3 := (s2.portsEdge.slotsEdge.powerEdge.wakePorts (decide (s.power.pstate = .rest))).resendEdge
  let s4 := s3.placeWaiters 0 s3.runs.length
  (List.range 16).foldl State.beginNext s4

/-- The edge that begins stitch `n`, with shift `k`. -/
def State.edge (s : State) (n k : Nat) : State := (s.closeRecords.clockEdge n).startStitch k

/-- A module that sources or relays EDGE words sends the word of the edge down the tree (R272, R319). -/
def State.sendEdge (s : State) (k : Nat) : State :=
  if s.domain.standalone then s
  else s.emit (.tickWord tickEdge (edgeWordOf s.time.stitch.toNat s.time.len k s.domain.epoch.toNat))

/-- Whether a module places its edges by its own reference: standalone, the top manager, or without ticks (R321, R512). -/
def State.ownEdges (s : State) : Bool :=
  s.domain.standalone || decide (s.domain.role = .topManager ∨ s.domain.tick = .holdover ∨ s.domain.tick = .adrift)

/-- The standby becomes the manager (R329, R330): its mirror of the manager's state, a new epoch, its own edges, a new plan of the
tick tree and routes, which it sends out, and the shift that the takeover causes, due at the first edge at least 8 us away. Handles of
the mirrored slot map count as assigned (R336). -/
def State.takeOver (s : State) : State :=
  let top := decide (s.domain.node < 512)
  let d := s.domain
  let d1 : Domain := match d.mirrored with
    | some m => { d with
        rosterGen := max d.rosterGen m.rosterGen, roster := m.roster, colls := m.colls, plan := max d.plan m.plan
        nextColl := m.nextColl, numbers := m.numbers, holdings := m.holdings }
    | none => d
  let d2 : Domain := { d1 with
    role := if top then .topManager else .manager
    manager := d.node
    standby := 0xFFFF
    epoch := d.epoch + 1
    parent := none
    tick := if top then d.tick else .holdover
    takeovers := min (d.takeovers + 1) (2 ^ 32 - 1)
    plan := d1.plan + 1 }
  let s1 : State := { s with domain := d2, bases := { s.bases with
    aliasMap := match d.mirrored with | some m => m.aliasMap | none => s.bases.aliasMap
    usedHandles := s.bases.usedHandles ++ match d.mirrored with | some m => m.holdings.map (·.handle) | none => [] } }
  (s1.sendPlan.dueShift 8).event 0x0F 255 [(16, 1, 3), (18, 2, d.node)]

/-- Whether the standby has acknowledged the mirror of the previous hem (R329). -/
def State.mirrorFresh (s : State) : Bool :=
  s.domain.mirrored.isSome && match s.domain.mirrorAcked with | some e => decide (s.time.stitch.toNat ≤ e + 1) | none => false

/-- A manager that hands its role over becomes a worker (R330). -/
def State.stepDown (s : State) (manager : Nat) : State :=
  { s with domain := { s.domain with role := .worker, manager := manager, standby := 0xFFFF, shiftDue := [], colls := [], soon := [] } }

/-- A role that an ME configuration moves at this edge (R330), to a standby that has acknowledged the previous hem (R329). -/
def State.roleEdge (s : State) : State :=
  if s.domain.roleMove ≠ some s.time.stitch.toNat then s
  else
    let s1 : State := { s with domain := { s.domain with roleMove := none } }
    if s.domain.role = .standby then (if s.mirrorFresh then s1.takeOver else s1)
    else if s.isManager then
      let s2 := s1.stepDown s.domain.standby
      { s2 with domain := { s2.domain with
        epoch := s.domain.epoch + 1, takeovers := min (s.domain.takeovers + 1) (2 ^ 32 - 1), tick := .holdover } }
    else s1

/-- Stitches by which the shifts due by the edge of stitch `n` move placements (R328, R330). -/
def State.dueBy (s : State) (n : Nat) : Nat := sumOf ((s.domain.shiftDue.filter fun x => decide (x.1 ≤ n)).map (·.2))

/-- The shift that this module's edge of stitch `n` carries (R328): a manager's own where one is due, at most what SHIFT holds, else
the one received. -/
def State.shiftNow (s : State) (n received : Nat) : Nat := if s.isManager ∧ s.dueBy n ≠ 0 then min 15 (s.dueBy n) else received

/-- The shifts that an edge leaves: those of later edges, and what its word had no room for. -/
def State.shiftsLeft (s : State) (n k : Nat) : List (Nat × Nat) :=
  (s.domain.shiftDue.filter fun x => decide (n < x.1)) ++ if s.dueBy n ≤ k then [] else [(n + 1, s.dueBy n - k)]

/-- The edge that begins stitch `n` with its word sent on. -/
def State.passEdge (s : State) (n received : Nat) : State :=
  let k := s.shiftNow n received
  let s0 : State := if s.isManager then { s with domain := { s.domain with shiftDue := s.shiftsLeft n k } } else s
  ((s0.edge n k).roleEdge).sendEdge k

/-- STITCH_EDGE (R26): the edge of a module on its own reference. -/
def execStitchEdge (s : State) : Host.Outcome State Fault Refusal :=
  .next (if s.stitching && s.time.hem && s.ownEdges then s.passEdge (s.time.stitch.toNat + 1) 0 else s)

end Sys2Proof.Machine
end

