-- ==== Sys2Proof/Machine/HostLink.lean ====
section
/-! DEFINITION. The host link: translations and page requests (R251, R253, R363, R364), snoops (R358), link recovery and
power states (R346, R372), host resets (R373, R374), and the completion queues' head words (R392). -/
namespace Sys2Proof.Machine
open Sys2Proof

/-- Entries of the address translation cache (R251). -/
def atcEntries : Nat := 8192


/-- ATS_INVALIDATION (R363): the PASID's entries in the range go; the completion waits while an unanswered commit writes a
page of the range (R253). -/
def execAtsInvalidation (pasid page size : Nat) (s : State) : Host.Outcome State Fault Refusal :=
  let s1 := { s with hif := { s.hif with
    atc := s.hif.atc.filter fun e => !(e.pasid == pasid && decide (e.page < page + size ∧ page < e.page + e.size)) } }
  .next (if s.commitCovers pasid page size then { s1 with hif := { s1.hif with heldInv := s1.hif.heldInv ++ [(pasid, page, size)] } }
    else s1.emit (.invalidationDone pasid page))

/-- Microseconds into the stitch at which something happens: an amount of time that the model does not carry (log entry
10); 0 in the hem, where a submission counts for the next stitch. -/
def State.tauNow (s : State) : Nat × State :=
  let f := s.fresh
  (if s.time.hem then 0 else Config.elapsed f.1 % (workUs s.time.len + 1), f.2)

/-- The page request groups of a run end. -/
def State.dropGroups (s : State) (run : Nat) : State :=
  { s with hif := { s.hif with pageReqs := s.hif.pageReqs.filter fun q => q.run != run } }

/-- Pages that nobody waits for any more, since their command was stopped, are not asked for (R46, R251). -/
def State.dropStopped (s : State) : State :=
  let dead (q : PageReq) : Bool := q.run != 0 && decide (q.stage ≠ .sent) &&
    match s.findRun q.run with | some r => decide (r.stop ≠ none) | none => true
  { s with hif := { s.hif with pageReqs := s.hif.pageReqs.filter fun q => !dead q } }

/-- The commands that wait for nothing any more are placed (R251). -/
def State.placeReady (s : State) : State :=
  let t := s.tauNow
  t.2.placeWaiters t.1 t.2.runs.length

/-- Whether a page of a list of awaited ones is answered by a translation of `size` pages from `page`. -/
def PageReq.answered (q : PageReq) (pasid page size : Nat) : Bool :=
  q.pasid == pasid && decide (q.stage = .asked ∧ page ≤ q.page ∧ q.page < page + max 1 size)

/-- A translation came: a page with some right fills the cache, whose oldest entry makes room, and no command waits for it any
more. -/
def State.translated (s : State) (e : AtcEntry) : State :=
  let rest := s.hif.atc.filter fun x => !(x.pasid == e.pasid && decide (x.page < e.page + e.size ∧ e.page < x.page + x.size))
  { s with hif := { s.hif with
    atc := keepLast atcEntries (rest ++ [e])
    pageReqs := s.hif.pageReqs.filter fun q => !q.answered e.pasid e.page e.size } }

/-- The host reports a page absent: what waits for it goes on to a page request (R251). -/
def State.pageAbsent (s : State) (pasid page size : Nat) : State :=
  let on (q : PageReq) : PageReq := if q.answered pasid page size then { q with stage := .absent } else q
  ({ s with hif := { s.hif with pageReqs := s.hif.pageReqs.map on } } : State).dropStopped.sendGroups

/-- ATS_TRANSLATION_COMPLETION (R251, R363). -/
def execAtsTranslationCompletion (pasid page size : Nat) (r w : Bool) (phys : Nat) (s : State) :
    Host.Outcome State Fault Refusal :=
  .next (if (r || w) && decide (size ≠ 0) then
      let s1 := s.translated ⟨pasid, page, size, r, w, phys⟩
      if s1.hif.pageReqs = s.hif.pageReqs then s1 else s1.dropStopped.sendGroups.placeReady
    else s.pageAbsent pasid page size)

/-- Whether a page's request is out under a group. -/
def PageReq.inGroup (q : PageReq) (g : Nat) : Bool := decide (q.stage = .sent) && q.group == g

/-- A failed group refuses the command that waits (R251, R364). -/
def State.failGroup (s : State) (g : PageReq) : State :=
  let s1 := { s with hif := { s.hif with pageReqs := s.hif.pageReqs.filter fun q => !q.inGroup g.group } }
  (if g.run = 0 then s1 else (s1.dropGroups g.run).stopRun g.run 0x13 0 255).sendGroups

/-- A granted group: its pages are translated again, and the waiting command is placed once no page of it is outstanding
(R251). -/
def State.grantGroup (s : State) (g : PageReq) : State :=
  let mine := s.hif.pageReqs.filter fun q => q.inGroup g.group
  let s1 := { s with hif := { s.hif with pageReqs := s.hif.pageReqs.filter fun q => !q.inGroup g.group } }
  (mine.foldl (fun (s : State) q => s.emit (.atsRequest q.pasid q.page)) s1).dropStopped.sendGroups.placeReady

/-- PAGE_REQUEST_RESPONSE (R364). -/
def execPageRequestResponse (group : Nat) (success : Bool) (s : State) : Host.Outcome State Fault Refusal :=
  .next (match s.hif.pageReqs.find? fun q => q.inGroup group with
  | none => s
  | some g => if success then s.grantGroup g else s.failGroup g)

/-- PAGE_REQUEST_TIMEOUT (R364): no response within 100 ms. -/
def execPageRequestTimeout (group : Nat) (s : State) : Host.Outcome State Fault Refusal :=
  .next (match s.hif.pageReqs.find? fun q => q.inGroup group with
  | none => s
  | some g => s.failGroup g)

/-- SNOOP (R358). -/
def execSnoop (kind : SnoopKind) (line : Nat) (s : State) : Host.Outcome State Fault Refusal :=
  .next (if s.hif.link ≠ .l0 then s
    else if s.hif.lineCache.any fun e => e.2 == line then
      match kind with
      | .inv => ({ s with hif := { s.hif with lineCache := s.hif.lineCache.filter fun e => e.2 != line } } : State).emit
          (.snoopResp .rspIHitSE)
      | .data => s.emit (.snoopResp .rspSHitSE)
      | .cur => s.emit (.snoopResp .rspSHitSE)
    else s.emit (.snoopResp .rspIHitI))

/-- LINK_RECOVERY_ENTER (R372). -/
def execLinkRecoveryEnter (s : State) : Host.Outcome State Fault Refusal :=
  .next (if s.hif.link = .l0 then { s with hif := { s.hif with link := .recovery } } else s)

/-- Writes and records that have no GO go out again (R372). -/
def State.reissue (s : State) : State :=
  (s.hif.commits.filterMap (·.sent)).foldl State.emit
    { s with hif := { s.hif with commits := s.hif.commits.map fun c => if c.answered then c else { c with issued := false } } }

/-- Held writes, records and messages go out (R346, R372). -/
def State.resumeHost (s : State) : State := s.flushMsix.pump.finishResets

/-- LINK_L0_RETURN (R372, R510). -/
def execLinkL0Return (width rate : Nat) (s : State) : Host.Outcome State Fault Refusal :=
  .next (if s.hif.link = .recovery then
      (({ s with
        hif := { s.hif with link := .l0, width := width, rate := rate }
        dev := { s.dev with linkDegraded := decide (width < 16 ∨ rate < 32) } } : State).reissue).resumeHost
    else s)

/-- D3HOT_ENTER (R346). -/
def execD3hotEnter (s : State) : Host.Outcome State Fault Refusal :=
  .next { s with hif := { s.hif with d3hot := true } }

/-- D0_RETURN (R346). -/
def execD0Return (s : State) : Host.Outcome State Fault Refusal :=
  .next (if s.hif.d3hot then ({ s with hif := { s.hif with d3hot := false } } : State).resumeHost else s)

/-- CONVENTIONAL_HOST_RESET (R373, R374). -/
def execConventionalHostReset (cause : HostResetCause) (s : State) : Host.Outcome State Fault Refusal :=
  .next (s.hostReset cause)

/-- TEARDOWN_DONE (R374, R400). -/
def execTeardownDone (s : State) : Host.Outcome State Fault Refusal :=
  .next (if s.dev.teardown && s.sleeves.isEmpty then
      ({ s with dev := { s.dev with teardown := false } } : State).event 0x0E 255 []
    else s)

/-- CQ_HEAD_POLL (R346, R391, R392): a full queue's head word is read again. -/
def execCqHeadPoll (o : Owner) (cq : Nat) (head : BitVec 64) (s : State) : Host.Outcome State Fault Refusal :=
  .next (match (s.cqs o).find? fun c => c.id == cq && c.full && s.hostOpen with
  | none => s
  | some c =>
    let s := s.emit (.readCurr c.pasid c.headAddr)
    let c1 := { c with head := head.toNat % 65536 }
    if c1.appearsFull then
      let s1 := s.updCq o cq fun c => { c with head := head.toNat % 65536, told := true }
      if c.told then s1 else s1.event 0x0C (ownerNum o) [(16, 1, cq)]
    else ((s.updCq o cq fun c => { c with head := head.toNat % 65536, full := false, told := false }).pump).finishResets)

end Sys2Proof.Machine
end

