-- ==== Sys2Proof/Machine/Seam.lean ====
section
/-! DEFINITION. Seam ports (R262 to R284): training, loss of a port, flits and segments. -/
namespace Sys2Proof.Machine
open Sys2Proof

/-- The phase that bring-up has reached, which goes on behind FAILED with cause 0x0B (R510). -/
def State.bringUp (s : State) : DevPhase :=
  if s.dev.phase = .failed ∧ s.dev.fail = 0x0B then s.dev.reached else s.dev.phase

/-- Whether ports train: from phase 4 of bring-up on (R507). -/
def State.seamOpen (s : State) : Bool := decide (s.bringUp = .seamTrain ∨ s.bringUp = .tickWait ∨ s.bringUp = .ready)

/-- Add 1 to a 32-bit counter that saturates (R284). -/
def satUp (v : BitVec 32) : BitVec 32 := if v = BitVec.allOnes 32 then v else v + 1

/-- Whether the tick lane of a port is locked (R271). -/
def Port.ticks (p : Port) : Bool := decide (p.state = .fenced ∨ p.state = .standby ∨ p.state = .up)

/-! ### Training (R268 to R270) -/

/-- A configuration of R267: width, rate and FEC codes of R284, upper lanes, pair, and its lanes. -/
structure PortConfig where
  width : Nat
  rate : Nat
  fecH : Bool
  upper : Bool
  pair : Nat
  lanes : List Nat
deriving DecidableEq, Repr

/-- The lane sets of a width, with their MODE bits (R267). -/
def laneSets : Nat → List (Bool × Nat × List Nat)
  | 2 => [(false, 0, [0, 1, 2, 3, 4, 5, 6, 7])]
  | 1 => [(false, 0, [0, 1, 2, 3]), (true, 0, [4, 5, 6, 7])]
  | _ => [(false, 0, [0, 1]), (false, 1, [2, 3]), (false, 2, [4, 5]), (false, 3, [6, 7])]

/-- The configurations of one raw rate and FEC mode: more lanes at the lower rate first (R269). `raw` counts doublings of
the lowest raw rate, that of two lanes at 56 Gb/s. -/
def configsOf (raw : Nat) (fecH : Bool) : List PortConfig :=
  [2, 1, 0].flatMap fun w =>
    if w ≤ raw ∧ raw - w ≤ 2 then (laneSets w).map fun l => ⟨w, raw - w, fecH, l.1, l.2.1, l.2.2⟩ else []

/-- Every configuration, the highest payload rate first (R267, R269). -/
def allConfigs : List PortConfig := [4, 3, 2, 1, 0].flatMap fun r => configsOf r false ++ configsOf r true

/-- The largest pre-FEC bit error rate of a good lane, in units of 10^-9 (R269). -/
def berLimit (fecH : Bool) : Nat := if fecH then 50000 else 200

/-- Whether every lane of a configuration is good for its mode at its rate (R269). -/
def PortConfig.good (c : PortConfig) (t : TrainResult) : Bool :=
  c.lanes.all fun l => match (t.ber.getD l [])[c.rate]? with
    | some e => decide (e ≤ berLimit c.fecH)
    | none => false

/-- MODE of the link record with its pair bits (R284). -/
def PortConfig.code (c : PortConfig) : Nat :=
  c.width + 4 * c.rate + (if c.fecH then 16 else 0) + (if c.upper then 32 else 0) + 64 * c.pair

/-- The configuration that both ends adopt: the more conservative of the two choices, which is the later in the list
(R268 step 3). -/
def adopted (t : TrainResult) : Option PortConfig :=
  match allConfigs.findIdx? (·.good t), allConfigs.findIdx? fun c => c.code == t.peerConfig with
  | some i, some j => allConfigs[max i j]?
  | _, _ => none

/-- Lanes left out (R269, R284). -/
def badLanesOf (c : PortConfig) : BitVec 8 :=
  BitVec.ofNat 8 (sumOf ((List.range 8).map fun l => if c.lanes.contains l then 0 else 2 ^ l))

/-- A training attempt begins (R268, R270). -/
def State.train (s : State) (p : Nat) : State :=
  s.updPort p fun x => { x with state := .training, trainings := satUp x.trainings }

/-- Whether a port may train: signal, phase 4 reached, and its bay not held by an optical emergency (R467). -/
def State.mayTrain (s : State) (p : Nat) : Bool :=
  decide (p < portCount) && s.seamOpen && decide ((s.port p).state = .down) && (s.port p).signal && !s.power.hotBays.contains (p / 8)

/-- PORT_SIGNAL_DETECT (R268). -/
def execPortSignalDetect (port : Nat) (s : State) : Host.Outcome State Fault Refusal :=
  let s1 := if port < portCount then s.updPort port fun x => { x with signal := true } else s
  .next (if s1.mayTrain port then s1.train port else s1)

/-- PORT_TRAINING_RETRY (R270): 1 s after a failed step, while signal is present. -/
def execPortTrainingRetry (port : Nat) (s : State) : Host.Outcome State Fault Refusal :=
  .next (if s.mayTrain port then s.train port else s)

/-- Whether a peer's identity is one that the module accepts: its node's on the roster, or its manager's while it holds none (R270). -/
def State.accepts (s : State) (node identity : Nat) : Bool :=
  s.hasManager && decide (node ≠ s.domain.node) &&
  (if s.domain.roster = [] then node == s.domain.manager && identity == s.domain.managerIdentity
   else s.domain.roster.any fun e => e.node == node && e.identity == identity)

/-- A failed step returns the port to DOWN (R270). -/
def State.trainFailed (s : State) (p : Nat) : State := s.updPort p fun x => { x with state := .down }

/-- PORT_TRAINING_COMPLETE (R268 to R270, R439): the configuration, the round trip, the identity exchange, then the roster
check; the retry buffer and the credits of channels 0 and 1 start anew (R276). -/
def execPortTrainingComplete (port : Nat) (res : TrainResult) (s : State) : Host.Outcome State Fault Refusal :=
  .next (if (s.port port).state ≠ .training then s
    else match adopted res with
    | none => s.trainFailed port
    | some c =>
      if !res.ok then s.trainFailed port
      else if !s.dev.bootCert then (s.trainFailed port).security 2 (2 + 256 * port)
      else if !res.chainOk then (s.trainFailed port).security 2 (256 * port)
      else if !res.keyOk then (s.trainFailed port).security 2 (1 + 256 * port)
      else s.updPort port fun x => { x with
        state := if s.accepts res.peerNode res.peerIdentity then .standby else .fenced
        widthCode := c.width, rateCode := c.rate, fecH := c.fecH, upper := c.upper, pair := c.pair, badLanes := badLanesOf c
        peerNode := res.peerNode, peerPort := res.peerPort, peerIdentity := res.peerIdentity, tickRtt := res.rtt
        expect := 0, sent := 0, acked := 0, replayFails := 0, rxUsed := [], credits := [(0, 32), (1, 32)], quotas := []
        queue := [], ctlWindow := 0, ctlSent := 0, window := 0, served := [] })

/-! ### Losing a port (R280, R281) -/

/-- Work of the present stitch whose group or span used a port of a node is to run again, and routes are planned anew (R281); a
manager sends its members the plan. -/
def State.replan (s : State) (node port : Nat) : State :=
  let hit (r : Run) : Bool := match r.coll with
    | none => false
    | some m => decide (r.stop = none ∧ r.place = s.time.stitch.toNat ∧ r.phase ≠ .candidate) && Config.planUses s.domain.plan m node port
  let s1 := ({ s with runs := s.runs.map fun r => if hit r then { r with replanned := true } else r } : State).planAnew
  if s1.isManager then s1.sendNextPlan else s1

/-- Undecided collectives of the present stitch that used a port are aborted, and are placed again without the delay of a new list
(R281, R307). -/
def State.abortOver (s : State) (node port : Nat) : State :=
  let hit := if s.isManager && !s.time.hem then s.domain.colls.filter fun c =>
      decide (c.place = some s.time.stitch.toNat ∧ c.decided = none) && Config.planUses s.domain.plan c.membership node port && s.decides c.membership
    else []
  (hit.filterMap (·.number)).foldl (fun s n => s.decide_ n false) { s with domain := { s.domain with
    soon := s.domain.soon ++ hit.map fun c => (c.membership, c.seqNo) } }

/-- Cause codes of PORT_DOWN (R400). -/
def downCode : DownCause → Nat
  | .signal => 0 | .replay => 1 | .tick => 2 | .peer => 3

/-- Whether some other port can carry a message to the manager (R280). -/
def State.pathLeft (s : State) (port : Nat) : Bool :=
  (List.range portCount).any fun p => decide (p ≠ port ∧ ((s.port p).state = .up ∨ (s.port p).state = .standby))

/-- The loss is reported to the manager (R280, R281); a manager plans at once. -/
def State.reportLoss (s : State) (port : Nat) : State :=
  if s.hasManager && !s.isManager && s.pathLeft port then s.emit (.channel0 (.portLoss port)) else s

/-- Whether a message carries a base chunk. -/
def isChunk : Output → Bool
  | .seam _ _ (.chunk _ _) => true
  | _ => false

/-- Messages that a lost port carried and that are not acknowledged end to end go out again under the new plan (R282); of base chunks,
all from the first of these on. Which those are is not known to the model (log entry 102). -/
def State.markResend (s : State) : State :=
  let f := s.fresh
  let l := s.domain.released.zipIdx
  let lost (e : Output × Nat) : Bool :=
    if isChunk e.1 then l.any fun x => isChunk x.1 && decide (x.2 ≤ e.2) && Config.overLostPort f.1 x.2 else Config.overLostPort f.1 e.2
  { f.2 with domain := { s.domain with
      resend := s.domain.resend ++ (l.filter lost).map (·.1)
      released := (l.filter fun e => !lost e).map (·.1) } }

/-- A port goes down (R280, R400, R490). -/
def State.loseLink (s : State) (port : Nat) (cause : DownCause) : State :=
  let was := (s.port port).state
  let s1 := s.updPort port fun x => { x with
    state := .down, signal := x.signal && decide (cause ≠ .signal), losEvents := satUp x.losEvents, queue := []
    peerNode := 0xFFFF, peerPort := 0xFF }
  let s2 := ((s1.event 0x02 255 [(16, 1, port), (17, 1, downCode cause)]).errorTrigger 12).reportLoss port
  if was = .up then ((s2.abortOver s.domain.node port).replan s.domain.node port).markResend else s2

/-- PORT_DOWN (R280). -/
def execPortDown (port : Nat) (cause : DownCause) (s : State) : Host.Outcome State Fault Refusal :=
  .next (match (s.port port).state with
  | .disabled => s
  | .down => if cause = .signal then s.updPort port fun x => { x with signal := false } else s
  | .training => s.updPort port fun x => { x with state := .down, signal := x.signal && decide (cause ≠ .signal) }
  | _ => s.loseLink port cause)

/-- OPTICAL_ENGINE_BELOW_RETRAIN_LIMIT (R467): below 70 degrees the bay's ports may train again. -/
def execOpticalEngineBelowRetrainLimit (bay : Nat) (s : State) : Host.Outcome State Fault Refusal :=
  .next (if s.power.hotBays.contains bay then
      let s1 : State := { s with power := { s.power with hotBays := s.power.hotBays.filter (· != bay) } }
      (List.range 8).foldl (fun (s : State) j => if s.mayTrain (8 * bay + j) then s.train (8 * bay + j) else s) s1
    else s)

/-! ### Flits (R264 to R266, R276) -/

/-- An acknowledgement of the flits up to SEQ `ack` frees the replay buffer (R265, R266): `acked` is the first flit not yet
acknowledged, and at most 1,024 are outstanding. -/
def Port.takeAck (p : Port) (ack : BitVec 12) : Port :=
  let n := (ack + 1 - p.acked).toNat
  if 1 ≤ n ∧ n ≤ (p.sent - p.acked).toNat then { p with acked := ack + 1, replayFails := 0 } else p

/-- What FEC and CRC make of an arriving flit: the port with its counters, and whether the flit stands (R264, R266, R284). -/
def Port.receive (p : Port) (f : Flit) : Port × Bool :=
  if f.fecOk = false ∨ p.correctable < f.corrected then ({ p with uncorrected := p.uncorrected + 1 }, false)
  else
    let q := { p with corrected := p.corrected + BitVec.ofNat 64 f.corrected }
    if f.payload.length = p.flitPayload ∧ flitCrcOk f = true then (q, true) else ({ q with crcFail := satUp q.crcFail }, false)

/-- A flit row (R264 to R266): a flit that FEC or CRC rejects is dropped and answered by a negative acknowledgement; one of TYPE `kind`
acknowledges, and has its effect `k`. In Rest the data lanes idle (R283). -/
def State.flitRow (s : State) (port kind : Nat) (f : Flit) (k : State → State) : State :=
  let p := s.port port
  if (p.state ≠ .up ∧ p.state ≠ .standby) ∨ s.power.pstate = .rest then s
  else
    let x := p.receive f
    let s1 := s.updPort port fun _ => x.1
    if x.2 = false then s1.emit (.flitLink port (flitHeader 0 2 p.sent p.ackNow) [] true)
    else if flitKind f ≠ kind then s1
    else (k (s1.updPort port fun p => p.takeAck (flitAck f))).drain port

/-- Flits of a port's receive buffer (R276). -/
def bufferFlits : Nat := 2048

/-- FLIT_DATA (R264 to R266, R276): the next in order is taken for its channel, while the receive buffer has room; any other is
dropped. -/
def execFlitData (port : Nat) (header : BitVec 32) (payload : List Byte) (crc : BitVec 32) (fec : Option Nat) (s : State) :
    Host.Outcome State Fault Refusal :=
  let flit : Flit := ⟨header, payload, crc, fec⟩
  .next (s.flitRow port 0 flit fun s =>
    let vc := flitVc flit
    s.updPort port fun p =>
      if flitSeq flit = p.expect ∧ p.carries vc = true ∧ sumOf (p.rxUsed.map (·.2)) < bufferFlits then
        { p with expect := p.expect + 1, rxUsed := put 0 p.rxUsed vc (look 0 p.rxUsed vc + 1) }
      else p)

/-- FLIT_IDLE (R265): only its acknowledgement says anything. -/
def execFlitIdle (port : Nat) (flit : Flit) (s : State) : Host.Outcome State Fault Refusal :=
  .next (s.flitRow port 1 flit id)

/-- Failed replays of one flit that take a port down (R266). -/
def replayLimit : Nat := 16

/-- A negative acknowledgement starts a replay from the first unacknowledged flit; one that follows 16 replays without progress takes
the port down (R266). -/
def State.replay (s : State) (port : Nat) : State :=
  let p := s.port port
  if p.sent = p.acked then s
  else if replayLimit ≤ p.replayFails then s.loseLink port .replay
  else (s.updPort port fun p => { p with replays := satUp p.replays, replayFails := p.replayFails + 1 }).emit (.flitReplay port p.acked)

/-- FLIT_LINK (R265, R266, R276): credits come back; a negative acknowledgement starts a replay. -/
def execFlitLink (port : Nat) (flit : Flit) (credits : List (Nat × Nat)) (nak : Bool) (s : State) :
    Host.Outcome State Fault Refusal :=
  .next (s.flitRow port 2 flit fun s =>
    let s1 := s.updPort port fun p => { p with credits := credits.foldl (fun m c => put 0 m c.1 (look 0 m c.1 + c.2)) p.credits }
    if nak then s1.replay port else s1)

/-! ### Segments (R278, R279, R440) -/

/-- Counters that a receive window covers behind the highest accepted (R279). -/
def windowSpan : Nat := 4096

/-- What a segment's counter is to its window. -/
inductive Freshness where
  | fresh
  | duplicate
  | stale
deriving DecidableEq, Repr

/-- The window of a segment's key, sender and channel. -/
def State.segWindow (s : State) (g : Segment) : Option SegWindow :=
  s.segWindows.find? fun w => w.keyId == g.keyId && w.src == g.src && w.vc == g.vc

/-- A counter against its window (R279). -/
def freshness (w : Option SegWindow) (counter : Nat) : Freshness :=
  match w with
  | none => .fresh
  | some w => if w.high < counter then .fresh
    else if w.high - counter ≤ windowSpan then (if w.seen.contains counter then .duplicate else .fresh) else .stale

/-- An accepted counter enters its window. -/
def State.acceptCounter (s : State) (g : Segment) : State :=
  let old := (s.segWindow g).getD ⟨g.keyId, g.src, g.vc, g.counter, []⟩
  let high := max old.high g.counter
  let w : SegWindow := { old with high := high, seen := g.counter :: old.seen.filter fun c => decide (high - c ≤ windowSpan) }
  { s with segWindows := w :: s.segWindows.filter fun x => !(x.keyId == g.keyId && x.src == g.src && x.vc == g.vc) }

/-- This module's command of a collective ends: by its number, or by membership and sequence number (R309). -/
def State.endRef (s : State) (c : CollRef) (st : Status) : State :=
  match s.runs.find? fun r => decide (r.stop = none ∧ r.phase ≠ .waiting) && (match c.number with
      | some n => decide (r.collNo = some n)
      | none => decide (r.coll = some c.membership ∧ r.collSeq = c.seqNo)) with
  | some r => s.haltRun r st 0 255
  | none => s

/-- The manager ends one collective on every member (R279, R309, R325, R518). -/
def State.endColl (s : State) (c : MgrColl) (st : Status) : State :=
  let keep (x : MgrColl) : Bool := !(x.membership == c.membership && x.seqNo == c.seqNo)
  let s1 : State := { s with domain := { s.domain with colls := s.domain.colls.filter keep } }
  (s1.emit (.channel0 (.placement c.membership c.seqNo (c.number.getD 0) none st))).takePlacement c.membership c.seqNo
    (c.number.getD 0) none st

/-- A member's word that a collective ended there: the manager ends it on every member, any other module here (R279, R309). -/
def State.squashed (s : State) (c : CollRef) (st : Status) : State :=
  if s.isManager then
    match s.domain.colls.find? fun x => (match c.number with
        | some n => decide (x.number = some n)
        | none => decide (x.membership = c.membership ∧ x.seqNo = c.seqNo)) with
    | some x => s.endColl x st
    | none => if c.number = none then s.endColl { membership := c.membership, seqNo := c.seqNo } st else s.endRef c st
  else s.endRef c st

/-- This member's command that awaits segments of a channel in the present stitch (R275, R342). -/
def State.awaiting (s : State) (vc : Nat) : Option Run :=
  s.runs.find? fun r => decide (r.coll = some (channelMembership vc) ∧ r.place = s.time.stitch.toNat ∧ r.stop = none ∧ r.phase ≠ .candidate ∧
    r.phase ≠ .waiting)

/-- The collective that awaits a segment of a channel ends with 0x39 on every member: here, and by the manager, which is told (R279). -/
def State.endAwaiting (s : State) (vc : Nat) : State :=
  if vc < 4 then s
  else match s.awaiting vc with
    | none => s
    | some r =>
      let c : CollRef := ⟨r.collNo, r.coll.getD 0, r.collSeq, true⟩
      let s1 := s.haltRun r 0x39 0 255
      if s.isManager then s1.squashed c 0x39 else s1.emit (.channel0 (.squash c))

/-- A span store's data arrives: basting of this member's command, under the line tag that it keeps (R342). -/
def State.takeSpanStore (s : State) (vc : Nat) (x : Nat × List Byte × BitVec 16) : State :=
  match s.awaiting vc with
  | none => s
  | some r =>
    match s.sleeve (ownerNum r.hdr.owner) with
    | none => s
    | some v =>
      let ms := placePiece x.1 (x.2.1.map fun b => (b, x.2.2))
      match lineTags ms (some []) with
      | none => s
      | some tags =>
        let new := (tags.filter fun e => (bastedLine r e.1).isNone).map fun e => (v.id, e.1)
        let away := s.spillsOf new
        s.updRun r.id fun q => { q with baste := { q.baste with dev := basteDev v q tags ms, spilled := q.baste.spilled ++ away } }

/-- Whether segments of a sender can be keyed: channels 2 and up take the sender's BOOT_ID from the roster (R432, R440). -/
def State.keyable (s : State) (g : Segment) : Bool :=
  decide (g.vc < 2) || s.domain.roster.any fun e => e.node == g.src && e.bootId.isSome

/-- A segment leaves the receive buffer, and its credits go back in a LINK flit (R276). -/
def State.freeBuffer (s : State) (port : Nat) (g : Segment) : State :=
  let p := s.port port
  let n := min (p.flitsOf g.length) (look 0 p.rxUsed g.vc)
  let s1 := s.updPort port fun p => { p with rxUsed := put 0 p.rxUsed g.vc (look 0 p.rxUsed g.vc - n) }
  if n = 0 then s1 else s1.emit (.flitLink port (flitHeader 0 2 p.sent p.ackNow) [(g.vc, n)] false)

/-- A segment for this module that is fresh and whose tag holds: its counter enters the window, and a span store is basted (R279, R342). -/
def State.takeSegment (s : State) (g : Segment) : State :=
  match g.store with
  | some x => if 20 ≤ g.vc then (s.acceptCounter g).takeSpanStore g.vc x else s.acceptCounter g
  | none => s.acceptCounter g

/-- SEGMENT_RECEIVE (R279): relayed unread, or accepted, or discarded as a duplicate, as too old, or as failing. -/
def execSegmentReceive (port : Nat) (seg : Segment) (tagOk : Bool) (s : State) : Host.Outcome State Fault Refusal :=
  .next (if (s.port port).carries seg.vc = false ∨ s.power.pstate = .rest then s
    else
      let s1 := s.freeBuffer port seg
      let fails (s : State) : State := s.updPort port fun p => { p with authFail := satUp p.authFail }
      if seg.dst ≠ s.domain.node then s1.sendSegment (Config.routePort s.domain.plan s.domain.node seg.dst % portCount) seg
      else match freshness (s.segWindow seg) seg.counter with
        | .duplicate => s1
        | .stale => fails s1
        | .fresh =>
          if tagOk && s.keyable seg then s1.takeSegment seg
          else ((fails s1).security 1 (seg.keyId % 65536 + seg.src % 65536 * 2 ^ 16 + seg.vc % 256 * 2 ^ 32 + port % 256 * 2 ^ 40)).endAwaiting
            seg.vc)

end Sys2Proof.Machine
end

