-- ==== Sys2Proof/Machine/Ticks.lean ====
section
/-! DEFINITION. Tick words (R272, R273, R319 to R323, R326, R330, R492): edges, holdover, adrift modules, barriers, decisions
and triggers. -/
namespace Sys2Proof.Machine
open Sys2Proof

/-! ### Fields of tick words (R320, R492) -/

/-- STITCH of an EDGE word. -/
def edgeStitch (w : BitVec 56) : Nat := bitsOf w.toNat 55 8
/-- LEN of an EDGE word. -/
def edgeLen (w : BitVec 56) : Nat := bitsOf w.toNat 7 6
/-- SHIFT of an EDGE word. -/
def edgeShift (w : BitVec 56) : Nat := bitsOf w.toNat 5 2
/-- EPOCH of an EDGE word. -/
def edgeEpoch (w : BitVec 56) : BitVec 2 := BitVec.ofNat 2 w.toNat
/-- KIND of a BARRIER word. -/
def barrierKind (w : BitVec 56) : Nat := bitsOf w.toNat 55 52
/-- ID of a BARRIER word. -/
def barrierId (w : BitVec 56) : Nat := bitsOf w.toNat 51 48
/-- COLL of a BARRIER word. -/
def barrierColl (w : BitVec 56) : BitVec 16 := BitVec.ofNat 16 (bitsOf w.toNat 47 32)
/-- COUNT of a BARRIER word. -/
def barrierCount (w : BitVec 56) : Nat := bitsOf w.toNat 31 16

/-! ### Epochs (R330) -/

/-- How an epoch stands to the highest seen, modulo 4. -/
inductive EpochOrder where
  | same
  | newer
  | older
deriving DecidableEq, Repr

/-- One or two ahead is newer, three ahead is one behind (R330). -/
def epochOrder (own w : BitVec 2) : EpochOrder := if w = own then .same else if w - own = 3 then .older else .newer

/-- A module loses its ticks (R321). -/
def State.enterHoldover (s : State) : State :=
  if s.domain.tick = .locked then
    ({ s with domain := { s.domain with tick := .holdover } } : State).event 0x0F 255 [(16, 1, 0), (18, 2, s.domain.manager)]
  else s

/-- A later epoch is seen (R330): a manager becomes a worker, and the sender's peer is the parent in the new tree; another
parent than before means holdover (R321). -/
def State.newEpoch (s : State) (port : Nat) (e : BitVec 2) : State :=
  let manager := if s.domain.standby ≠ 0xFFFF then s.domain.standby else s.domain.manager
  let s1 := if s.isManager then s.stepDown manager else s
  let s2 : State := { s1 with domain := { s1.domain with
    epoch := e
    manager := manager
    standby := 0xFFFF
    parent := some (s.port port).peerNode
    takeovers := min (s.domain.takeovers + 1) (2 ^ 32 - 1) } }
  (if s.domain.parent = some (s.port port).peerNode then s2 else s2.enterHoldover).event 0x0F 255 [(16, 1, 3), (18, 2, manager)]

/-! ### Edges -/

/-- The largest phase correction of one stitch, in picoseconds (R321, R322). -/
def maxCorrection : Int := 40000

/-- A phase error limited to one correction. -/
def clampErr (e : Int) : Int := max (-maxCorrection) (min maxCorrection e)

/-- Whether an EDGE word's LEN may stand: the length in force, or the one that the manager announced for that edge
(R323). -/
def State.lenOk (s : State) (w : BitVec 56) : Bool :=
  decide (edgeLen w = s.time.len) || decide (s.domain.announced = some (edgeStitch w, edgeLen w))

/-- A phase error measured and a correction made (R321, R322, R331). -/
def State.correct (s : State) (port : Nat) (err : Int) : State :=
  let s1 := s.updPort port fun p => { p with phaseErr := err }
  { s1 with domain := { s1.domain with edgeErr := clampErr err } }

/-- A correction lengthens or shortens the working part that begins, out of its droop slack (R321). -/
def State.drawSlack (s : State) (err : Int) : State := { s with time := { s.time with correction := clampErr err } }

/-- The module is locked to its parent's ticks (again). -/
def State.relock (s : State) : State :=
  let s1 : State := { s with domain := { s.domain with tick := .locked, missedEdges := 0 } }
  if s.domain.tick = .holdover ∨ s.domain.tick = .adrift then s1.event 0x0F 255 [(16, 1, 2), (18, 2, s.domain.manager)] else s1

/-- The edge that a valid EDGE word brings. -/
def State.takeEdge (s : State) (w : BitVec 56) : State :=
  let s1 : State := { s with time := { s.time with lenNext := if edgeLen w = s.time.len then s.time.lenNext else some (edgeLen w) } }
  let s2 : State := { s1 with domain := { s1.domain with
    announced := if s1.domain.announced = some (edgeStitch w, edgeLen w) then none else s1.domain.announced } }
  s2.passEdge (edgeStitch w) (edgeShift w)

/-- Tick lock in phase 5 (R511): the counter and the length are loaded, and the module enters READY at that edge. -/
def State.tickLock (s : State) (port : Nat) (w : BitVec 56) : State :=
  let s1 := s.correct port 0
  let s2 : State := { s1 with
    time := { s1.time with stitch := BitVec.ofNat 48 (edgeStitch w), len := edgeLen w }
    domain := { s1.domain with tick := .locked, missedEdges := 0, epoch := edgeEpoch w }
    dev := { s1.dev with phase := if s1.dev.phase = .failed then .failed else .ready, reached := .ready } }
  (s2.startStitch 0).sendEdge 0

/-- An adrift module's counter is loaded at an edge after its last reservation (R322). -/
def State.reload (s : State) (w : BitVec 56) : State :=
  let s1 : State := { s with
    time := { s.time with lenNext := some (edgeLen w) }
    domain := { s.domain with resync := false }
    dev := { s.dev with admitSuspended := s.power.supplyHold } }
  s1.relock.passEdge (edgeStitch w) (edgeShift w)

/-- Whether some reservation lies after the present stitch. -/
def State.reservedLater (s : State) : Bool := s.reservesAfter 0 s.time.stitch.toNat false

/-- Ticks return to an adrift module (R322): the expected number and at most 1 us of error are corrected by 40 ns a stitch;
anything else suspends admission until the counter can be loaded. -/
def State.adriftEdge (s : State) (port : Nat) (w : BitVec 56) (err : Int) : State :=
  if edgeStitch w = s.time.stitch.toNat + 1 ∧ err.natAbs ≤ 1000000 ∧ s.lenOk w = true then
    let s0 := s.correct port err
    let s1 : State := { s0 with domain := { s0.domain with missedEdges := 0 } }
    ((if err.natAbs ≤ 40000 then s1.relock else s1).takeEdge w).drawSlack err
  else if s.reservedLater then
    { s with domain := { s.domain with resync := true }, dev := { s.dev with admitSuspended := true } }
  else (s.correct port 0).reload w

/-- An EDGE word of the epoch in force from the parent. -/
def State.edgeFromParent (s : State) (port : Nat) (w : BitVec 56) (err : Int) : State :=
  if s.bringUp = .tickWait then s.tickLock port w
  else if !s.stitching || !s.time.hem then s
  else if s.domain.tick = .adrift then s.adriftEdge port w err
  else if edgeStitch w = s.time.stitch.toNat + 1 ∧ s.lenOk w = true then (((s.correct port err).relock).takeEdge w).drawSlack err
  else s

/-- EDGE_WORD (R272, R321 to R323, R330, R511): `phaseErr` is the measured phase error in picoseconds. -/
def execEdgeWord (port : Nat) (word : BitVec 56) (phaseErr : Int) (s : State) : Host.Outcome State Fault Refusal :=
  .next (if !(s.port port).ticks || !s.hasManager then s
    else
      let order := epochOrder s.domain.epoch (edgeEpoch word)
      if s.bringUp ≠ .tickWait ∧ order = .older then s
      else
        let s1 := if s.bringUp ≠ .tickWait ∧ order = .newer then s.newEpoch port (edgeEpoch word) else s
        if s1.domain.role ≠ .topManager ∧ s1.domain.parent = some (s.port port).peerNode then s1.edgeFromParent port word phaseErr
        else s1)

/-- Whether a module takes its edges from a parent: in a domain, READY, not the top manager. -/
def State.follows (s : State) : Bool := s.hasManager && s.stitching && decide (s.domain.role ≠ .topManager)

/-- EDGE_MISSED (R321): holdover; the stitches since the last valid EDGE word are counted. -/
def execEdgeMissed (s : State) : Host.Outcome State Fault Refusal :=
  .next (if s.follows then
      ({ s with domain := { s.domain with missedEdges := s.domain.missedEdges + 1 } } : State).enterHoldover
    else s)

/-- Stitches without a valid EDGE word after which a module is adrift (R322). -/
def adriftAfter : Nat := 64

/-- ADRIFT (R322): the module leaves every group and span. -/
def execAdrift (s : State) : Host.Outcome State Fault Refusal :=
  .next (if s.follows && decide (s.domain.tick = .holdover ∧ adriftAfter ≤ s.domain.missedEdges) then
      let s1 : State := { s with
        domain := { s.domain with tick := .adrift }
        groups := s.groups.map fun g => { g with removed := true } }
      let s2 := (List.range 4).foldl (fun (s : State) n =>
        if 1 < (s.slot n).span then s.updSlot n fun q => { q with spanGone := true } else s) s1
      s2.event 0x0F 255 [(16, 1, 1), (18, 2, s.domain.manager)]
    else s)

/-- TICK_RTT_MEASURE (R272): in every 1,024th hem, that of a stitch whose number is a multiple of 1,024 (DESIGN CHOICE, log entry 54). -/
def execTickRttMeasure (port rtt : Nat) (s : State) : Host.Outcome State Fault Refusal :=
  .next (if (s.port port).ticks && s.time.hem && decide (s.time.stitch.toNat % 1024 = 0) then s.updPort port fun p => { p with tickRtt := rtt } else s)

/-- TICK_WORD_CORRUPTED (R273). -/
def execTickWordCorrupted (port : Nat) (s : State) : Host.Outcome State Fault Refusal :=
  .next (if (s.port port).ticks then s.updPort port fun p => { p with tickErrors := satUp p.tickErrors } else s)

/-! ### Barriers and decisions (R307, R326) -/

/-- A BARRIER word goes on down the tree. -/
def State.relayDown (s : State) (w : BitVec 56) : State := s.emit (.tickWord tickBarrier w)

/-- BARRIER_ARRIVE (R326). -/
def execBarrierArrive (port : Nat) (word : BitVec 56) (s : State) : Host.Outcome State Fault Refusal :=
  .next (if (s.port port).ticks && decide (barrierKind word = 0) then
      s.countArrivals (barrierColl word) (barrierId word) (barrierCount word)
    else s)

/-- BARRIER_RELEASE_WORD (R326). -/
def execBarrierReleaseWord (word : BitVec 56) (s : State) : Host.Outcome State Fault Refusal :=
  .next (if s.hasManager && decide (barrierKind word = 1) then
      ((s.clearArrivals (barrierColl word) (barrierId word)).relayDown word).resumeColl (barrierColl word) (barrierId word)
    else s)

/-- Whether this module's manager table decides a collective. -/
def State.decidesColl (s : State) (coll : BitVec 16) : Bool :=
  match s.collMembership coll with | some m => s.decides m | none => false

/-- A decision in the working part: made by the deciding manager, RELEASE once every member has arrived at the completion barrier, which sends it, or received and passed on by any other
module; one that comes in the hem is too late (R307, R308). -/
def State.decision (s : State) (w : BitVec 56) (release : Bool) : State :=
  if s.time.hem || !s.hasManager then s
  else if s.decidesColl (barrierColl w) then
    if s.domain.colls.any fun c => decide (c.number = some (barrierColl w) ∧ c.decided = none) && (!release || c.complete) then s.decide_ (barrierColl w) release else s
  else (s.relayDown w).takeDecision (barrierColl w) release

/-- DECIDE_RELEASE (R307). -/
def execDecideRelease (word : BitVec 56) (s : State) : Host.Outcome State Fault Refusal :=
  .next (if barrierKind word = 2 then s.decision word true else s)

/-- DECIDE_ABORT (R307). -/
def execDecideAbort (word : BitVec 56) (s : State) : Host.Outcome State Fault Refusal :=
  .next (if barrierKind word = 3 then s.decision word false else s)

/-! ### Triggers (R491, R492) -/

/-- Stitches from now to the next one whose low 16 bits are `lo`. -/
def stitchesTo (now lo : Nat) : Nat := (lo + 65536 - now % 65536) % 65536

/-- TRIGGER_WORD (R492): relayed; a module with SRC_DOMAIN set takes the first stitch after receipt whose low 16 bits equal
STITCH_LO. A number half the range or more ahead, or that of the present stitch, is one whose instant has passed. -/
def execTriggerWord (word : BitVec 56) (s : State) : Host.Outcome State Fault Refusal :=
  let n := stitchesTo s.time.stitch.toNat (bitsOf word.toNat 55 40)
  .next (if !s.hasManager then s
    else
      let s1 := s.emit (.tickWord tickTrigger word)
      if !s.snapArmed 4 then s1
      else if n = 0 ∨ 32768 ≤ n then
        { s1 with snap := { s1.snap with
          missed := if s1.snap.missed = BitVec.allOnes 32 then s1.snap.missed else s1.snap.missed + 1 } }
      else s1.armSnap (s.time.stitch.toNat + n) (bitsOf word.toNat 39 16) (BitVec.ofNat 16 word.toNat) 4)

/-- The bit of SNAP_CTRL that arms a source of an instant: 1 command, 4 domain (R490). -/
def sourceBit (source : Nat) : Nat := if source = 4 then 4 else 1

/-- SNAPSHOT_TIMED_TRIGGER (R491): the earliest instant armed for the present stitch comes; it fires where its source is
armed. -/
def execSnapshotTimedTrigger (s : State) : Host.Outcome State Fault Refusal :=
  let due := s.snap.armed.filter fun a => decide (a.1 = s.time.stitch.toNat)
  let first := due.foldl (fun (m : Option (Nat × Nat × BitVec 16 × Nat)) a => match m with
    | none => some a
    | some x => if a.2.1 < x.2.1 then some a else some x) none
  .next (match first with
  | none => s
  | some a =>
    let s1 : State := { s with snap := { s.snap with armed := s.snap.armed.erase a } }
    if s1.snapArmed (sourceBit a.2.2.2) then s1.trigger a.2.2.2 a.2.2.1 else s1)

end Sys2Proof.Machine
end

