-- ==== Sys2Proof/Machine/Members.lean ====
section
/-! DEFINITION. Channel-0 traffic of a domain (R281, R290, R298, R309, R316 to R330, R433, R474, R511, R518): what members
receive from their manager, and what the manager receives from them. -/
namespace Sys2Proof.Machine
open Sys2Proof

/-! ### Members -/

/-- FENCED ports whose peer a roster names go on to STANDBY (R270). -/
def State.unfence (s : State) : State :=
  (List.range portCount).foldl (fun (s : State) n =>
    if (s.port n).state = .fenced ∧ s.accepts (s.port n).peerNode (s.port n).peerIdentity = true then s.updPort n fun p => { p with state := .standby } else s) s

/-- A roster is taken (R318). -/
def State.takeRoster (s : State) (gen : Nat) (roster : List RosterEntry) : State :=
  ({ s with domain := { s.domain with rosterGen := gen, roster := roster } } : State).unfence

/-- ROSTER_UPDATE (R318): acted on only with a higher generation than the one held. -/
def execRosterUpdate (gen : Nat) (roster : List RosterEntry) (s : State) : Host.Outcome State Fault Refusal :=
  .next (if s.hasManager && !s.isManager && decide (s.domain.rosterGen < gen) then s.takeRoster gen roster else s)

/-- COLLECTIVE_PLACEMENT (R325). -/
def execCollectivePlacement (membership seqNo : Nat) (coll : BitVec 16) (outcome : Option Placing) (status : Status) (s : State) :
    Host.Outcome State Fault Refusal :=
  .next (if s.hasManager then s.takePlacement membership seqNo coll outcome status else s)

/-- LEAVE_ACK (R518). -/
def execLeaveAck (s : State) : Host.Outcome State Fault Refusal :=
  .next (if s.leaving then { s with board := { s.board with leaveAcked := true } } else s)

/-- LATENCY_REQUIREMENT (R474). -/
def execLatencyRequirement (us : Option Nat) (s : State) : Host.Outcome State Fault Refusal :=
  .next (if s.hasManager then { s with domain := { s.domain with requirement := us } } else s)

/-- STANDBY_MIRROR (R329): the standby keeps the manager's state of this hem and acknowledges it. -/
def execStandbyMirror (mirror : Mirror) (s : State) : Host.Outcome State Fault Refusal :=
  .next (if s.domain.role = .standby then
      ({ s with domain := { s.domain with mirrored := some mirror, mirrorAcked := some (s.time.stitch.toNat - if s.time.hem then 0 else 1) } } : State).emit (.channel0 .mirrorAck)
    else s)

/-- A key that the manager sends is held (R433); groups that name a job key become ready. -/
def State.takeKey (s : State) (handle kind : Nat) (material : BitVec 256) : State :=
  let rest := s.sec.keys.filter fun k => !(k.kind == kind && k.handle == handle)
  { s with
    sec := { s.sec with keys := ⟨handle, kind, 255, material⟩ :: rest }
    groups := if kind = 2 then s.groups.map fun g => if g.block.keyId = handle then { g with ready := true } else g else s.groups }

/-- KEY_DELIVERY (R433): `kind` 1 is a base key, 2 a job key, 3 the domain key. -/
def execKeyDelivery (handle kind : Nat) (material : BitVec 256) (s : State) : Host.Outcome State Fault Refusal :=
  .next (if !s.hasManager || s.isManager then s
    else if kind = 1 ∨ kind = 2 then s.takeKey handle kind material
    else if kind = 3 then { s with domain := { s.domain with domainKey := true } }
    else s)

/-- STITCH_LENGTH_ANNOUNCE (R323). -/
def execStitchLengthAnnounce (stitch code : Nat) (s : State) : Host.Outcome State Fault Refusal :=
  .next (if s.follows && decide (code < 4 ∧ s.time.stitch.toNat < stitch) then
      { s with domain := { s.domain with announced := some (stitch, code) } }
    else s)

/-- TICK_PARENT_ASSIGN (R511); on a module that is locked, another parent means holdover (R321). -/
def execTickParentAssign (node : Nat) (s : State) : Host.Outcome State Fault Refusal :=
  .next (if s.hasManager && decide (s.domain.role ≠ .topManager) then
      let s1 : State := { s with domain := { s.domain with parent := some node } }
      if s.domain.parent = some node then s1 else s1.enterHoldover
    else s)

/-- MANAGER_TAKEOVER (R330): only a standby that has acknowledged the mirror of the previous hem. -/
def execManagerTakeover (s : State) : Host.Outcome State Fault Refusal :=
  .next (if s.domain.role = .standby ∧ s.stitching = true ∧ s.mirrorFresh = true then s.takeOver else s)

/-! ### The manager -/

/-- A list of a collective that a lost port ended is settled in its hem (R281). -/
def State.settleSoon (s : State) (m seqNo : Nat) : State :=
  if s.time.hem && s.domain.soon.contains (m, seqNo) then
    (s.domain.colls.filter fun c => c.membership == m && c.seqNo == seqNo && c.place.isNone).foldl State.settleColl s
  else s

/-- COLLECTIVE_CANDIDATES (R325). -/
def execCollectiveCandidates (node membership seqNo : Nat) (stitches : List Nat) (arrivals : List Nat) (s : State) :
    Host.Outcome State Fault Refusal :=
  .next (if s.decides membership then (s.addList node membership seqNo stitches arrivals).settleSoon membership seqNo else s)

/-- PORT_LOSS_REPORT (R281): the manager, or a member that it tells, plans anew; work of this stitch over the port runs
again. -/
def execPortLossReport (node port : Nat) (s : State) : Host.Outcome State Fault Refusal :=
  .next (if s.hasManager then (s.abortOver node port).replan node port else s)

/-- UNRAVEL_REPORT (R328). -/
def execUnravelReport (node : Nat) (s : State) : Host.Outcome State Fault Refusal :=
  .next (if s.isManager && decide (node ≠ s.domain.node) then s.orderShift node else s)

/-- ARRIVAL_MISMATCH_REPORT (R298). -/
def execArrivalMismatchReport (node : Nat) (coll : BitVec 16) (s : State) : Host.Outcome State Fault Refusal :=
  .next (if s.decidesColl coll && !s.time.hem && decide (node ≠ 0xFFFF) &&
      (s.domain.colls.any fun c => decide (c.number = some coll ∧ c.decided = none)) then s.decide_ coll false
    else s)

/-- Whether a collective includes a node: by its membership, or by its lists. -/
def State.includes (s : State) (c : MgrColl) (node : Nat) : Bool := s.hasMember c.membership node || c.lists.any fun l => l.1 == node

/-- LEAVE_NOTICE (R518): the collectives shared with the module end with 0x66; it leaves every group; the notice is
acknowledged. -/
def execLeaveNotice (node : Nat) (s : State) : Host.Outcome State Fault Refusal :=
  .next (if s.isManager && decide (node ≠ s.domain.node) then
      let hit := s.domain.colls.filter fun c => s.includes c node
      let s1 := hit.foldl (fun s c => s.endColl c 0x66) s
      (s1.dropMember node).emit (.channel0 (.leaveAck node))
    else s)

/-- Keys that a member is to hold: the job keys of its groups and spans, and the keys of its bases (R433). -/
def State.keysFor (s : State) (node : Nat) : List (Nat × Nat) :=
  let jobs := (s.domain.presented.filter fun x => x.2.members.contains node).map fun x => (x.2.keyId, 2)
  let bases := s.domain.holdings.filter fun x => x.nodes.contains node
  let spans := bases.filter fun x => decide (x.channel ≠ 0)
  (jobs ++ (spans.map fun (x : Holding) => (x.jobKey, 2)) ++ bases.map fun (x : Holding) => (x.keyId, 1)).eraseDups

/-- MODULE_JOIN_REPORT (R433, R511): the manager names a tick parent and sends the keys. -/
def execModuleJoinReport (node : Nat) (s : State) : Host.Outcome State Fault Refusal :=
  .next (if s.isManager && (s.domain.roster.any fun e => e.node == node) then
      let s1 := s.emit (.channel0 (.tickParent node (s.tickParent node)))
      (s.keysFor node).foldl (fun (s : State) k => s.emit (.channel0 (.wrappedKey node k.1 k.2))) s1
    else s)

/-- GROUP_BLOCK_PRESENTED (R290): a block unlike the others presented for its group is not recorded, and its member is told. -/
def execGroupBlockPresented (node : Nat) (block : GroupBlock) (s : State) : Host.Outcome State Fault Refusal :=
  .next (if s.isManager && block.members.contains node then
      (if s.blockDiffers block then s.emit (.channel0 (.groupRefused node block.group)) else s.present node block)
    else s)

/-- COLLECTIVE_SQUASH_NOTICE (R279, R309): the other members complete the collective with 0x66, or with 0x39 where a segment that failed
ended it. -/
def execCollectiveSquashNotice (node : Nat) (coll : CollRef) (s : State) : Host.Outcome State Fault Refusal :=
  .next (if !s.hasManager || decide (node = s.domain.node) then s else s.squashed coll (if coll.auth then 0x39 else 0x66))

/-- BASE_LOAD_REPORT (R335): a member's report, or, from the manager, its mark that the handle is READY from the next edge on. -/
def execBaseLoadReport (node handle : Nat) (s : State) : Host.Outcome State Fault Refusal :=
  .next (if (s.isManager && decide (node ≠ s.domain.node) || s.hasManager && decide (node = s.domain.manager)) &&
      !s.domain.loadReports.contains (node, handle) then
      { s with domain := { s.domain with loadReports := s.domain.loadReports ++ [(node, handle)] } }
    else s)

end Sys2Proof.Machine
end

