-- ==== Sys2Proof/Machine/BaseImages.lean ====
section
/-! DEFINITION. Signed management operations' envelope (R446), and base images (R332 to R340, R482): loads, chunks, switches
and retirement. -/
namespace Sys2Proof.Machine
open Sys2Proof

/-! ### Management operations (R446, R514) -/

/-- Whether the ME serves signed operations: it runs from power good on (R508). -/
def State.meRuns (s : State) : Bool := decide (s.board.stage = .on) && !s.board.mrst

/-- An answer of the ME. -/
def State.mgmtReply (s : State) (ok : Bool) (data : List Byte) : State := s.emit (.mgmtReply ok data)

/-- Whether an operation is authentic and new (R445, R446). -/
def State.authentic (s : State) (m : MgmtHdr) : Bool := s.store.anchor.isSome && m.sigOk && decide (s.store.mgmtSeq < m.seq)

/-- A signed operation (R446): refused when its signature fails or its number is not above the last accepted. With cause
0x01 the ROM serves firmware writes and resets alone (R514), which `rom` marks. -/
def State.mgmt (s : State) (m : MgmtHdr) (rom : Bool) (k : State → State) : State :=
  if !s.meRuns then s
  else if !s.authentic m || (decide (s.dev.phase = .failed ∧ s.dev.fail = 0x01) && !rom) then s.mgmtReply false []
  else k { s with store := { s.store with mgmtSeq := m.seq } }

/-- A signed operation of the manager (R317, R335 to R338, R390). A member takes it as its manager passes it on, without
the envelope. -/
def State.domainOp (s : State) (m : MgmtHdr) (k : State → State × Bool) : State :=
  if s.isManager then s.mgmt m false fun s => let r := k s; r.1.mgmtReply r.2 []
  else if s.hasManager then (k s).1
  else s.mgmt m false fun s => s.mgmtReply false []

/-! ### The image's header and layer table (R332, R333, R340) -/

/-- Two byte ranges apart. -/
def apart (a b : Nat × Nat) : Bool := decide (a.1 + a.2 ≤ b.1 ∨ b.1 + b.2 ≤ a.1)

/-- Pairwise. -/
def pairwise {α : Type} (f : α → α → Bool) : List α → Bool
  | [] => true
  | x :: l => l.all (f x) && pairwise f l

/-- Whether a layer entry is well formed (R54, R59, R333, R340). -/
def layerOk (span plain table : Nat) (e : LayerEntry) : Bool :=
  decide (e.kind ≤ 5 ∧ e.fmt ≤ 9 ∧ (e.rot = 0 ∨ (5 ≤ e.rot ∧ e.rot ≤ 12))) &&
  (!isMx e.fmt || decide (e.n % 32 = 0)) &&
  decide (if span ≤ 1 then e.shard = 0 else e.shard < span ∨ e.shard = 15) &&
  (decide (e.shard ≠ 15) || decide (e.n % (128 * span) = 0)) &&
  (layerRanges e).all fun r => decide (table ≤ r.1 ∧ r.1 + r.2 ≤ plain)

/-- Whether firmware takes a layer table (R333). -/
def tableOk (span plain : Nat) (ls : List LayerEntry) : Bool :=
  decide (1 ≤ ls.length ∧ ls.length ≤ 4096 ∧ 1 ≤ span ∧ span ≤ 8) &&
  pairwise (fun a b => decide (a.layer < b.layer)) ls &&
  ls.all (layerOk span plain (32 * ls.length)) && pairwise apart (ls.flatMap layerRanges)

/-- A field of a clear header. -/
def field (h : List Byte) (first n : Nat) : Nat := leNat ((h.drop first).take n)

/-- SPAN of a load's image (R332). -/
def spanOf (op : LoadOp) : Nat := field op.header 4 1

/-- Whether firmware takes a load's clear header (R14, R332). -/
def headerOk (op : LoadOp) : Bool :=
  decide (op.header.length = 64 ∧ field op.header 0 2 = 1 ∧ field op.header 2 2 = op.layers.length ∧ field op.header 5 3 = 0 ∧
    field op.header 26 38 = 0)

/-- A layer entry as the 32 bytes of the layer table (R333). -/
def layerRow (e : LayerEntry) : List Byte :=
  leBytes 2 e.layer ++ leBytes 1 e.kind ++ leBytes 1 (e.fmt + 16 * e.rot) ++ leBytes 4 e.k ++ leBytes 4 e.n ++ leBytes 2 e.experts ++
    [e.scale] ++ leBytes 1 e.shard ++ leBytes 8 e.offset ++ leBytes 8 e.soffset

/-- The image that a load names, as the slot of a module before it has any chunk (R332, R335, R340). -/
def loadSlot (op : LoadOp) (node : Nat) : Slot :=
  { imageId := field op.header 16 8, keyId := field op.header 24 2, plainBytes := field op.header 8 8, layers := op.layers
    span := spanOf op, member := op.members.idxOf node, spanMembers := if spanOf op ≤ 1 then [] else op.members
    jobKey := op.jobKey, seeds := op.seeds }

/-! ### The domain's loads (R335, R336, R340, R341) -/

/-- The modules that a load's image goes to: the members of its span, else every module of the domain (R335, R340). -/
def State.loadNodes (s : State) (op : LoadOp) : List Nat := if spanOf op ≤ 1 then s.domain.roster.map (·.node) else op.members

/-- Whether a load's seeds and members are modules of the domain that hold the image (R335, R340; that a seed holds it is a DESIGN
CHOICE, log entry 119). -/
def State.membersOk (s : State) (op : LoadOp) : Bool :=
  let nodes := s.loadNodes op
  (decide (spanOf op ≤ 1) || decide (op.members.length = spanOf op ∧ op.members.eraseDups.length = spanOf op)) &&
    nodes.all (fun n => s.domain.roster.any fun e => e.node == n) && decide (op.seeds ≠ []) && op.seeds.all nodes.contains

/-- Whether the manager holds the keys that a load names (R332, R433). -/
def State.loadKeys (s : State) (op : LoadOp) : Bool :=
  (s.sec.keys.any fun k => k.kind == 1 && k.handle == field op.header 24 2) &&
    (decide (spanOf op ≤ 1) || s.sec.keys.any fun k => k.kind == 2 && k.handle == op.jobKey)

/-- The channel for a span: one of 20 to 23 that is free on every member (R341). -/
def State.freeChannel (s : State) (nodes : List Nat) : Option Nat :=
  [20, 21, 22, 23].find? fun c => !(s.domain.holdings.any fun x => x.channel == c && x.nodes.any nodes.contains)

/-- Owner codes of slots for key sets (R247, R435). -/
def slotOwner (n : Nat) : Nat := 17 + n

/-- The slot of a new load (R335, R435). -/
def State.newLoad (s : State) (slot handle channel : Nat) (q : Slot) : State :=
  let g := s.newKeySet (slotOwner slot)
  let s1 : State := { g.2 with bases := { g.2.bases with usedHandles := g.2.bases.usedHandles ++ [handle] } }
  s1.updSlot slot fun _ => { q with handle := handle, state := .loading, keygen := g.1, spanChannel := channel }

/-- A load that names the image of a slot with lost pages again (R482): only the chunks that cover them come. -/
def Slot.reloading (q : Slot) : Slot :=
  { q with
    got := (List.range (chunkCount q.plainBytes)).filter fun i => !q.lost.any fun p => decide (p / 16 = i)
    failedOnce := [] }

/-- A module asks its manager for the chunks that cover a slot's lost pages (R482). -/
def State.reloadSlot (s : State) (slot : Nat) : State :=
  let q := (s.slot slot).reloading
  ((List.range (chunkCount q.plainBytes)).filter fun i => !q.got.contains i).foldl
    (fun (s : State) i => s.emit (.channel0 (.chunkAgain slot i))) (s.updSlot slot fun _ => q)

/-- This module's part of a load: a new slot, or the lost pages of one that holds the image (R335, R482); a seed reads its share. -/
def State.joinLoad (s : State) (op : LoadOp) (handle channel : Nat) : State :=
  let q := loadSlot op s.domain.node
  let old := s.slot op.slot
  if !(s.loadNodes op).contains s.domain.node then s
  else if old.state = .ready ∧ old.imageId = q.imageId ∧ old.keyId = q.keyId then
    if old.lost = [] then s else s.reloadSlot op.slot
  else if old.state = .free then (s.newLoad op.slot handle channel q).seedRead op.slot
  else s

/-- A base that the domain holds READY in the slot and on the modules that a load names. -/
def State.heldThere (s : State) (op : LoadOp) : Option Holding :=
  s.domain.holdings.find? fun x => x.ready && x.slot == op.slot && x.nodes.any (s.loadNodes op).contains

/-- Whether the manager refuses a new load (R333, R335, R340, R341, R434). -/
def State.refusesLoad (s : State) (op : LoadOp) : Bool :=
  let q := loadSlot op s.domain.node
  !tableOk (spanOf op) q.plainBytes op.layers || !s.membersOk op || !s.loadKeys op || op.lackPages || s.sec.entropyFailing ||
    ((s.loadNodes op).contains s.domain.node && (decide ((s.slot op.slot).state ≠ .free) || decide (s.poolLeft < q.heldPages))) ||
    (decide (1 < spanOf op) && (s.freeChannel (s.loadNodes op)).isNone)

/-- The manager's keys for a load go to the modules that are to hold the base (R433). -/
def State.sendLoadKeys (s : State) (op : LoadOp) : State :=
  ((s.loadNodes op).filter (· != s.domain.node)).foldl (fun (s : State) n =>
    let s1 := s.emit (.channel0 (.wrappedKey n (field op.header 24 2) 1))
    if spanOf op ≤ 1 then s1 else s1.emit (.channel0 (.wrappedKey n op.jobKey 2))) s

/-- The manager passes a load on with its handle and channel, and takes its own part (R335). -/
def State.passLoad (s : State) (op : LoadOp) (handle channel : Nat) : State :=
  ((s.emit (.channel0 (.load { op with assigned := some (handle, channel) }))).sendLoadKeys op).joinLoad op handle channel

/-- A new base of the domain: its handle and its span's channel are the manager's (R336, R341). -/
def State.startLoad (s : State) (op : LoadOp) : State :=
  let f := s.fresh
  let used := s.bases.usedHandles ++ s.domain.holdings.map (·.handle)
  let h := handleIn 1 0xEFFF used (Config.handlePick f.1)
  let ch := if spanOf op ≤ 1 then 0 else (s.freeChannel (s.loadNodes op)).getD 20
  let x : Holding := ⟨h, field op.header 16 8, op.slot, field op.header 24 2, op.jobKey, ch, s.loadNodes op, false⟩
  let rest := s.domain.holdings.filter fun y => !(!y.ready && y.slot == op.slot && y.nodes.any x.nodes.contains)
  let s1 : State := { f.2 with
    domain := { s.domain with holdings := rest ++ [x] }, bases := { s.bases with usedHandles := s.bases.usedHandles ++ [h] } }
  s1.passLoad op h ch

/-- BASE_LOAD in the domain (R333, R335, R482): a member takes what its manager has assigned. -/
def State.loadBase (s : State) (op : LoadOp) : State × Bool :=
  if 4 ≤ op.slot ∨ headerOk op = false then (s, false)
  else match op.assigned with
    | some a => if s.isManager then (s, false) else (s.joinLoad op a.1 a.2, true)
    | none =>
      if !s.isManager then (s, false)
      else match s.heldThere op with
        | some x =>
          if x.keyId = field op.header 24 2 ∧ x.imageId = field op.header 16 8 then (s.passLoad op x.handle x.channel, true) else (s, false)
        | none => if s.refusesLoad op then (s, false) else (s.startLoad op, true)

/-- BASE_LOAD (R335). -/
def execBaseLoad (m : MgmtHdr) (header : List Byte) (layers : List LayerEntry) (seeds members : List Nat) (jobKey slot : Nat)
    (lackPages : Bool) (assigned : Option (Nat × Nat)) (s : State) : Host.Outcome State Fault Refusal :=
  .next (s.domainOp m fun s => s.loadBase ⟨header, layers, seeds, members, jobKey, slot, lackPages, assigned⟩)

/-! ### Chunks (R334) -/

/-- The children of a module in the distribution tree of the seed that reads a chunk: a heap of degree 2 with the seed at its root
(DESIGN CHOICE, log entry 119; R335 leaves the tree to the manager). -/
def treeBelow (nodes : List Nat) (seed node : Nat) : List Nat :=
  let n := nodes.length
  let root := nodes.idxOf seed
  let r := (nodes.idxOf node + n - root) % n
  ([2 * r + 1, 2 * r + 2].filter fun c => decide (c < n)).map fun c => nodes.getD ((c + root) % n) 0xFFFF

/-- The modules that a slot's image goes to. -/
def State.slotNodes (s : State) (q : Slot) : List Nat := if q.span ≤ 1 then s.domain.roster.map (·.node) else q.spanMembers

/-- A chunk goes on to the module's children as it was received (R334). -/
def State.forwardChunk (s : State) (slot index : Nat) : State :=
  let q := s.slot slot
  let seed := q.seeds.getD (index / max 1 (seedShare q)) 0xFFFF
  (treeBelow (s.slotNodes q) seed s.domain.node).foldl (fun (s : State) node =>
    let x := s.sendMessage (Config.routePort s.domain.plan s.domain.node node % portCount) node q.jobKey 2
      (min (2 ^ 20) (q.plainBytes - 2 ^ 20 * index) + 16) (.chunk slot index)
    { x.1 with domain := { x.1.domain with released := x.1.domain.released ++ [x.2] } }) s

/-- What a chunk's plaintext puts into a slot: the bytes that the module holds (R334, R340). -/
def Slot.put (q : Slot) (index : Nat) (plain : List Byte) : Mem :=
  let lo := 2 ^ 20 * index
  (q.stripes.flatMap fun x => x.parts lo (lo + plain.length)).foldl (fun m p =>
    memWrite m p.1 ((plain.drop (p.1 - lo)).take p.2)) q.mem

/-- A chunk is in its slot: the pages it covers are whole again (R482), and a member that now has all reports it (R335). -/
def State.storeChunk (s : State) (slot index : Nat) (plain : List Byte) : State :=
  let q := s.slot slot
  let s1 := s.updSlot slot fun q => { q with
    mem := q.put index plain
    got := index :: q.got
    lost := q.lost.filter fun p => decide (p / 16 ≠ index) }
  if q.state = .loading ∧ (s1.slot slot).whole = true ∧ s.isManager = false then s1.emit (.channel0 (.loaded q.handle)) else s1

/-- A load ends on this module: the slot is free (R334). -/
def State.endLoad (s : State) (slot : Nat) : State := s.updSlot slot fun q => { emptySlot with keygen := q.keygen }

/-- A chunk whose tag fails (R334): it is asked for once more; a second failure ends the load. -/
def State.failChunk (s : State) (slot index : Nat) : State :=
  let q := s.slot slot
  if q.failedOnce.contains index ∧ q.state = .loading then s.endLoad slot
  else (s.updSlot slot fun q => { q with failedOnce := index :: q.failedOnce }).emit (.channel0 (.chunkAgain slot index))

/-- Whether a chunk's plaintext agrees with the layer table that the load names (R332). -/
def tableAgrees (q : Slot) (index : Nat) (plain : List Byte) : Bool :=
  let rows := q.layers.flatMap layerRow
  let part := ((rows.drop (2 ^ 20 * index)).take (2 ^ 20))
  plain.take part.length == part

/-- A chunk whose tag holds. -/
def State.takeChunk (s : State) (slot index : Nat) (plain : List Byte) : State :=
  let q := s.slot slot
  if q.state = .loading ∧ tableAgrees q index plain = false then s.endLoad slot
  else if q.holdsChunk index then s.storeChunk slot index plain
  else s.updSlot slot fun q => { q with got := index :: q.got }

/-- A chunk's plaintext where its tag holds and its length is right (R332, R334). -/
def chunkText (q : Slot) (index : Nat) (plain : Option (List Byte)) : Option (List Byte) :=
  plain.filter fun l => decide (l.length = min (2 ^ 20) (q.plainBytes - 2 ^ 20 * index))

/-- BASE_CHUNK_RECEIVE (R334): from the Seam, or from the host through the ingest window; no plaintext where its tag fails. -/
def execBaseChunkReceive (slot index : Nat) (host : Bool) (plain : Option (List Byte)) (s : State) :
    Host.Outcome State Fault Refusal :=
  let q := s.slot slot
  .next (if (q.state ≠ .loading ∧ q.state ≠ .ready) ∨ chunkCount q.plainBytes ≤ index ∨ q.got.contains index = true ∨
      (host = true ∧ (s.bases.ingest.isNone ∨ q.seeds.contains s.domain.node = false)) then s
    else
      let s1 := if q.state = .loading then s.forwardChunk slot index else s
      match chunkText q index plain with
      | some l => s1.takeChunk slot index l
      | none => s1.failChunk slot index)

/-! ### Aliases and retirement (R336 to R338) -/

/-- Whether a number is an alias (R336). -/
def isAlias (h : Nat) : Bool := decide (0xF000 ≤ h ∧ h ≤ 0xF0FF)

/-- Whether a handle is READY on this module and not about to be retired. -/
def State.baseReady (s : State) (h : Nat) : Bool :=
  match s.slotOf h with
  | some n => decide ((s.slot n).state = .ready) && !s.bases.pendingRetire.contains h
  | none => false

/-- A base of the domain, as its manager keeps it. -/
def State.holding (s : State) (h : Nat) : Option Holding := s.domain.holdings.find? fun x => x.handle == h

/-- Whether the manager may switch an alias to a handle (R337): it is READY on every module that holds the alias's current handle. -/
def State.switchOk (s : State) (name handle : Nat) : Bool :=
  match s.holding handle with
  | none => false
  | some x => x.ready && !s.bases.pendingRetire.contains handle &&
      match (s.bases.aliasMap.find? fun a => a.1 == name).bind fun a => s.holding a.2 with
      | some old => old.nodes.all x.nodes.contains
      | none => true

/-- BASE_SWITCH (R337): the pointer is written in the hem before `stitch`; the manager passes the switch on. -/
def execBaseSwitch (m : MgmtHdr) (name handle stitch : Nat) (s : State) : Host.Outcome State Fault Refusal :=
  .next (s.domainOp m fun s =>
    if isAlias name && (if s.isManager then s.switchOk name handle else s.baseReady handle) && decide (s.time.stitch.toNat < stitch) then
      let s1 : State := { s with bases := { s.bases with pendingSwitch := s.bases.pendingSwitch ++ [(name, handle, stitch)] } }
      (if s.isManager then s1.emit (.channel0 (.switch name handle stitch)) else s1, true)
    else (s, false))

/-- Whether an alias points to a handle, or is about to (R338). -/
def State.aliased (s : State) (h : Nat) : Bool :=
  (s.bases.aliasMap.any fun x => x.2 == h) || s.bases.pendingSwitch.any fun x => x.2.1 == h

/-- Whether a patch or an admitted command names a base handle (R338). -/
def State.baseInUse (s : State) (h : Nat) : Bool :=
  (s.patches.any fun p => p.base == h) || s.runs.any fun r => r.base == h && decide (r.stop = none)

/-- Whether the manager may retire a handle (R338); `inUse` is what the other modules answer. -/
def State.retireOk (s : State) (h : Nat) (inUse : Bool) : Bool :=
  (match s.holding h with | some x => x.ready | none => false) && !s.bases.pendingRetire.contains h && !s.aliased h && !s.baseInUse h && !inUse

/-- BASE_RETIRE (R338). The manager passes it on. -/
def execBaseRetire (m : MgmtHdr) (op : RetireOp) (s : State) : Host.Outcome State Fault Refusal :=
  .next (s.domainOp m fun s =>
    if (if s.isManager then s.retireOk op.handle op.inUse else s.baseReady op.handle) then
      let s1 : State := { s with bases := { s.bases with pendingRetire := s.bases.pendingRetire ++ [op.handle] } }
      (if s.isManager then s1.emit (.channel0 (.retire op.handle)) else s1, true)
    else (s, false))

end Sys2Proof.Machine
end

