-- ==== Sys2Proof/Machine/Boot.lean ====
section
/-! DEFINITION. Pins and bring-up (R316, R423 to R427, R501 to R514): power, straps, firmware verification, memory and Seam
training, READY, FAILED, and module resets by pin. -/
namespace Sys2Proof.Machine
open Sys2Proof

/-! ### Phases -/

/-- STATE moves on to a phase, behind FAILED with cause 0x0B too (R508, R510). -/
def State.advance (s : State) (p : DevPhase) : State :=
  { s with dev := { s.dev with phase := if s.dev.phase = .failed then .failed else p, reached := p } }

/-- In-band interrupt codes (R525). -/
def i3cRequest : Nat := 1
def i3cCancel : Nat := 2
def i3cSafe : Nat := 3
def i3cThermal : Nat := 4
def i3cFailed : Nat := 5

/-- Bring-up ends in FAILED (R513, R514): the ports are DISABLED. -/
def State.failBoot (s : State) (cause : BitVec 8) : State :=
  let s1 := (List.range portCount).foldl (fun (s : State) n => s.updPort n fun p => { p with state := .disabled }) s
  ({ s1 with dev := { s1.dev with phase := .failed, fail := cause, reached := .failed } } : State).emit (.i3cInterrupt i3cFailed)

/-- READY (R25, R511, R512): the counter starts at `stitch` and the bolts start. -/
def State.goReady (s : State) : State :=
  let s1 := s.advance .ready
  ({ s1 with time := { s1.time with stitch := 0, len := 1 } } : State).startStitch 0

/-! ### Power and pins (R503, R505, R507) -/

/-- The turn-on voltage in millivolts (R503). -/
def turnOnMv : Nat := 32000

/-- MOD_EN_RISE (R503, R505): MOD_EN is high and the input holds 32 V for 10 ms; after a trip MOD_EN must have been low for
100 ms. -/
def execModEnRise (lowMs inputMv : Nat) (s : State) : Host.Outcome State Fault Refusal :=
  let s1 : State := { s with board := { s.board with modEn := true, vinMv := inputMv } }
  .next (if s.board.stage = .off ∧ turnOnMv ≤ inputMv ∧ (s.board.trip = none ∨ 100 ≤ lowMs) then
      { s1 with board := { s1.board with stage := .charging } }
    else s1)

/-- POWER_GOOD (R501, R507): PWRGD is released, the straps are sampled, all LEDs light, the ROMs start in BOOT. -/
def execPowerGood (mgrEn : Bool) (domainSel : BitVec 4) (bootSlot : Bool) (s : State) : Host.Outcome State Fault Refusal :=
  .next (if s.board.stage = .charging then
      let s1 : State := { s with board := { s.board with pinMgrEn := mgrEn, pinDomainSel := domainSel, pinBootSlot := bootSlot } }
      let s2 := s1.moduleReset .on s.board.trip
      { s2 with board := { s2.board with lampTest := true } }
    else s)

/-- LAMP_TEST_END (R507). -/
def execLampTestEnd (s : State) : Host.Outcome State Fault Refusal :=
  .next { s with board := { s.board with lampTest := false } }

/-! ### Phase 2 (R423, R513, R316) -/

/-- The slot that verifies first, as its bundle and whether it is slot B (R423). -/
def State.chooseSlot (s : State) (slotA slotB : Option FwBundle) : Option (FwBundle × Bool) :=
  let firstB := (s.store.activation.getD false) ^^ s.board.bootSlot
  let try_ (b : Bool) : Option (FwBundle × Bool) :=
    match if b then slotB else slotA with
    | some f => if s.store.svnMin ≤ f.svn then some (f, b) else none
    | none => none
  (try_ firstB).or (try_ !firstB)

/-- FAIL for the trip that ended the previous power-up (R513). -/
def tripCode : TripCause → BitVec 8
  | .thermal => 0x07
  | .overcurrent => 0x08
  | .overvoltage => 0x09

/-- The role that a profile gives (R315, R316): MGR_EN low leaves a worker; index 0 alone is a manager, that of domain 0 alone, and
always, the top manager. -/
def State.profileRole (s : State) (p : Profile) : Role :=
  if !s.board.mgrEn then .worker
  else match p.role with
    | .manager | .topManager => if p.index ≠ 0 then .worker else if p.domain = 0 then .topManager else .manager
    | r => r

/-- The module's place in its domain by the profile that DOMAIN_SEL selects (R315, R316, R511); standalone without one, or
without a management anchor (R512). -/
def State.loadProfile (s : State) : State :=
  match look none s.store.profiles s.board.domainSel.toNat, s.store.anchor with
  | some p, some _ =>
    let node := p.domain * 512 + p.index
    let role := s.profileRole p
    let d : Domain := { ({} : Domain) with
      node := node
      role := role
      manager := p.domain * 512
      standby := if role = .standby then node else Config.standbyNode p.domain % 65536
      managerIdentity := p.managerIdentity
      rosterGen := p.rosterGen
      roster := p.roster
      domainKey := decide (role = .manager ∨ role = .topManager) }
    { s with domain := d }
  | _, _ => { s with domain := { ({} : Domain) with standalone := true } }

/-- FIRMWARE_VERIFIED (R423, R507 phase 2, R513): `slotA` and `slotB` are the bundles whose signature and hashes verify. -/
def execFirmwareVerified (slotA slotB : Option FwBundle) (selfTestOk : Bool) (s : State) : Host.Outcome State Fault Refusal :=
  .next (if s.dev.phase ≠ .boot ∨ s.meRuns = false ∨ s.dev.fw ≠ none then s
    else if !selfTestOk then s.failBoot 0x02
    else match s.chooseSlot slotA slotB with
    | none => s.failBoot 0x01
    | some (f, b) =>
      let s1 : State := { s with dev := { s.dev with fw := some f, fwSlot := b } }
      let s2 := s1.loadProfile
      match s2.board.trip with
      | some t => ({ s2 with board := { s2.board with trip := none } } : State).failBoot (tripCode t)
      | none => s2.advance .memTrain)

/-! ### The host link (R507, R510) -/

/-- PERST_DEASSERT (R507). -/
def execPerstDeassert (s : State) : Host.Outcome State Fault Refusal :=
  .next { s with board := { s.board with perst := false } }

/-- CXL_IO_READY (R510): without CXL.cache STATE reads FAILED with cause 0x0B while bring-up goes on; with it STATE shows
the phase reached. -/
def execCxlIoReady (cache : Bool) (width rate : Nat) (s : State) : Host.Outcome State Fault Refusal :=
  .next (if s.board.perst || !s.meRuns || s.hif.ioReady then s
    else
      let s1 : State := { s with
        hif := { s.hif with ioReady := true, cache := cache, link := .l0, width := width, rate := rate }
        dev := { s.dev with linkDegraded := decide (width < 16 ∨ rate < 32) } }
      if s.dev.phase = .failed then
        if s.dev.fail = 0x0B ∧ cache = true then { s1 with dev := { s1.dev with phase := s.dev.reached, fail := 0 } } else s1
      else if cache then s1.resumeHost
      else ({ s1 with dev := { s1.dev with phase := .failed, fail := 0x0B, reached := s.dev.phase } } : State).emit
        (.i3cInterrupt i3cFailed))

/-! ### Phases 3 to 6 (R507, R509, R511 to R513) -/

/-- The cause that phase 3 ends in, if any (R513). -/
def phase3Cause (r : MemTrainResult) : Option (BitVec 8) :=
  if !r.storedOk && !r.coldOk then some 0x03
  else if !r.dieLinksOk then some 0x04
  else if !r.selfTestOk then some 0x05
  else if !r.entropyOk then some 0x06
  else if !r.capacityOk then some 0x0A
  else none

/-- Leaves of the device top tree (R420, R427). -/
def topLeaves : Nat := 32768

/-- The boot's identity (R427): a random BOOT_ID, the next top-tree leaf spent on the boot certificate, a lower tree whose
leaf 0 is unused (R428). -/
def State.bootIdentity (s : State) : State :=
  let f := s.fresh
  let some_ := decide (s.store.topLeaf < topLeaves)
  { f.2 with
    store := { s.store with topLeaf := if some_ then s.store.topLeaf + 1 else s.store.topLeaf }
    dev := { s.dev with bootId := Config.randomId f.1, bootCert := some_, lowerLeaf := 1 } }

/-- MEM_TRAIN_COMPLETE (R507 phase 3, R509): the results of a training are stored; ports with signal begin to train. -/
def execMemTrainComplete (res : MemTrainResult) (s : State) : Host.Outcome State Fault Refusal :=
  .next (if s.bringUp ≠ .memTrain then s
    else match phase3Cause res with
    | some c => s.failBoot c
    | none =>
      let s1 := ({ s with store := { s.store with trained := true } } : State).bootIdentity.advance .seamTrain
      (List.range portCount).foldl (fun (s : State) n => if s.mayTrain n then s.train n else s) s1)

/-- SEAM_TRAIN_END (R507 phase 4, R511, R512): a standalone module and the top manager go on to READY; the others report to
their manager and wait for its ticks. -/
def execSeamTrainEnd (s : State) : Host.Outcome State Fault Refusal :=
  .next (if s.bringUp ≠ .seamTrain then s
    else if s.domain.standalone || decide (s.domain.role = .topManager) then s.goReady
    else (s.advance .tickWait).emit (.channel0 .joinReport))

/-! ### Module resets by pin (R505) -/

/-- MOD_EN_FALL (R505): the rails fall and the module resets. -/
def execModEnFall (s : State) : Host.Outcome State Fault Refusal :=
  let s1 := s.moduleReset .off s.board.trip
  .next { s1 with board := { s1.board with modEn := false } }

/-- MRST_ASSERT (R505): MRST# low for 1 us resets the module with rails up. -/
def execMrstAssert (s : State) : Host.Outcome State Fault Refusal :=
  let s1 := s.moduleReset s.board.stage s.board.trip
  .next { s1 with board := { s1.board with mrst := true } }

/-- MRST_RELEASE (R505): bring-up starts at phase 2. -/
def execMrstRelease (s : State) : Host.Outcome State Fault Refusal :=
  .next { s with board := { s.board with mrst := false } }

end Sys2Proof.Machine
end

