-- ==== Sys2Proof/Machine/Thermal.lean ====
section
/-! DEFINITION. The power manager's events (R457 to R468, R475, R503 to R505): 1 us samples with bubbles and the peak window,
supply events, trips, thermal limits and the spread, exits from gated states. -/
namespace Sys2Proof.Machine
open Sys2Proof

/-! ### Samples and bubbles (R460, R407) -/

/-- Samples of the 200 ms window. -/
def windowSamples : Nat := 200000

/-- Runs of samples limited to the newest `n`. -/
def trimWindow : Nat → List (Bool × Nat) → List (Bool × Nat)
  | 0, _ => []
  | _, [] => []
  | n, x :: l => if n ≤ x.2 then [(x.1, n)] else x :: trimWindow (n - x.2) l

/-- One sample joins the window. -/
def pushSample (above : Bool) (w : List (Bool × Nat)) : List (Bool × Nat) :=
  trimWindow windowSamples (match w with
    | x :: l => if x.1 = above then (above, x.2 + 1) :: l else (above, 1) :: w
    | [] => [(above, 1)])

/-- PEAK_LOCK after 20 ms above 1,320 W; it lasts until 2 ms of the window are unused (R460). -/
def peakLockNext (locked : Bool) (above : Nat) : Bool := if locked then decide (18000 < above) else decide (20000 ≤ above)

/-- The largest bubble fraction of a bolt in sixteenths outside an emergency: its clock stays at the guard (R34); a bolt
without a reservation has no such limit. -/
def State.bubbleLimit (s : State) (bno : Nat) : Nat :=
  let c := (s.bolt bno).clock
  if s.reservedOn bno s.time.stitch.toNat then (if c ≤ s.guard then 0 else 16 * (c - s.guard) / c) else 16

/-- The fraction that an emergency holds on a bolt, in sixteenths (R465, R467, R468). -/
def State.emergencyBubble (s : State) (bno : Nat) : Nat :=
  let module := s.power.supplyHold || (s.power.emergencies.any fun x => decide (32 ≤ x ∧ x < 76)) ||
    (s.power.spreadEmergency.any fun d => decide (4 ≤ d))
  max (if s.dieEmergency (dieOfBolt bno) then 12 else 0) (if module then 8 else 0)

/-- The module bubble fraction in sixteenths, rounded up: fraction times compute power is the excess over the cap (R460);
PEAK_LOCK holds samples to 1,320 W. -/
def State.capBubble (s : State) (p : PowerSample) : Nat :=
  let limit := if s.power.peakLock then min (1000 * s.power.capW) 1320000 else 1000 * s.power.capW
  if p.inputMw ≤ limit ∨ p.computeW = 0 then 0 else min 16 (ceilDiv (16 * (p.inputMw - limit)) (1000 * p.computeW))

/-- Whether a bolt's sleeve draws more in the present stitch than its POWER_W by full-activity figures (R407, R459). -/
def State.overShare (s : State) (bno : Nat) : Bool :=
  match s.ownerOf bno with
  | none => false
  | some v => decide (1000 * v.power < s.sleeveMw s.time.stitch.toNat ((List.range 16).map fun b => (s.bolt b).clock) v)

/-- Bubbles of one sample: the sleeves above their shares give way first; what they cannot give is taken from all (R407,
R460). -/
def State.bubbles (s : State) (n : Nat) : State :=
  let above := (List.range 16).filter s.overShare
  let can := sumOf (above.map fun b => min n (s.bubbleLimit b))
  let enough := decide (above ≠ [] ∧ 16 * n ≤ can)
  s.updBolts (List.range 16) fun b x =>
    let cap := if enough && !above.contains b then 0 else min n (s.bubbleLimit b)
    let f := if x.gate = .none then max cap (s.emergencyBubble b) else 0
    { x with bubble16 := f, bubbleCycles := x.bubbleCycles + x.clock * 100 * f / 16 }

/-- A supply warning, or what is handled as one (R460, R465): admission is suspended, every bolt's fraction goes to 0.5. -/
def State.enterHold (s : State) (mv : Nat) : State :=
  if s.power.supplyHold then { s with power := { s.power with holdLow := min s.power.holdLow mv } }
  else
    let s1 : State := { s with
      power := { s.power with supplyHold := true, holdLow := mv, resumeAtEdge := false }
      dev := { s.dev with admitSuspended := true }
      time := { s.time with emergency := s.time.emergency ||| causeBit 2 } }
    (s1.bubbles 0).event 0x06 255 [(16, 1, 1), (20, 4, mv)]

/-- Classes cut and refresh doubled while regions throttle (R467). -/
def Power.cuts (p : Power) : Power :=
  { p with
    linksCut := (p.throttled.any fun x => decide (40 ≤ x ∧ x < 44)) || p.capCut.contains 0
    memoryCut := (p.throttled.any fun x => decide (32 ≤ x ∧ x < 44)) || p.capCut.contains 1
    refreshDouble := (p.throttled.filter fun x => decide (44 ≤ x ∧ x < 76)).map (· - 44) }

/-- Classes cut for a draw of `excess` milliwatts above the load budget, the class ordered last first: each gives what it draws
above its minimum before the next is cut (R458). -/
def State.cutClasses (s : State) (draw : List Nat) : Nat → List Nat → List Nat
  | 0, _ => []
  | _, [] => []
  | excess, c :: cs =>
    let least := if c = 2 then 1000 * sumOf (s.sleeves.map (·.power)) else s.classMin c
    c :: s.cutClasses draw (excess - (1000 * draw.getD c 0 - least)) cs

/-- The cuts of a sample (R458): its class draws against the load budget. -/
def State.capCuts (s : State) (p : PowerSample) : List Nat :=
  s.cutClasses [p.linksW, p.memoryW, p.computeW] (1000 * (p.linksW + p.memoryW + p.computeW) + 60000 - s.power.capW * 880)
    s.power.order.reverse

/-- POWER_SAMPLE (R457, R458, R460, R464). -/
def execPowerSample (p : PowerSample) (s : State) : Host.Outcome State Fault Refusal :=
  .next (if s.board.stage ≠ .on then s
    else
      let twice := decide (1500000 < s.board.inputMw ∧ 1500000 < p.inputMw)
      let w := pushSample (decide (1320000 < p.inputMw)) s.power.window
      let pw : Power := { s.power with
        samples := s.power.samples + 1
        sumMw := s.power.sumMw + p.inputMw
        peakMw := max s.power.peakMw p.inputMw
        vinMin := if s.power.samples = 0 then p.inputMv else min s.power.vinMin p.inputMv
        classW := [p.linksW, p.memoryW, p.iodW, p.computeW]
        underRange := decide (30500 ≤ p.inputMv ∧ p.inputMv < 32000)
        holdLow := if s.power.supplyHold then min s.power.holdLow p.inputMv else s.power.holdLow
        window := w }
      let lock := peakLockNext pw.peakLock (overUsed pw)
      let s1 : State := { s with power := ({ pw with peakLock := lock, capCut := s.capCuts p } : Power).cuts, board := { s.board with inputMw := p.inputMw, vinMv := p.inputMv } }
      let s2 := if twice then s1.enterHold p.inputMv else s1
      s2.bubbles (s2.capBubble p))

/-! ### Supply events (R464, R465) -/

/-- SUPPLY_WARNING (R465). -/
def execSupplyWarning (inputMv : Nat) (s : State) : Host.Outcome State Fault Refusal :=
  .next (if s.board.stage = .on ∧ inputMv < 30500 then
      ({ s with board := { s.board with vinMv := inputMv } } : State).enterHold inputMv
    else s)

/-- SUPPLY_RECOVERY (R465): the hold lifts at once, admission resumes at the next edge, the event gives the lowest input; the
supply source fires in the hem of the stitch. -/
def execSupplyRecovery (s : State) : Host.Outcome State Fault Refusal :=
  .next (if s.power.supplyHold then
      let s1 : State := { s with power := { s.power with supplyHold := false, resumeAtEdge := true, supplyEnded := !s.time.hem } }
      let s2 := (s1.bubbles 0).event 0x06 255 [(16, 1, 0), (20, 4, s.power.holdLow)]
      if s.time.hem then s2.errorTrigger 10 else s2
    else s)

/-- Rails off and a module reset, which a trip latches (R505). -/
def State.powerOff (s : State) (trip : Option TripCause) : State := s.moduleReset .off trip

/-- INPUT_RESET (R464). -/
def execInputReset (s : State) : Host.Outcome State Fault Refusal :=
  .next (if s.board.stage = .off then s else s.powerOff s.board.trip)

/-- OVERCURRENT_TRIP (R460, R505). -/
def execOvercurrentTrip (s : State) : Host.Outcome State Fault Refusal :=
  .next (if s.board.stage = .off then s else s.powerOff (some .overcurrent))

/-- OVERVOLTAGE_SHUTOFF (R503, R505). -/
def execOvervoltageShutoff (s : State) : Host.Outcome State Fault Refusal :=
  .next (if s.board.stage = .off then s else s.powerOff (some .overvoltage))

/-! ### Thermal limits (R467, R529) -/

/-- Sensors of a package (R529). -/
def sensorCount : Nat := 82

/-- The sensors of a sensor's region (R467, R529). -/
def regionOf (n : Nat) : List Nat :=
  if n < 32 then (List.range 8).map (n / 8 * 8 + ·)
  else if n < 40 then [n / 2 * 2, n / 2 * 2 + 1]
  else if n < 44 then [40, 41, 42, 43]
  else [n]

/-- Throttle, emergency and trip limits of a sensor's region in degrees (R467); an optical engine has no throttle. -/
def limitsOf (n : Nat) : Option Nat × Nat × Nat :=
  if n < 44 then (some 95, 105, 115) else if n < 76 then (some 85, 95, 105) else (none, 80, 90)

/-- A sensor's reading. -/
def State.setTemp (s : State) (n celsius : Nat) : State := { s with power := { s.power with temps := put 0 s.power.temps n celsius } }

/-- THERMAL_THROTTLE (R467). -/
def execThermalThrottle (sensor celsius : Nat) (s : State) : Host.Outcome State Fault Refusal :=
  .next (if sensorCount ≤ sensor ∨ s.board.stage ≠ .on then s
    else
      let s1 := s.setTemp sensor celsius
      match (limitsOf sensor).1 with
      | none => s1
      | some l =>
        if celsius < l ∨ (s1.power.throttled.any (regionOf sensor).contains) = true then s1
        else { s1 with power := ({ s1.power with throttled := s1.power.throttled ++ [sensor] } : Power).cuts })

/-- What the begin of a thermal emergency reports (R400, R467, R490, R525). -/
def State.thermalBegin (s : State) (sensor cause : Nat) : State :=
  let s1 : State := { s with time := { s.time with emergency := s.time.emergency ||| causeBit 3 } }
  (((s1.bubbles 0).event 0x07 255 [(16, 1, sensor), (17, 1, 1), (18, 1, cause)]).errorTrigger 11).emit (.i3cInterrupt i3cThermal)

/-- An optical emergency takes the bay's ports down (R467). -/
def State.bayDown (s : State) (bay : Nat) : State :=
  let s1 : State := { s with power := { s.power with hotBays := if s.power.hotBays.contains bay then s.power.hotBays else s.power.hotBays ++ [bay] } }
  (List.range 8).foldl (fun (s : State) j =>
    match (s.port (8 * bay + j)).state with
    | .disabled => s
    | .down => s
    | _ =>
      let had := (s.port (8 * bay + j)).signal
      (s.loseLink (8 * bay + j) .signal).updPort (8 * bay + j) fun p => { p with signal := had }) s1

/-- THERMAL_EMERGENCY (R467). -/
def execThermalEmergency (sensor celsius : Nat) (s : State) : Host.Outcome State Fault Refusal :=
  .next (if sensorCount ≤ sensor ∨ s.board.stage ≠ .on then s
    else
      let s1 := s.setTemp sensor celsius
      if celsius < (limitsOf sensor).2.1 ∨ (s1.power.emergencies.any (regionOf sensor).contains) = true then s1
      else
        let s2 : State := { s1 with power := { s1.power with emergencies := s1.power.emergencies ++ [sensor] } }
        let s3 := s2.thermalBegin sensor 0
        if 76 ≤ sensor then s3.bayDown (sensor - 76) else s3)

/-- THERMAL_TRIP (R467, R505). -/
def execThermalTrip (sensor celsius : Nat) (s : State) : Host.Outcome State Fault Refusal :=
  .next (if sensorCount ≤ sensor ∨ s.board.stage ≠ .on ∨ celsius < (limitsOf sensor).2.2 then s else s.powerOff (some .thermal))

/-- Whether every sensor of a region is more than 5 degrees below a limit (R467). -/
def State.cooled (s : State) (sensor limit : Nat) : Bool := (regionOf sensor).all fun n => decide (look 0 s.power.temps n + 5 < limit)

/-- THERMAL_ACTION_END (R467): the region's throttle, its emergency, or both end. -/
def execThermalActionEnd (sensor celsius : Nat) (s : State) : Host.Outcome State Fault Refusal :=
  .next (if sensorCount ≤ sensor then s
    else
      let s1 := s.setTemp sensor celsius
      let region := regionOf sensor
      let l := limitsOf sensor
      let s2 : State := if s1.cooled sensor (l.1.getD 0) then
          { s1 with power := ({ s1.power with throttled := s1.power.throttled.filter fun x => !region.contains x } : Power).cuts }
        else s1
      if s2.cooled sensor l.2.1 then
        let ended := s2.power.emergencies.filter region.contains
        let s3 : State := { s2 with power := { s2.power with emergencies := s2.power.emergencies.filter fun x => !region.contains x } }
        ended.foldl (fun (s : State) x => s.event 0x07 255 [(16, 1, x), (17, 1, 0), (18, 1, 0)]) (if ended = [] then s3 else s3.bubbles 0)
      else s2)

/-! ### The spread (R468) -/

/-- Every reading of a list. -/
def State.setTemps (s : State) (ts : List (Nat × Nat)) : State :=
  ts.foldl (fun (s : State) t => if t.1 < sensorCount then s.setTemp t.1 t.2 else s) s

/-- Sensors of a die, coded as in R400: 0 to 3 compute, 4 to 7 memory-side, 8 I/O. -/
def dieSensors (d : Nat) : List Nat :=
  if d < 4 then (List.range 8).map (8 * d + ·) else if d < 8 then [24 + 2 * d, 25 + 2 * d] else [40, 41, 42, 43]

/-- The hottest reading of the package, LPDDR6 and optical sensors left out. -/
def State.topTemp (s : State) : Nat := maxOf ((List.range 44).map (look 0 s.power.temps))

/-- The hot dies, each with its hottest sensor, the lowest number on a tie (R468, R529). -/
def State.hotDies (s : State) : List (Nat × Nat) :=
  (List.range 9).filterMap fun d => ((dieSensors d).find? fun n => look 0 s.power.temps n == s.topTemp).map fun n => (d, n)

/-- The dies that hold the hottest sensors enter the spread hold, beside those that are in it already (R468). -/
def State.holdHot (s : State) : State :=
  { s with power := { s.power with spreadHold := (s.power.spreadHold ++ s.hotDies.map (·.1)).eraseDups } }

/-- SPREAD_HOLD_ENTER (R468). -/
def execSpreadHoldEnter (temps : List (Nat × Nat)) (s : State) : Host.Outcome State Fault Refusal :=
  let s1 := s.setTemps temps
  .next (if 16 ≤ s1.spread then s1.holdHot else s1)

/-- SPREAD_EMERGENCY (R468): each hot die enters it and posts its own event. -/
def execSpreadEmergency (temps : List (Nat × Nat)) (s : State) : Host.Outcome State Fault Refusal :=
  let s1 := s.setTemps temps
  .next (if 20 ≤ s1.spread then
      let hot := s1.hotDies.filter fun h => !s1.power.spreadEmergency.contains h.1
      let s2 := s1.holdHot
      hot.foldl (fun (s : State) h => s.thermalBegin h.2 1)
        { s2 with power := { s2.power with spreadEmergency := s2.power.spreadEmergency ++ hot.map (·.1) } }
    else s1)

/-- SPREAD_HOLD_END (R468): below 15 degrees for 1 ms the emergency ends, below 12 the hold. -/
def execSpreadHoldEnd (temps : List (Nat × Nat)) (s : State) : Host.Outcome State Fault Refusal :=
  let s1 := s.setTemps temps
  let s2 : State :=
    if s1.spread < 15 ∧ s1.power.spreadEmergency ≠ [] then
      let t : State := { s1 with power := { s1.power with spreadEmergency := [] } }
      s1.power.spreadEmergency.foldl (fun (s : State) d =>
        let n := ((dieSensors d).foldl (fun m x => if look 0 s.power.temps m < look 0 s.power.temps x then x else m) ((dieSensors d).headD 0))
        s.event 0x07 255 [(16, 1, n), (17, 1, 0), (18, 1, 1)]) (t.bubbles 0)
    else s1
  .next (if s2.spread < 12 then { s2 with power := { s2.power with spreadHold := [] } } else s2)

/-! ### Exits (R475) -/

/-- BOLT_EXIT_COMPLETE (R475): a gated bolt whose exit was begun is ungated; the exit of Rest leaves the module Active until
its next edge. -/
def execBoltExitComplete (bolt : Nat) (s : State) : Host.Outcome State Fault Refusal :=
  .next (if bolt < boltCount then
      if s.power.pstate = .rest then
        (if s.power.restExit.isSome then
          (({ s with power := { s.power with pstate := .active, restExit := none } } : State).updBolt bolt fun b => { b with gate := .none })
        else s)
      else if (s.bolt bolt).exitDone.isSome then s.updBolt bolt fun b => { b with gate := .none } else s
    else s)

end Sys2Proof.Machine
end

