-- ==== Sys2Proof/Machine/Service.lean ====
section
/-! DEFINITION. Errors injected from outside (R477 to R480, R488), the entropy source (R434), the front panel and removal
(R516 to R519), and the ME (R316, R318, R330, R390, R424, R425, R429, R445 to R447, R457, R492, R519, R524, R525). -/
namespace Sys2Proof.Machine
open Sys2Proof

/-! ### Errors and entropy -/

/-- Whether a log SOURCE is one of a class 2 error (R478, R487). -/
def classTwoSource (source : Nat) : Bool := [0x01, 0x02, 0x04, 0x05, 0x06, 0x07, 0x16, 0x21, 0x22].contains source

/-- UNRAVEL (R480): a class 2 error on a die coded as in R400. -/
def execUnravel (die source : Nat) (s : State) : Host.Outcome State Fault Refusal :=
  .next (if s.stitching && decide (die ≤ 8) && classTwoSource source then s.unravelFrom die source (die * 16) 255 else s)

/-- FATAL_ERROR (R478, R488): a class 3 error. -/
def execFatalError (die source : Nat) (s : State) : Host.Outcome State Fault Refusal :=
  .next (if s.meRuns && decide (die ≤ 8) then s.fatal source (die * 16) else s)

/-- ENTROPY_HEALTH_FAIL (R434): logged and counted once; key generation stops. -/
def execEntropyHealthFail (s : State) : Host.Outcome State Fault Refusal :=
  .next (if s.sec.entropyFailing then s
    else ({ s with
      sec := { s.sec with entropyFailing := true }
      rel := { s.rel with entropy := sat32 s.rel.entropy } } : State).logError { cls := 0, source := 0x23, loc := 8 * 16 })

/-- ENTROPY_RECOVERY (R434). -/
def execEntropyRecovery (s : State) : Host.Outcome State Fault Refusal :=
  .next { s with sec := { s.sec with entropyFailing := false } }

/-- DRBG_RESEED (R434). -/
def execDrbgReseed (s : State) : Host.Outcome State Fault Refusal :=
  .next { s with sec := { s.sec with reseeds := s.sec.reseeds + 1 } }

/-! ### Front panel and removal (R516 to R519) -/

/-- FAULT_LED_TIMEOUT (R519). -/
def execFaultLedTimeout (s : State) : Host.Outcome State Fault Refusal :=
  .next { s with board := { s.board with classTwoBlink := false } }

/-- IDENTIFY_TIMEOUT (R519). -/
def execIdentifyTimeout (s : State) : Host.Outcome State Fault Refusal :=
  .next { s with board := { s.board with identify := 0 } }

/-- The removal request moves to a state. -/
def State.setRemoval (s : State) (r : Removal) : State := { s with board := { s.board with removal := r } }

/-! ### LEDs and ATTN_OUT# (R517, R519, R520) -/

/-- What an LED shows (R519, R520). -/
inductive LedPattern where
  | off
  | steady
  /-- equal on and off times: 4 Hz, 1 Hz, 0.5 Hz -/
  | hz4
  | hz1
  | hzHalf
  /-- steady with 100 ms off every 2 s -/
  | winking
  /-- two 100 ms flashes each second -/
  | flashes
  /-- `n` pulses of 200 ms on and 300 ms off, then 2 s off -/
  | pulses (n : Nat)
deriving DecidableEq, Repr

/-- An LED's pattern: none before power good, lit through the lamp test (R507, R519). -/
def State.led (s : State) (p : LedPattern) : LedPattern :=
  if s.board.stage ≠ .on then .off else if s.board.lampTest then .steady else p

/-- POWER (R519); a supply hold shows in Doze and Rest too (log entry 79). -/
def State.powerLed (s : State) : LedPattern :=
  s.led (if s.power.supplyHold then .hz4 else if s.power.pstate = .doze ∨ s.power.pstate = .rest then .hzHalf else .steady)

/-- STATE (R519); off in FAILED, where R519 names no pattern (log entry 79). -/
def State.stateLed (s : State) : LedPattern :=
  s.led (match s.dev.phase with
    | .boot => .off
    | .memTrain => .hz4
    | .seamTrain => .hz1
    | .tickWait => .hzHalf
    | .ready => if s.domain.tick = .holdover ∨ s.domain.tick = .adrift then .winking else .steady
    | .failed => .off)

/-- FAULT (R513, R519, R520): the pulse code of FAIL before every other pattern; thermal actions before the 10 s of a class 2
error (log entry 79). -/
def State.faultLed (s : State) : LedPattern :=
  s.led (if s.dev.phase = .failed then .pulses s.dev.fail.toNat
    else if s.power.emergencies ≠ [] ∨ s.power.spreadEmergency ≠ [] ∨ s.power.spreadHold ≠ [] then .steady
    else if s.board.classTwoBlink then .hz1 else .off)

/-- ATTN (R517, R519): a removal request before identify. -/
def State.attnLed (s : State) : LedPattern :=
  s.led (match s.board.removal with
    | .window => .hz4
    | .preparing => .hz1
    | .safe => .steady
    | .idle => if s.board.identify = 0 then .off else .flashes)

/-- Whether ATTN_OUT# is low (R517). -/
def State.attnOutLow (s : State) : Bool := decide (s.board.removal = .preparing ∨ s.board.removal = .safe)

/-- ATTN_PRESS (R516, R517): a short press lasts from 100 ms to 2 s. -/
def execAttnPress (ms : Nat) (s : State) : Host.Outcome State Fault Refusal :=
  .next (if !s.meRuns || decide (ms < 100 ∨ 2000 < ms) then s
    else match s.board.removal with
    | .idle => s.setRemoval .window
    | .window => (s.setRemoval .idle).emit (.i3cInterrupt i3cCancel)
    | .preparing => s
    | .safe => s)

/-- REMOVAL_WINDOW_EXPIRY (R517, R518): PREPARING and its leave notice; a FAILED module passes on to SAFE at once. -/
def execRemovalWindowExpiry (s : State) : Host.Outcome State Fault Refusal :=
  .next (if s.board.removal ≠ .window then s
    else
      let s1 := ({ s with board := { s.board with removal := .preparing, leaveAcked := false } } : State).emit (.i3cInterrupt i3cRequest)
      if s.dev.phase = .failed then (s1.setRemoval .safe).emit (.i3cInterrupt i3cSafe)
      else if s.hasManager && !s.isManager then s1.emit (.channel0 .leaveNotice)
      else s1)

/-- Whether the module sources an ingest, a base distribution or a refetch (R518). -/
def State.sourcing (s : State) : Bool :=
  (List.range 4).any fun n => decide ((s.slot n).state = .loading ∨ (s.slot n).refetch ≠ [])

/-- REMOVAL_SAFE (R518). -/
def execRemovalSafe (s : State) : Host.Outcome State Fault Refusal :=
  .next (if s.board.removal = .preparing ∧ s.session = none ∧
      (s.board.leaveAcked || !s.hasManager || s.isManager) = true ∧ s.sourcing = false then
      (s.setRemoval .safe).emit (.i3cInterrupt i3cSafe)
    else s)

/-! ### Unsigned traffic of the ME (R445, R447, R524, R525) -/

/-- ANCHOR_INSTALL (R445): when none is held. -/
def execAnchorInstall (key : Nat) (s : State) : Host.Outcome State Fault Refusal :=
  .next (if !s.meRuns then s
    else if s.store.anchor.isNone then ({ s with store := { s.store with anchor := some key } } : State).mgmtReply true []
    else s.mgmtReply false [])

/-- REQUEST of the status read (R525). -/
def removalCode : Removal → Nat
  | .idle => 0 | .window => 1 | .preparing => 2 | .safe => 3

/-- Mean input power of the last stitch in watts (R525). -/
def State.lastInputW (s : State) : Nat := match s.power.records.getLast? with | some r => r.inputW | none => 0

/-- I3C_STATUS_READ (R525): 16 bytes. HOT covers every sensor of the package. -/
def execI3cStatusRead (s : State) : Host.Outcome State Fault Refusal :=
  .next (if s.meRuns then
      s.emit (.i3cData (leBytes 4 s.devState ++ leBytes 1 (removalCode s.board.removal) ++ leBytes 1 (s.hottest (List.range sensorCount)) ++
        leBytes 2 s.lastInputW ++ leBytes 2 s.board.vinMv ++ zeros 6))
    else s)

/-- I3C_IDENTITY_READ (R525): DEV_ID, DEV_REV, serial number. -/
def execI3cIdentityRead (s : State) : Host.Outcome State Fault Refusal :=
  .next (if s.meRuns then s.emit (.i3cData (leBytes 4 (s.reg32 0 0) ++ leBytes 4 (s.reg32 0 4) ++ leBytes 8 s.store.serial.toNat)) else s)

/-- MGMT_NETWORK_FRAME (R524): ARP, NDP and echo are answered; every other frame is dropped (a signed operation on UDP port
7422 is a command of its own). -/
def execMgmtNetworkFrame (frame : NetFrame) (s : State) : Host.Outcome State Fault Refusal :=
  .next (if !s.meRuns then s
    else match frame with
    | .arp => s.emit (.netReply .arp)
    | .ndp => s.emit (.netReply .ndp)
    | .echo => s.emit (.netReply .echo)
    | .udp _ => s
    | .other => s)

/-! ### Signed operations -/

/-- An operation that succeeds or is refused on its contents. -/
def State.mgmtCheck (s : State) (m : MgmtHdr) (ok : State → Bool) (k : State → State) : State :=
  s.mgmt m false fun s => if ok s then (k s).mgmtReply true [] else s.mgmtReply false []

/-- Whether a profile's role suits its place (R315): index 0 alone is a manager, that of domain 0 alone the top manager. -/
def profileFits (p : Profile) : Bool :=
  match p.role with
  | .manager => decide (p.index = 0)
  | .topManager => decide (p.index = 0 ∧ p.domain = 0)
  | _ => decide (p.index ≠ 0)

/-- MGMT_SET_PROFILE (R316): used from the next module reset on; a role that R315 gives no such module is refused. -/
def execMgmtSetProfile (m : MgmtHdr) (index : Nat) (profile : Option Profile) (s : State) : Host.Outcome State Fault Refusal :=
  .next (s.mgmtCheck m (fun _ => decide (index < 16) && (match profile with | some p => profileFits p | none => true)) fun s =>
    { s with store := { s.store with profiles := put none s.store.profiles index profile } })

/-- The profile in use takes the roster that the ME received (R511). -/
def State.storeRoster (s : State) (gen : Nat) (roster : List RosterEntry) : State :=
  let i := s.board.domainSel.toNat
  match look none s.store.profiles i with
  | some p => { s with store := { s.store with profiles := put none s.store.profiles i (some { p with rosterGen := gen, roster := roster }) } }
  | none => s

/-- MGMT_ROSTER (R318): the manager's new roster, sent to every member with its entries under the next generation. -/
def execMgmtRoster (m : MgmtHdr) (roster : List RosterEntry) (s : State) : Host.Outcome State Fault Refusal :=
  .next (s.mgmtCheck m (fun _ => true) fun s =>
    let gen := (s.domain.rosterGen + 1) % 2 ^ 32
    let s1 := s.storeRoster gen roster
    if s.isManager then (s1.takeRoster gen roster).emit (.channel0 (.roster gen roster)) else s1)

/-- MGMT_ROLE_MOVE (R330): the role moves at a named edge. -/
def execMgmtRoleMove (m : MgmtHdr) (edge : Nat) (s : State) : Host.Outcome State Fault Refusal :=
  .next (s.mgmtCheck m (fun s => decide (s.time.stitch.toNat < edge) && (s.isManager || decide (s.domain.role = .standby))) fun s =>
    { s with domain := { s.domain with roleMove := some edge } })

/-- MGMT_DOMAIN_KILL (R47, R390): a collective is killed on every member; one whose commit has begun keeps its status. -/
def execMgmtDomainKill (m : MgmtHdr) (coll : BitVec 16) (s : State) : Host.Outcome State Fault Refusal :=
  .next (s.domainOp m fun s => (s.squashed ⟨some coll, 0, 0, false⟩ 0x23, true))

/-- MGMT_PORT_DISABLE (R271). -/
def execMgmtPortDisable (m : MgmtHdr) (port : Nat) (s : State) : Host.Outcome State Fault Refusal :=
  .next (s.mgmtCheck m (fun _ => decide (port < portCount)) fun s =>
    let was := (s.port port).state
    let s1 := s.updPort port fun p => { p with state := .disabled }
    if was = .up then s1.replan s.domain.node port else s1)

/-- MGMT_FW_WRITE (R424, R514): the writer lock goes to the ME; the other holder's lock refuses it. -/
def execMgmtFwWrite (m : MgmtHdr) (offset : Nat) (data : List Byte) (s : State) : Host.Outcome State Fault Refusal :=
  .next (s.mgmt m true fun s =>
    if offset + data.length ≤ slotBytes ∧ s.dev.writerLock ≠ some .host then
      (({ s with dev := { s.dev with writerLock := some .me } } : State).writeSlot offset data).mgmtReply true []
    else s.mgmtReply false [])

/-- MGMT_SVN_RAISE (R425): at most the running slot's SVN, and never down. -/
def execMgmtSvnRaise (m : MgmtHdr) (svn : Nat) (s : State) : Host.Outcome State Fault Refusal :=
  .next (s.mgmtCheck m (fun s => match s.dev.fw with | some f => decide (svn ≤ f.svn ∧ svn ≤ 63) | none => false) fun s =>
    { s with store := { s.store with svnMin := max s.store.svnMin svn } })

/-- Lower-tree leaves kept for sessions (R428). -/
def quoteReserve : Nat := 64

/-- What a quote carries (R429). -/
def State.quoteOf (s : State) (nonce : List Byte) (fw : FwBundle) : SignedDoc :=
  .quote nonce s.dev.bootId fw.measure s.time.stitch s.domain.node s.domain.role s.domain.rosterGen (s.session.map (·.ek))

/-- The ME answers with a signed document; the signature is a free value (log entry 20). -/
def State.signedReply (s : State) (d : SignedDoc) : State :=
  let f := s.fresh
  (f.2.emit (.signed d (Config.signature f.1))).mgmtReply true []

/-- MGMT_QUOTE (R428, R429): a quote spends a leaf; refused when fewer than 64 remain. -/
def execMgmtQuote (m : MgmtHdr) (nonce : List Byte) (s : State) : Host.Outcome State Fault Refusal :=
  .next (s.mgmt m false fun s =>
    match s.dev.fw with
    | none => s.mgmtReply false []
    | some fw =>
      if nonce.length = 32 ∧ s.dev.lowerLeaf + quoteReserve ≤ 1024 then
        ({ s with dev := { s.dev with lowerLeaf := s.dev.lowerLeaf + 1 } } : State).signedReply (s.quoteOf nonce fw)
      else s.mgmtReply false [])

/-- A certificate: 0 device, 1 boot, 2 session; none where there is none (R426 to R428). -/
def State.certificate (s : State) (which : Nat) : Option SignedDoc :=
  match which, s.dev.fw, s.session with
  | 0, _, _ => some (.device s.store.serial s.store.part)
  | 1, some f, _ => if s.dev.bootCert then some (.boot s.dev.bootId f.measure f.svn s.dev.fwSlot (s.store.topLeaf - 1)) else none
  | 2, _, some x => some (.session s.dev.bootId x.number x.major x.ek)
  | _, _, _ => none

/-- MGMT_CERTIFICATE (R429). -/
def execMgmtCertificate (m : MgmtHdr) (which : Nat) (s : State) : Host.Outcome State Fault Refusal :=
  .next (s.mgmt m false fun s => match s.certificate which with
    | some d => s.signedReply d
    | none => s.mgmtReply false [])

/-- MGMT_DOMAIN_SNAPSHOT (R447, R492). -/
def execMgmtDomainSnapshot (m : MgmtHdr) (snapId : BitVec 16) (target offset : Nat) (s : State) :
    Host.Outcome State Fault Refusal :=
  .next (s.mgmtCheck m (fun s => s.isManager && decide (s.time.stitch.toNat + 2 ≤ target ∧ offset < snapUnits s.time.len)) fun s =>
    s.sendTrigger snapId target offset)

/-- Whether a list names each of the three classes once (R458). -/
def classOrder (order : List Nat) : Bool := decide (order.length = 3) && [0, 1, 2].all order.contains

/-- MGMT_SET_CAP (R457): from the next edge on; refused when the compute part would not cover every POWER_W. -/
def execMgmtSetCap (m : MgmtHdr) (watts : Nat) (order : List Nat) (s : State) : Host.Outcome State Fault Refusal :=
  .next (s.mgmtCheck m (fun s => decide (600 ≤ watts ∧ watts ≤ 1200) && classOrder order &&
      decide (1000 * sumOf (s.sleeves.map (·.power)) ≤ s.computePart watts order)) fun s =>
    { s with power := { s.power with capNext := some (watts, order) } })

/-- MGMT_RESET (R505, R514). -/
def execMgmtReset (m : MgmtHdr) (s : State) : Host.Outcome State Fault Refusal :=
  .next (s.mgmt m true fun s => (s.mgmtReply true []).moduleReset s.board.stage s.board.trip)

/-- MGMT_IDENTIFY (R519). -/
def execMgmtIdentify (m : MgmtHdr) (seconds : Nat) (s : State) : Host.Outcome State Fault Refusal :=
  .next (s.mgmtCheck m (fun _ => decide (1 ≤ seconds ∧ seconds ≤ 255)) fun s => { s with board := { s.board with identify := seconds } })

/-- MGMT_ANCHOR_REPLACE (R445). -/
def execMgmtAnchorReplace (m : MgmtHdr) (key : Nat) (s : State) : Host.Outcome State Fault Refusal :=
  .next (s.mgmtCheck m (fun _ => true) fun s => { s with store := { s.store with anchor := some key } })

/-- MGMT_DECOMMISSION (R445). -/
def execMgmtDecommission (m : MgmtHdr) (s : State) : Host.Outcome State Fault Refusal :=
  .next (s.mgmtCheck m (fun _ => true) fun s => { s with store := { s.store with anchor := none } })

/-- MGMT_REMOVAL_CANCEL (R517). -/
def execMgmtRemovalCancel (m : MgmtHdr) (s : State) : Host.Outcome State Fault Refusal :=
  .next (s.mgmtCheck m (fun s => s.leaving) fun s => s.setRemoval .idle)

/-- MGMT_SET_SGMII (R524). -/
def execMgmtSetSgmii (m : MgmtHdr) (s : State) : Host.Outcome State Fault Refusal :=
  .next (s.mgmtCheck m (fun _ => true) fun s => { s with board := { s.board with sgmii := true } })

end Sys2Proof.Machine
end

