-- ==== Sys2Proof/Machine/Dispatch.lean ====
section
/-! DEFINITION. One arm for each command: a direct call of its meaning, or a rejection by name. -/
namespace Sys2Proof.Machine
open Host

/-- The effect of a command on everything but the queue. -/
def exec (i : Instr) (s : State) : Host.Outcome State Fault Refusal :=
  match i with
  | .sqDoorbell page width value => Sys2Proof.Machine.execSqDoorbell page width value s
  | .shadowLowWordRead bar off width => Sys2Proof.Machine.execShadowLowWordRead bar off width s
  | .registerWrite bar off width value => Sys2Proof.Machine.execRegisterWrite bar off width value s
  | .evqEnable value => Sys2Proof.Machine.execEvqEnable value s
  | .snapshotRelease value => Sys2Proof.Machine.execSnapshotRelease value s
  | .msixUnmask vector => Sys2Proof.Machine.execMsixUnmask vector s
  | .openSession h major pasid => Sys2Proof.Machine.execOpenSession h major pasid s
  | .closeSession h => Sys2Proof.Machine.execCloseSession h s
  | .createSleeve h bolts memGib cxl seam power => Sys2Proof.Machine.execCreateSleeve h bolts memGib cxl seam power s
  | .destroySleeve h => Sys2Proof.Machine.execDestroySleeve h s
  | .resetSleeve h => Sys2Proof.Machine.execResetSleeve h s
  | .bindPasid h pasid => Sys2Proof.Machine.execBindPasid h pasid s
  | .unbindPasid h pasid => Sys2Proof.Machine.execUnbindPasid h pasid s
  | .createCq h cq vector pasid base slots head => Sys2Proof.Machine.execCreateCq h cq vector pasid base slots head s
  | .createSq h queue cq seq0 pasid base slots => Sys2Proof.Machine.execCreateSq h queue cq seq0 pasid base slots s
  | .deleteQueue h isCq number => Sys2Proof.Machine.execDeleteQueue h isCq number s
  | .restartSq h queue seq0 ci => Sys2Proof.Machine.execRestartSq h queue seq0 ci s
  | .kemGet h => Sys2Proof.Machine.execKemGet h s
  | .keyEstablish h kind ciphertext => Sys2Proof.Machine.execKeyEstablish h kind ciphertext s
  | .fwWrite h offset data => Sys2Proof.Machine.execFwWrite h offset data s
  | .fwActivate h verdict => Sys2Proof.Machine.execFwActivate h verdict s
  | .descriptorRead o queue bytes aux => Sys2Proof.Machine.execDescriptorRead o queue bytes aux s
  | .descriptorReread o queue bytes aux => Sys2Proof.Machine.execDescriptorReread o queue bytes aux s
  | .run h args => Sys2Proof.Machine.execRun h args s
  | .update h block patches => Sys2Proof.Machine.execUpdate h block patches s
  | .kill h target => Sys2Proof.Machine.execKill h target s
  | .fence h => Sys2Proof.Machine.execFence h s
  | .regTenant h tenant key => Sys2Proof.Machine.execRegTenant h tenant key s
  | .deregTenant h tenant => Sys2Proof.Machine.execDeregTenant h tenant s
  | .regPatch h desc image => Sys2Proof.Machine.execRegPatch h desc image s
  | .deregPatch h patch => Sys2Proof.Machine.execDeregPatch h patch s
  | .exportPatch h patch dest destLen => Sys2Proof.Machine.execExportPatch h patch dest destLen s
  | .loadPattern h image imageLen => Sys2Proof.Machine.execLoadPattern h image imageLen s
  | .freePattern h handle => Sys2Proof.Machine.execFreePattern h handle s
  | .setRecipe h cls kind entry => Sys2Proof.Machine.execSetRecipe h cls kind entry s
  | .configStack h bolt lane size => Sys2Proof.Machine.execConfigStack h bolt lane size s
  | .map h base len page writable node => Sys2Proof.Machine.execMap h base len page writable node s
  | .unmap h base len => Sys2Proof.Machine.execUnmap h base len s
  | .setWindow h window r w pasid base len => Sys2Proof.Machine.execSetWindow h window r w pasid base len s
  | .clearWindow h window => Sys2Proof.Machine.execClearWindow h window s
  | .createGroup h block => Sys2Proof.Machine.execCreateGroup h block s
  | .destroyGroup h group => Sys2Proof.Machine.execDestroyGroup h group s
  | .snapshot h snapId target offset => Sys2Proof.Machine.execSnapshot h snapId target offset s
  | .snapshotDomain h snapId target offset => Sys2Proof.Machine.execSnapshotDomain h snapId target offset s
  | .telemetryLink h dest destLen => Sys2Proof.Machine.execTelemetryLink h dest destLen s
  | .telemetryDomain h dest destLen => Sys2Proof.Machine.execTelemetryDomain h dest destLen s
  | .telemetrySlowdown h dest destLen => Sys2Proof.Machine.execTelemetrySlowdown h dest destLen s
  | .telemetryErrorLog h dest destLen => Sys2Proof.Machine.execTelemetryErrorLog h dest destLen s
  | .telemetryPower h dest destLen => Sys2Proof.Machine.execTelemetryPower h dest destLen s
  | .setStitch h code => Sys2Proof.Machine.execSetStitch h code s
  | .setFloor h floor => Sys2Proof.Machine.execSetFloor h floor s
  | .openIngest h pasid base len => Sys2Proof.Machine.execOpenIngest h pasid base len s
  | .stitchEdge => Sys2Proof.Machine.execStitchEdge s
  | .hemStart => Sys2Proof.Machine.execHemStart s
  | .hostWriteGo => Sys2Proof.Machine.execHostWriteGo s
  | .hostWriteGoErr => Sys2Proof.Machine.execHostWriteGoErr s
  | .matrixPlain bolt => Sys2Proof.Machine.execMatrixPlain bolt s
  | .matrixBackward bolt => Sys2Proof.Machine.execMatrixBackward bolt s
  | .matrixConvolution bolt => Sys2Proof.Machine.execMatrixConvolution bolt s
  | .railForward bolt => Sys2Proof.Machine.execRailForward bolt s
  | .railBackward bolt => Sys2Proof.Machine.execRailBackward bolt s
  | .vectorCopy bolt => Sys2Proof.Machine.execVectorCopy bolt s
  | .vectorAdd bolt => Sys2Proof.Machine.execVectorAdd bolt s
  | .vectorSubtract bolt => Sys2Proof.Machine.execVectorSubtract bolt s
  | .vectorMultiply bolt => Sys2Proof.Machine.execVectorMultiply bolt s
  | .vectorFma bolt => Sys2Proof.Machine.execVectorFma bolt s
  | .vectorMinimum bolt => Sys2Proof.Machine.execVectorMinimum bolt s
  | .vectorMaximum bolt => Sys2Proof.Machine.execVectorMaximum bolt s
  | .vectorAbsoluteValue bolt => Sys2Proof.Machine.execVectorAbsoluteValue bolt s
  | .vectorNegate bolt => Sys2Proof.Machine.execVectorNegate bolt s
  | .vectorLessThan bolt => Sys2Proof.Machine.execVectorLessThan bolt s
  | .vectorEqual bolt => Sys2Proof.Machine.execVectorEqual bolt s
  | .vectorReciprocal bolt => Sys2Proof.Machine.execVectorReciprocal bolt s
  | .vectorSquareRoot bolt => Sys2Proof.Machine.execVectorSquareRoot bolt s
  | .vectorReciprocalSquareRoot bolt => Sys2Proof.Machine.execVectorReciprocalSquareRoot bolt s
  | .vectorExp2 bolt => Sys2Proof.Machine.execVectorExp2 bolt s
  | .vectorLog2 bolt => Sys2Proof.Machine.execVectorLog2 bolt s
  | .vectorExp bolt => Sys2Proof.Machine.execVectorExp bolt s
  | .vectorNaturalLog bolt => Sys2Proof.Machine.execVectorNaturalLog bolt s
  | .vectorTanh bolt => Sys2Proof.Machine.execVectorTanh bolt s
  | .vectorSigmoid bolt => Sys2Proof.Machine.execVectorSigmoid bolt s
  | .vectorGelu bolt => Sys2Proof.Machine.execVectorGelu bolt s
  | .vectorSilu bolt => Sys2Proof.Machine.execVectorSilu bolt s
  | .vectorDivision bolt => Sys2Proof.Machine.execVectorDivision bolt s
  | .vectorRowSum bolt => Sys2Proof.Machine.execVectorRowSum bolt s
  | .vectorRowMaximum bolt => Sys2Proof.Machine.execVectorRowMaximum bolt s
  | .twoPlyAdd bolt => Sys2Proof.Machine.execTwoPlyAdd bolt s
  | .rotate bolt => Sys2Proof.Machine.execRotate bolt s
  | .streamLoad bolt host => Sys2Proof.Machine.execStreamLoad bolt host s
  | .streamStore bolt => Sys2Proof.Machine.execStreamStore bolt s
  | .streamTload bolt => Sys2Proof.Machine.execStreamTload bolt s
  | .stackPush bolt => Sys2Proof.Machine.execStackPush bolt s
  | .stackPop bolt => Sys2Proof.Machine.execStackPop bolt s
  | .stackPushT bolt => Sys2Proof.Machine.execStackPushT bolt s
  | .stackPopT bolt => Sys2Proof.Machine.execStackPopT bolt s
  | .stat bolt => Sys2Proof.Machine.execStat bolt s
  | .reduceGradient bolt => Sys2Proof.Machine.execReduceGradient bolt s
  | .reduceTensor bolt => Sys2Proof.Machine.execReduceTensor bolt s
  | .barrierBolts bolt => Sys2Proof.Machine.execBarrierBolts bolt s
  | .barrierCollective bolt => Sys2Proof.Machine.execBarrierCollective bolt s
  | .wait bolt => Sys2Proof.Machine.execWait bolt s
  | .drain bolt => Sys2Proof.Machine.execDrain bolt s
  | .snap bolt => Sys2Proof.Machine.execSnap bolt s
  | .loop bolt => Sys2Proof.Machine.execLoop bolt s
  | .branchAlways bolt => Sys2Proof.Machine.execBranchAlways bolt s
  | .branchEq bolt => Sys2Proof.Machine.execBranchEq bolt s
  | .branchNe bolt => Sys2Proof.Machine.execBranchNe bolt s
  | .branchLt bolt => Sys2Proof.Machine.execBranchLt bolt s
  | .branchGe bolt => Sys2Proof.Machine.execBranchGe bolt s
  | .branchLast bolt => Sys2Proof.Machine.execBranchLast bolt s
  | .branchEnd bolt => Sys2Proof.Machine.execBranchEnd bolt s
  | .primitiveComplete bolt unit => Sys2Proof.Machine.execPrimitiveComplete bolt unit s
  | .waitRelease bolt => Sys2Proof.Machine.execWaitRelease bolt s
  | .barrierRelease bolt => Sys2Proof.Machine.execBarrierRelease bolt s
  | .beadMeterOverrun bolt => Sys2Proof.Machine.execBeadMeterOverrun bolt s
  | .matrixUnitCold bolt array => Sys2Proof.Machine.execMatrixUnitCold bolt array s
  | .keeperStallTimeout bolt array => Sys2Proof.Machine.execKeeperStallTimeout bolt array s
  | .boltStartSlot bolt => Sys2Proof.Machine.execBoltStartSlot bolt s
  | .pocketFill bolt patch layer => Sys2Proof.Machine.execPocketFill bolt patch layer s
  | .droopDetect bolt stretch => Sys2Proof.Machine.execDroopDetect bolt stretch s
  | .droopRecover bolt => Sys2Proof.Machine.execDroopRecover bolt s
  | .droopSlackExhausted bolt => Sys2Proof.Machine.execDroopSlackExhausted bolt s
  | .lineUncorrectable holds die integrity => Sys2Proof.Machine.execLineUncorrectable holds die integrity s
  | .pageRetire area dva => Sys2Proof.Machine.execPageRetire area dva s
  | .patrolScrub corrected => Sys2Proof.Machine.execPatrolScrub corrected s
  | .lineSettle area line => Sys2Proof.Machine.execLineSettle area line s
  | .translationWalk bolt dva => Sys2Proof.Machine.execTranslationWalk bolt dva s
  | .basePageRefetch slot page data => Sys2Proof.Machine.execBasePageRefetch slot page data s
  | .hostReadPoison bolt addr => Sys2Proof.Machine.execHostReadPoison bolt addr s
  | .hostTranslationFault bolt addr => Sys2Proof.Machine.execHostTranslationFault bolt addr s
  | .atsTranslationCompletion pasid page size r w phys => Sys2Proof.Machine.execAtsTranslationCompletion pasid page size r w phys s
  | .atsInvalidation pasid page size => Sys2Proof.Machine.execAtsInvalidation pasid page size s
  | .pageRequestResponse group success => Sys2Proof.Machine.execPageRequestResponse group success s
  | .pageRequestTimeout group => Sys2Proof.Machine.execPageRequestTimeout group s
  | .snoop kind line => Sys2Proof.Machine.execSnoop kind line s
  | .linkRecoveryEnter => Sys2Proof.Machine.execLinkRecoveryEnter s
  | .linkL0Return width rate => Sys2Proof.Machine.execLinkL0Return width rate s
  | .d3hotEnter => Sys2Proof.Machine.execD3hotEnter s
  | .d0Return => Sys2Proof.Machine.execD0Return s
  | .conventionalHostReset cause => Sys2Proof.Machine.execConventionalHostReset cause s
  | .teardownDone => Sys2Proof.Machine.execTeardownDone s
  | .cqHeadPoll o cq head => Sys2Proof.Machine.execCqHeadPoll o cq head s
  | .portSignalDetect port => Sys2Proof.Machine.execPortSignalDetect port s
  | .portTrainingComplete port res => Sys2Proof.Machine.execPortTrainingComplete port res s
  | .portTrainingRetry port => Sys2Proof.Machine.execPortTrainingRetry port s
  | .portDown port cause => Sys2Proof.Machine.execPortDown port cause s
  | .flitData port header payload crc fec => Sys2Proof.Machine.execFlitData port header payload crc fec s
  | .flitIdle port flit => Sys2Proof.Machine.execFlitIdle port flit s
  | .flitLink port flit credits nak => Sys2Proof.Machine.execFlitLink port flit credits nak s
  | .segmentReceive port seg tagOk => Sys2Proof.Machine.execSegmentReceive port seg tagOk s
  | .edgeWord port word phaseErr => Sys2Proof.Machine.execEdgeWord port word phaseErr s
  | .edgeMissed => Sys2Proof.Machine.execEdgeMissed s
  | .adrift => Sys2Proof.Machine.execAdrift s
  | .tickRttMeasure port rtt => Sys2Proof.Machine.execTickRttMeasure port rtt s
  | .barrierArrive port word => Sys2Proof.Machine.execBarrierArrive port word s
  | .barrierReleaseWord word => Sys2Proof.Machine.execBarrierReleaseWord word s
  | .decideRelease word => Sys2Proof.Machine.execDecideRelease word s
  | .decideAbort word => Sys2Proof.Machine.execDecideAbort word s
  | .triggerWord word => Sys2Proof.Machine.execTriggerWord word s
  | .snapshotTimedTrigger => Sys2Proof.Machine.execSnapshotTimedTrigger s
  | .rosterUpdate gen roster => Sys2Proof.Machine.execRosterUpdate gen roster s
  | .collectiveCandidates node membership seqNo stitches arrivals => Sys2Proof.Machine.execCollectiveCandidates node membership seqNo stitches arrivals s
  | .collectivePlacement membership seqNo coll outcome status => Sys2Proof.Machine.execCollectivePlacement membership seqNo coll outcome status s
  | .portLossReport node port => Sys2Proof.Machine.execPortLossReport node port s
  | .unravelReport node => Sys2Proof.Machine.execUnravelReport node s
  | .arrivalMismatchReport node coll => Sys2Proof.Machine.execArrivalMismatchReport node coll s
  | .leaveNotice node => Sys2Proof.Machine.execLeaveNotice node s
  | .leaveAck => Sys2Proof.Machine.execLeaveAck s
  | .latencyRequirement us => Sys2Proof.Machine.execLatencyRequirement us s
  | .standbyMirror mirror => Sys2Proof.Machine.execStandbyMirror mirror s
  | .keyDelivery handle kind material => Sys2Proof.Machine.execKeyDelivery handle kind material s
  | .stitchLengthAnnounce stitch code => Sys2Proof.Machine.execStitchLengthAnnounce stitch code s
  | .moduleJoinReport node => Sys2Proof.Machine.execModuleJoinReport node s
  | .tickParentAssign node => Sys2Proof.Machine.execTickParentAssign node s
  | .managerTakeover => Sys2Proof.Machine.execManagerTakeover s
  | .reductionBlockArrive group index block => Sys2Proof.Machine.execReductionBlockArrive group index block s
  | .reductionPassEnd group => Sys2Proof.Machine.execReductionPassEnd group s
  | .baseChunkReceive slot index host plain => Sys2Proof.Machine.execBaseChunkReceive slot index host plain s
  | .baseLoadReport node handle => Sys2Proof.Machine.execBaseLoadReport node handle s
  | .modEnRise lowMs inputMv => Sys2Proof.Machine.execModEnRise lowMs inputMv s
  | .powerGood mgrEn domainSel bootSlot => Sys2Proof.Machine.execPowerGood mgrEn domainSel bootSlot s
  | .lampTestEnd => Sys2Proof.Machine.execLampTestEnd s
  | .firmwareVerified slotA slotB selfTestOk => Sys2Proof.Machine.execFirmwareVerified slotA slotB selfTestOk s
  | .perstDeassert => Sys2Proof.Machine.execPerstDeassert s
  | .cxlIoReady cache width rate => Sys2Proof.Machine.execCxlIoReady cache width rate s
  | .memTrainComplete res => Sys2Proof.Machine.execMemTrainComplete res s
  | .seamTrainEnd => Sys2Proof.Machine.execSeamTrainEnd s
  | .modEnFall => Sys2Proof.Machine.execModEnFall s
  | .mrstAssert => Sys2Proof.Machine.execMrstAssert s
  | .mrstRelease => Sys2Proof.Machine.execMrstRelease s
  | .powerSample p => Sys2Proof.Machine.execPowerSample p s
  | .supplyWarning inputMv => Sys2Proof.Machine.execSupplyWarning inputMv s
  | .supplyRecovery => Sys2Proof.Machine.execSupplyRecovery s
  | .inputReset => Sys2Proof.Machine.execInputReset s
  | .overcurrentTrip => Sys2Proof.Machine.execOvercurrentTrip s
  | .overvoltageShutoff => Sys2Proof.Machine.execOvervoltageShutoff s
  | .thermalThrottle sensor celsius => Sys2Proof.Machine.execThermalThrottle sensor celsius s
  | .thermalEmergency sensor celsius => Sys2Proof.Machine.execThermalEmergency sensor celsius s
  | .thermalTrip sensor celsius => Sys2Proof.Machine.execThermalTrip sensor celsius s
  | .thermalActionEnd sensor celsius => Sys2Proof.Machine.execThermalActionEnd sensor celsius s
  | .spreadHoldEnter temps => Sys2Proof.Machine.execSpreadHoldEnter temps s
  | .spreadEmergency temps => Sys2Proof.Machine.execSpreadEmergency temps s
  | .spreadHoldEnd temps => Sys2Proof.Machine.execSpreadHoldEnd temps s
  | .boltExitComplete bolt => Sys2Proof.Machine.execBoltExitComplete bolt s
  | .unravel die source => Sys2Proof.Machine.execUnravel die source s
  | .fatalError die source => Sys2Proof.Machine.execFatalError die source s
  | .entropyHealthFail => Sys2Proof.Machine.execEntropyHealthFail s
  | .entropyRecovery => Sys2Proof.Machine.execEntropyRecovery s
  | .drbgReseed => Sys2Proof.Machine.execDrbgReseed s
  | .faultLedTimeout => Sys2Proof.Machine.execFaultLedTimeout s
  | .identifyTimeout => Sys2Proof.Machine.execIdentifyTimeout s
  | .attnPress ms => Sys2Proof.Machine.execAttnPress ms s
  | .removalWindowExpiry => Sys2Proof.Machine.execRemovalWindowExpiry s
  | .removalSafe => Sys2Proof.Machine.execRemovalSafe s
  | .anchorInstall key => Sys2Proof.Machine.execAnchorInstall key s
  | .i3cStatusRead => Sys2Proof.Machine.execI3cStatusRead s
  | .i3cIdentityRead => Sys2Proof.Machine.execI3cIdentityRead s
  | .mgmtNetworkFrame frame => Sys2Proof.Machine.execMgmtNetworkFrame frame s
  | .mgmtSetProfile m index profile => Sys2Proof.Machine.execMgmtSetProfile m index profile s
  | .mgmtRoster m roster => Sys2Proof.Machine.execMgmtRoster m roster s
  | .mgmtRoleMove m edge => Sys2Proof.Machine.execMgmtRoleMove m edge s
  | .baseLoad m header layers seeds members jobKey slot lackPages assigned => Sys2Proof.Machine.execBaseLoad m header layers seeds members jobKey slot lackPages assigned s
  | .baseSwitch m name handle stitch => Sys2Proof.Machine.execBaseSwitch m name handle stitch s
  | .baseRetire m op => Sys2Proof.Machine.execBaseRetire m op s
  | .mgmtDomainKill m coll => Sys2Proof.Machine.execMgmtDomainKill m coll s
  | .mgmtPortDisable m port => Sys2Proof.Machine.execMgmtPortDisable m port s
  | .mgmtFwWrite m offset data => Sys2Proof.Machine.execMgmtFwWrite m offset data s
  | .mgmtSvnRaise m svn => Sys2Proof.Machine.execMgmtSvnRaise m svn s
  | .mgmtQuote m nonce => Sys2Proof.Machine.execMgmtQuote m nonce s
  | .mgmtCertificate m which => Sys2Proof.Machine.execMgmtCertificate m which s
  | .mgmtDomainSnapshot m snapId target offset => Sys2Proof.Machine.execMgmtDomainSnapshot m snapId target offset s
  | .mgmtSetCap m watts order => Sys2Proof.Machine.execMgmtSetCap m watts order s
  | .mgmtReset m => Sys2Proof.Machine.execMgmtReset m s
  | .mgmtIdentify m seconds => Sys2Proof.Machine.execMgmtIdentify m seconds s
  | .mgmtAnchorReplace m key => Sys2Proof.Machine.execMgmtAnchorReplace m key s
  | .mgmtDecommission m => Sys2Proof.Machine.execMgmtDecommission m s
  | .mgmtRemovalCancel m => Sys2Proof.Machine.execMgmtRemovalCancel m s
  | .mgmtSetSgmii m => Sys2Proof.Machine.execMgmtSetSgmii m s
  | .tickWordCorrupted port => Sys2Proof.Machine.execTickWordCorrupted port s
  | .opticalEngineBelowRetrainLimit bay => Sys2Proof.Machine.execOpticalEngineBelowRetrainLimit bay s
  | .groupBlockPresented node block => Sys2Proof.Machine.execGroupBlockPresented node block s
  | .collectiveSquashNotice node coll => Sys2Proof.Machine.execCollectiveSquashNotice node coll s

end Sys2Proof.Machine
end

