-- ==== Sys2Proof/Safety.lean ====
section
/-! DEFINITION. What counts as a safe run, and the terms that statements about the block use: completing, issuing, frames,
the invariant that every step keeps, and what survives every command. -/
namespace Sys2Proof.Machine
open Sys2Proof

/-- A safe run of `k` steps: no step stops with a fault or a refusal. -/
def SafeFor (k : Nat) (s : State) : Prop := ∃ t, Host.Core.run Sys2Proof.core k s = .next t

/-- Command `i` at `s` answers a next state of which `P` holds. -/
def Completes (i : Instr) (s : State) (P : State → Prop) : Prop := ∃ t, exec i s = .next t ∧ P t

/-- Bolt `b`, in state `B` and running `r`, may issue the word `w` now, and `w` has class `cls` and operation `op`
(R206, R221). -/
def Issues (s : State) (b : Nat) (B : Bolt) (r : Run) (w : PWord) (cls op : Nat) : Prop :=
  s.issuable b = some (B, r, w) ∧ (wordHdr w).cls = cls ∧ (wordHdr w).op = op

/-- Nothing changes but bolts, and of those only `b`. -/
def OnlyBolt (b : Nat) (s t : State) : Prop := t = { s with bolts := t.bolts } ∧ ∀ x, x ≠ b → t.bolt x = s.bolt x

/-- Nothing changes but the records of admitted commands and bolts, and of those only `b`. -/
def OnlyBoltAndRuns (b : Nat) (s t : State) : Prop :=
  t = { s with bolts := t.bolts, runs := t.runs } ∧ ∀ x, x ≠ b → t.bolt x = s.bolt x

/-- Submission queue `k` of an owner. -/
def State.sqAt (s : State) (o : Owner) (k : Nat) : Option Sq := (s.sqsOf o).find? fun q => q.id == k

/-- Completion queue `k` of an owner. -/
def State.cqAt (s : State) (o : Owner) (k : Nat) : Option Cq := (s.cqs o).find? fun q => q.id == k

/-- The mailbox takes a request now: CXL.io is ready, none is being served, the module has not failed, a session is open and
no reserved byte is set (R381, R14, R383, R514). -/
def State.mbxOpen (s : State) (h : MbxHdr) : Prop :=
  s.hif.ioReady = true ∧ s.mbx.busy = false ∧ s.dev.phase ≠ .failed ∧ h.reserved = false ∧ s.session.isSome = true

/-- `s` with the mailbox serving a request whose effect waits for the next hem (R378, R381). -/
def State.serving (s : State) (h : MbxHdr) (q : MbxReq) : State :=
  { s with mbx := { s.mbx with
      seq := h.seq, busy := true, done := false, irq := h.irq, sleeve := h.sleeve, req := some q } }

/-- The header of a mailbox request; none for any other command. -/
def mailboxHdr : Instr → Option MbxHdr
  | .openSession h _ _ => some h
  | .closeSession h => some h
  | .createSleeve h _ _ _ _ _ => some h
  | .destroySleeve h => some h
  | .resetSleeve h => some h
  | .bindPasid h _ => some h
  | .unbindPasid h _ => some h
  | .createCq h _ _ _ _ _ _ => some h
  | .createSq h _ _ _ _ _ _ => some h
  | .deleteQueue h _ _ => some h
  | .restartSq h _ _ _ => some h
  | .kemGet h => some h
  | .keyEstablish h _ _ => some h
  | .fwWrite h _ _ => some h
  | .fwActivate h _ => some h
  | _ => none

/-- The firmware slot that is not running, and the other one (R422, R424). -/
def State.inactiveImage (s : State) : Mem := if s.dev.fwSlot then s.store.imageA else s.store.imageB

/-- The image of the running slot. -/
def State.activeImage (s : State) : Mem := if s.dev.fwSlot then s.store.imageB else s.store.imageA

/-- A queue command's row acts now: its descriptor is in order and its run is `r`, on state `u` (log entry 8), where every host page
that its commit writes has a valid translation (R253). -/
def State.actsAs (s : State) (h : QHdr) (b : QBody) (u : State) (r : Run) : Prop :=
  s.runOf h b = (r, u) ∧ rowRefusal h b = none ∧ u.unmapped (u.winsOf r) r = none

/-- The header and body of a queue command's row that acts only at its commit. -/
def rowBody : Instr → Option (QHdr × QBody)
  | .fence h => some (h, .fence)
  | .regTenant h t k => some (h, .regTenant t k)
  | .deregTenant h t => some (h, .deregTenant t)
  | .regPatch h d i => some (h, .regPatch d i)
  | .deregPatch h p => some (h, .deregPatch p)
  | .exportPatch h p d n => some (h, .exportPatch p d n)
  | .loadPattern h i n => some (h, .loadPattern i n)
  | .freePattern h p => some (h, .freePattern p)
  | .setRecipe h c k e => some (h, .setRecipe c k e)
  | .configStack h b l n => some (h, .configStack b l n)
  | .map h b n p w d => some (h, .map b n p w d)
  | .unmap h b n => some (h, .unmap b n)
  | .setWindow h w a b p c n => some (h, .setWindow w a b p c n)
  | .clearWindow h w => some (h, .clearWindow w)
  | .createGroup h b => some (h, .createGroup b)
  | .destroyGroup h g => some (h, .destroyGroup g)
  | .snapshot h i t o => some (h, .snapshot i t o)
  | .snapshotDomain h i t o => some (h, .snapshotDomain i t o)
  | .telemetryLink h d n => some (h, .telemetry 0 d n)
  | .telemetryDomain h d n => some (h, .telemetry 1 d n)
  | .telemetrySlowdown h d n => some (h, .telemetry 2 d n)
  | .telemetryErrorLog h d n => some (h, .telemetry 3 d n)
  | .telemetryPower h d n => some (h, .telemetry 4 d n)
  | .setStitch h c => some (h, .setStitch c)
  | .setFloor h f => some (h, .setFloor f)
  | .openIngest h p b n => some (h, .openIngest p b n)
  | _ => none

/-- The rows of TELEMETRY with their KIND (R389). -/
def telemetryRows : List ((QHdr → Addr → Nat → Instr) × Nat) :=
  [(.telemetryLink, 0), (.telemetryDomain, 1), (.telemetrySlowdown, 2), (.telemetryErrorLog, 3), (.telemetryPower, 4)]

/-- The present stitch is no later than the run's deadline (R52). -/
def State.stitch_le_deadline (s : State) (r : Run) : Prop := s.time.stitch.toNat ≤ r.submit + r.hdr.deadline

/-- A patch as its descriptor names it, before its handle, size and contents (R109, R110). -/
def blankPatch (d : PatchDesc) (v : Sleeve) (base : Nat) : Patch :=
  { handle := 0, tenant := d.tenant, sleeve := v.id, base := base, rank := 8 * (d.rankCode + 1)
    scale := decodeBits 0 d.scale.toNat, layers := d.layers, darns := d.darns, train := d.train }

/-- The sleeve numbered `n` is `v`. -/
def State.hasSleeve (s : State) (n : Nat) (v : Sleeve) : Prop := s.sleeve n = some v

/-! ### Pattern words -/

/-- Bolt, CLASS and OP of a pattern word's row (R206 to R220). -/
def wordRow : Instr → Option (Nat × Nat × Nat)
  | .matrixPlain b => some (b, 0, 0)
  | .matrixBackward b => some (b, 0, 1)
  | .matrixConvolution b => some (b, 0, 2)
  | .railForward b => some (b, 1, 0)
  | .railBackward b => some (b, 1, 1)
  | .vectorCopy b => some (b, 2, 0)
  | .vectorAdd b => some (b, 2, 0)
  | .vectorSubtract b => some (b, 2, 0)
  | .vectorMultiply b => some (b, 2, 0)
  | .vectorFma b => some (b, 2, 0)
  | .vectorMinimum b => some (b, 2, 0)
  | .vectorMaximum b => some (b, 2, 0)
  | .vectorAbsoluteValue b => some (b, 2, 0)
  | .vectorNegate b => some (b, 2, 0)
  | .vectorLessThan b => some (b, 2, 0)
  | .vectorEqual b => some (b, 2, 0)
  | .vectorReciprocal b => some (b, 2, 0)
  | .vectorSquareRoot b => some (b, 2, 0)
  | .vectorReciprocalSquareRoot b => some (b, 2, 0)
  | .vectorExp2 b => some (b, 2, 0)
  | .vectorLog2 b => some (b, 2, 0)
  | .vectorExp b => some (b, 2, 0)
  | .vectorNaturalLog b => some (b, 2, 0)
  | .vectorTanh b => some (b, 2, 0)
  | .vectorSigmoid b => some (b, 2, 0)
  | .vectorGelu b => some (b, 2, 0)
  | .vectorSilu b => some (b, 2, 0)
  | .vectorDivision b => some (b, 2, 0)
  | .vectorRowSum b => some (b, 2, 0)
  | .vectorRowMaximum b => some (b, 2, 0)
  | .twoPlyAdd b => some (b, 2, 0)
  | .rotate b => some (b, 3, 0)
  | .streamLoad b _ => some (b, 4, 0)
  | .streamStore b => some (b, 4, 1)
  | .streamTload b => some (b, 4, 2)
  | .stackPush b => some (b, 5, 0)
  | .stackPop b => some (b, 5, 1)
  | .stackPushT b => some (b, 5, 2)
  | .stackPopT b => some (b, 5, 3)
  | .stat b => some (b, 6, 0)
  | .reduceGradient b => some (b, 7, 0)
  | .reduceTensor b => some (b, 7, 1)
  | .barrierBolts b => some (b, 8, 0)
  | .barrierCollective b => some (b, 8, 1)
  | .wait b => some (b, 9, 0)
  | .drain b => some (b, 9, 1)
  | .snap b => some (b, 0xA, 0)
  | .loop b => some (b, 0xB, 0)
  | .branchAlways b => some (b, 0xC, 0)
  | .branchEq b => some (b, 0xC, 1)
  | .branchNe b => some (b, 0xC, 2)
  | .branchLt b => some (b, 0xC, 3)
  | .branchGe b => some (b, 0xC, 4)
  | .branchLast b => some (b, 0xC, 5)
  | .branchEnd b => some (b, 0xC, 15)
  | _ => none

/-- VECTOR rows that work element by element: row, FUNC, element function of A, B and C (R80, R210). -/
def vectorElementRows : List ((Nat → Instr) × Nat × (Num → Num → Num → Num)) :=
  [(.vectorCopy, 0x00, fun a _ _ => a),
   (.vectorAdd, 0x01, fun a b _ => toTally (a.add b)),
   (.vectorSubtract, 0x02, fun a b _ => toTally (a.add b.neg)),
   (.vectorMultiply, 0x03, fun a b _ => toTally (a.mul b)),
   (.vectorFma, 0x04, fun a b c => toTally ((a.mul b).add c)),
   (.vectorMinimum, 0x05, fun a b _ => toTally (minMax false a b)),
   (.vectorMaximum, 0x06, fun a b _ => toTally (minMax true a b)),
   (.vectorAbsoluteValue, 0x07, fun a _ _ => toTally a.abs),
   (.vectorNegate, 0x08, fun a _ _ => toTally a.neg),
   (.vectorLessThan, 0x09, fun a b _ => compareResult (a.lt b) a b),
   (.vectorEqual, 0x0A, fun a b _ => compareResult (!a.lt b && !b.lt a) a b),
   (.vectorReciprocal, 0x0B, fun a _ _ => recip a),
   (.vectorSquareRoot, 0x0C, fun a _ _ => sqrtFn a),
   (.vectorReciprocalSquareRoot, 0x0D, fun a _ _ => rsqrtFn a),
   (.vectorExp2, 0x0E, fun a _ _ => exp2Fn a),
   (.vectorLog2, 0x0F, fun a _ _ => log2Fn a),
   (.vectorExp, 0x10, fun a _ _ => expFn a),
   (.vectorNaturalLog, 0x11, fun a _ _ => lnFn a),
   (.vectorTanh, 0x12, fun a _ _ => tanhFn a),
   (.vectorSigmoid, 0x13, fun a _ _ => sigmoidFn a),
   (.vectorGelu, 0x14, fun a _ _ => geluFn a),
   (.vectorSilu, 0x15, fun a _ _ => siluFn a),
   (.vectorDivision, 0x16, fun a b _ => divFn a b)]

/-- VECTOR rows that reduce each row to one value: row, FUNC, the row's value (R80, R210). -/
def vectorRowRows : List ((Nat → Instr) × Nat × (Num → List Num → Num)) :=
  [(.vectorRowSum, 0x17, fun x xs => xs.foldl tallyAdd (toTally x)), (.vectorRowMaximum, 0x18, fun x xs => toTally (xs.foldl (minMax true) x))]

/-- BRANCH rows that compare LEFT with the right operand (R220, R228). -/
def branchRows : List ((Nat → Instr) × Nat × (Nat → Nat → Bool)) :=
  [(.branchEq, 1, fun l r => l == r), (.branchNe, 2, fun l r => l != r), (.branchLt, 3, fun l r => decide (l < r)),
   (.branchGe, 4, fun l r => decide (r ≤ l))]

/-- Entry (i, j) of a table of values. -/
def entry (t : List (List Num)) (i j : Nat) : Num := (t.getD i []).getD j zero

/-- From `B` to `C` the sequencer has completed the word `w` and moved past it (R221, R227): one more word issued, SETF's
flag one higher, the loops that end at the word repeated or closed. -/
structure Passed (B : Bolt) (w : PWord) (C : Bolt) : Prop where
  issued : C.issued = B.issued + 1
  flags : ∀ f, look 0 C.flags f =
    if (wordHdr w).setf = some f then (look 0 B.flags f + 1) % 65536 else look 0 B.flags f
  place : C.pc = (B.after B.pc).pc ∧ C.loops = (B.after B.pc).loops ∧ C.rods = (B.after B.pc).rods

/-- From `B` to `C` the word `w` went to the units `us` as a primitive whose other words add to the flags `also`, and issue
moved past `last`, the address of its last word (R206, R221). -/
structure Issued (B : Bolt) (w : PWord) (us : List UnitId) (also : List Nat) (last : Nat) (C : Bolt) : Prop where
  issued : C.issued = B.issued + 1
  queues : ∀ u, C.queue u = if u ∈ us then B.queue u ++ [⟨B.pc, B.issued, (wordHdr w).setf, also⟩] else B.queue u
  place : C.pc = (B.after last).pc ∧ C.loops = (B.after last).loops ∧ C.rods = (B.after last).rods

/-! ### The Seam -/

/-- The node that a message goes to, with what it carries; none for any other output. -/
def seamOf : Output → Option (Nat × SeamMsg)
  | .seam _ (g :: _) m => some (g.dst, m)
  | _ => none

/-- From `s` to `t` a run's messages `ms` went out over the Seam, each to its node, in this order; they wait for the run's commit
(R28, R282). -/
def Sends (s t : State) (run : Nat) (ms : List (Nat × SeamMsg)) : Prop :=
  ∃ new, t.domain.sent = s.domain.sent ++ new ∧ new.map (fun e => (e.1, seamOf e.2)) = ms.map fun m => (run, some m)

/-! ### Signed operations -/

/-- The envelope of a signed operation that every module takes by itself (R446, R447). -/
def mgmtHdr : Instr → Option MgmtHdr
  | .mgmtSetProfile m _ _ => some m
  | .mgmtRoster m _ => some m
  | .mgmtRoleMove m _ => some m
  | .mgmtPortDisable m _ => some m
  | .mgmtFwWrite m _ _ => some m
  | .mgmtSvnRaise m _ => some m
  | .mgmtQuote m _ => some m
  | .mgmtCertificate m _ => some m
  | .mgmtDomainSnapshot m _ _ _ => some m
  | .mgmtSetCap m _ _ => some m
  | .mgmtReset m => some m
  | .mgmtIdentify m _ => some m
  | .mgmtAnchorReplace m _ => some m
  | .mgmtDecommission m => some m
  | .mgmtRemovalCancel m => some m
  | .mgmtSetSgmii m => some m
  | _ => none

/-- `s` after an operation with envelope `m` was accepted: its number is the last accepted (R446). -/
def State.accepted_ (s : State) (m : MgmtHdr) : State := { s with store := { s.store with mgmtSeq := m.seq } }

/-- The ME takes operation `m` now (R446, R514). -/
def State.takes (s : State) (m : MgmtHdr) : Prop :=
  s.meRuns = true ∧ s.store.anchor.isSome = true ∧ m.sigOk = true ∧ s.store.mgmtSeq < m.seq ∧ ¬(s.dev.phase = .failed ∧ s.dev.fail = 0x01)

/-! ### The invariant that every step keeps -/

/-- The canonical form of every store of bytes that a bolt, sleeve or base slot holds, and of the tables that hold them;
a legal stitch length (R23). -/
structure State.Inv (s : State) : Prop where
  bolts : canonical {} s.bolts = true
  ports : canonical {} s.ports = true
  slots : canonical {} s.bases.slots = true
  boltMem : ∀ e ∈ s.bolts, Memory.wf e.2.mem = true ∧ Memory.wf e.2.found = true
  sleeveMem : ∀ v ∈ s.sleeves, Memory.wf v.mem = true
  slotMem : ∀ e ∈ s.bases.slots, Memory.wf e.2.mem = true
  images : Memory.wf s.store.imageA = true ∧ Memory.wf s.store.imageB = true
  mailbox : Memory.wf s.mbx.cmd = true ∧ Memory.wf s.mbx.resp = true
  stitchLength : s.time.len < 4
  nextLength : ∀ c, s.time.lenNext = some c → c < 4
  logged : ∀ p ∈ s.time.log, (∀ v ∈ p.sleeves, Memory.wf v.mem = true) ∧ ∀ c, p.lenNext = some c → c < 4

/-! ### What no command undoes -/

/-- From `s` to `t`, one command on: the queue is as it was (exec leaves it alone), outputs made are never withdrawn, the
fused part and serial number stay, and neither the fused SVN minimum (R425), nor the next leaf of the top key tree (R427),
nor the count of free values drawn goes back. -/
structure Keeps (s t : State) : Prop where
  pending : t.pending = s.pending
  out : s.out <+: t.out
  free : s.freeCtr ≤ t.freeCtr
  part : t.store.part = s.store.part
  serial : t.store.serial = s.store.serial
  svn : s.store.svnMin ≤ t.store.svnMin
  topLeaf : s.store.topLeaf ≤ t.store.topLeaf

end Sys2Proof.Machine
end

