-- ==== Sys2Proof/Certificates/Slice0/Obligations.lean ====
section
/-! DEFINITION. The statements about the model, for the provers. Each cites in OBLIGATIONS.json the rules it rests on. -/
open Sys2Proof Sys2Proof.Machine

/-! ### The block and its queue -/

/-- One step takes the command at the front of the queue and runs it on the state with the queue's rest; on an empty queue
the block idles (the model's choice, log entry 1). -/
def Obligations.StepRunsFrontCommand : Prop :=
  (∀ (c : Instr) (rest : List Instr) (s : State), step { s with pending := c :: rest } = exec c { s with pending := rest }) ∧
  ∀ s : State, s.pending = [] → step s = .next s

/-- Every step keeps the invariant: canonical memories and tables, and a legal stitch length. -/
def Obligations.StepKeepsInvariant : Prop :=
  ∀ s t : State, s.Inv → step s = .next t → t.Inv

/-- The state right after reset meets the invariant. -/
def Obligations.ResetMeetsInvariant : Prop := State.reset.Inv

/-- Whatever the command: it leaves the queue alone, withdraws no output, and lowers neither the fused SVN minimum (R425)
nor the next top-tree leaf (R427); the fused part and serial number stay. -/
def Obligations.NoCommandUndoes : Prop :=
  ∀ (c : Instr) (s t : State), exec c s = .next t → Keeps s t

/-- What R353, R4, R7, R33, R23, R338, R271, R401 and R497 say the machine reads right after a module reset: STATE is
BOOT (1) with no cause and no flag set, firmware's words read 0, the stitch counter reads 0, the stitch is 64 us and the
floor 1.2 GHz, no session, no sleeve, every base slot FREE, every port DOWN. -/
def Obligations.ResetReads : Prop :=
  State.reset.devState = 1 ∧ State.reset.contractVer = 0 ∧ State.reset.reg32 0 0x08 = 0 ∧ State.reset.reg64 0 0x18 = 0 ∧
  State.reset.time.len = 1 ∧ State.reset.time.floor = 12 ∧ State.reset.session = none ∧ State.reset.sleeves = [] ∧
  (∀ n, (State.reset.slot n).state = .free) ∧ ∀ p, (State.reset.port p).state = .down

/-! ### Host registers and doorbells -/

/-- A 64-bit doorbell write to a live page and queue (R368): accepted when SEQ is the last accepted plus one, PI is below
the ring size and moves on by one or more without filling the ring; else the queue stops with its PI and SEQ as they were, and
QUEUE_STOPPED is posted. A stopped queue ignores doorbells and counts them. Nothing but that queue and that event changes. -/
def Obligations.DoorbellAcceptedOrStops : Prop :=
  ∀ (s : State) (page k pi : Nat) (seq : BitVec 16) (value : BitVec 64) (o : Owner) (q : Sq),
    s.hif.ioReady = true → s.pageOwner page = some o → s.sqAt o k = some q →
    k = bitsOf value.toNat 18 16 → pi = bitsOf value.toNat 11 0 → seq = BitVec.ofNat 16 (bitsOf value.toNat 63 48) →
    let adv := (pi + q.size - q.pi) % q.size
    let used := (q.pi + q.size - q.ci) % q.size
    let ok := seq = q.d + 1 ∧ pi < q.size ∧ 1 ≤ adv ∧ used + adv ≤ q.size - 1
    let only (t : State) : Prop := t = { s with admSqs := t.admSqs, sleeves := t.sleeves, evq := t.evq } ∧
      (∀ o' k', (o' ≠ o ∨ k' ≠ k) → t.sqAt o' k' = s.sqAt o' k') ∧ t.admCqs = s.admCqs ∧ t.sleeves.map (·.id) = s.sleeves.map (·.id) ∧
      ∀ n v, s.hasSleeve n v → ∃ w, t.hasSleeve n w ∧ w = { v with sqs := w.sqs }
    (q.stopped = false → ok → ∃ t, exec (.sqDoorbell page 8 value) s = .next t ∧
      only t ∧ t.evq = s.evq ∧ t.sqAt o k = some { q with d := seq, pi := pi }) ∧
    (q.stopped = false → ¬ ok → ∃ t, exec (.sqDoorbell page 8 value) s = .next t ∧
      only t ∧ t.sqAt o k = some { q with stopped := true } ∧
      t.evq = { s.evq with waiting := s.evq.waiting ++ (if s.evq.en = true ∧ s.evq.mask.getLsbD 11 = false then
        [⟨11, ownerNum o, s.time.stitch.toNat, detailOf [(16, 1, k), (17, 1, 0x71), (18, 2, q.pi)]⟩] else []) }) ∧
    (q.stopped = true → ∃ t, exec (.sqDoorbell page 8 value) s = .next t ∧
      only t ∧ t.evq = s.evq ∧ t.sqAt o k = some { q with ignored := q.ignored + 1 })

/-- Widths of register accesses (R12): an aligned 32-bit read gives a 32-bit register, an aligned 64-bit read a 64-bit one. A
32-bit read of the low word of a 64-bit register latches the high word into that register's shadow, the next read of the high
word returns the shadow, whatever other registers were read in between, and with no such read before it the live high word.
An access of any other width or alignment to a register returns all ones on a read, is ignored on a write, and is logged as a
host-interface event; one that touches reserved offsets alone reads 0 (R349). -/
def Obligations.RegisterAccessWidths : Prop :=
  ∀ (s : State) (bar off width : Nat), s.hif.ioReady = true → bar ≠ configBar → inArea bar off = false →
    let answer (u : State) (v : Nat) : State := { u with out := u.out ++ [.readData (BitVec.ofNat 64 v)] }
    (off % 4 = 0 → is64 bar off = false → (4 ≤ off → is64 bar (off - 4) = false) →
      exec (.shadowLowWordRead bar off 4) s = .next (answer s (s.reg32 bar off))) ∧
    (is64 bar off = true → off % 8 = 0 →
      exec (.shadowLowWordRead bar off 8) s = .next (answer s (s.reg64 bar off)) ∧
      (Completes (.shadowLowWordRead bar off 4) s fun t =>
        t = answer { s with hif := { s.hif with shadow := t.hif.shadow } } (s.reg64 bar off % 2 ^ 32) ∧
        t.hif.shadowOf bar off = some (BitVec.ofNat 32 (s.reg64 bar off / 2 ^ 32)) ∧
        ∀ b o, (b ≠ bar ∨ o ≠ off) → t.hif.shadowOf b o = s.hif.shadowOf b o) ∧
      (inArea bar (off + 4) = false → is64 bar (off + 4) = false →
        (∀ h : BitVec 32, s.hif.shadowOf bar off = some h → Completes (.shadowLowWordRead bar (off + 4) 4) s fun t =>
          t = answer { s with hif := { s.hif with shadow := t.hif.shadow } } h.toNat ∧ t.hif.shadowOf bar off = none ∧
          ∀ b o, (b ≠ bar ∨ o ≠ off) → t.hif.shadowOf b o = s.hif.shadowOf b o) ∧
        (s.hif.shadowOf bar off = none →
          exec (.shadowLowWordRead bar (off + 4) 4) s = .next (answer s (s.reg64 bar off / 2 ^ 32))))) ∧
    (¬ (width = 4 ∧ off % 4 = 0) → ¬ (width = 8 ∧ off % 8 = 0 ∧ is64 bar off = true) →
      (touches bar off width = true →
        exec (.shadowLowWordRead bar off width) s = .next (answer (s.hostAccess bar off width false) (2 ^ (8 * min width 8) - 1))) ∧
      (touches bar off width = false → exec (.shadowLowWordRead bar off width) s = .next (answer s 0)) ∧
      ∀ v, exec (.registerWrite bar off width v) s = .next (s.hostAccess bar off width true))

/-- Writes to the event queue, mailbox, sleeve and snapshot registers (R13, R366, R381, R397, R398, R474, R490): EVQ_HEAD takes
the written value, EVQ_BASE only while EN is 0, SNAP_CTRL keeps its defined bits only, 1 to ERR_BUSY clears it, a live sleeve's
latency tolerance takes the written value; EVQ_CTRL takes EN and MASK, and SIZE while EN is 0; EN rising empties the ring, sets
its phase and clears LOST; 1 to LATCHED releases the snapshot, 0 leaves it. Unmasking a vector whose bit is pending, where
messages go out, sends its message and clears the bit (R366); with nothing pending, or messages off, it only unmasks. Nothing
else changes. -/
def Obligations.ReportRegisterWrites : Prop :=
  ∀ (s : State) (v : BitVec 64) (w : BitVec 32), s.hif.ioReady = true →
    (exec (.registerWrite 0 0x200C 4 v) s = .next { s with evq := { s.evq with head := BitVec.ofNat 16 v.toNat } }) ∧
    (s.evq.en = true → exec (.registerWrite 0 0x2000 8 v) s = .next s) ∧
    (s.evq.en = false → exec (.registerWrite 0 0x2000 8 v) s =
      .next { s with evq := { s.evq with base := BitVec.ofNat 64 (v.toNat / 4096 * 4096) } }) ∧
    (v.getLsbD 2 = true → exec (.registerWrite 0 0x1FF8 4 v) s = .next { s with mbx := { s.mbx with errBusy := false } }) ∧
    (∀ n x, n < 16 → s.hasSleeve n x → ∃ t, exec (.registerWrite 2 (4096 * n + 8) 4 v) s = .next t ∧
      t = { s with sleeves := t.sleeves } ∧ t.hasSleeve n { x with latTol := BitVec.ofNat 24 v.toNat } ∧
      ∀ m y, m ≠ n → s.hasSleeve m y → t.hasSleeve m y) ∧
    (exec (.registerWrite 0 0x1F000 4 v) s =
      .next { s with snap := { s.snap with ctrl := BitVec.ofNat 32 v.toNat &&& 0x00003F1E } }) ∧
    (let e := { s.evq with en := w.getLsbD 31, mask := w.extractLsb' 0 16 }
     (s.evq.en = false → w.getLsbD 31 = true → exec (.evqEnable w) s = .next { s with evq := { e with
       size := w.extractLsb' 16 4, tail := s.evq.head, lost := 0, owed := false, phase := true } }) ∧
     (s.evq.en = false → w.getLsbD 31 = false → exec (.evqEnable w) s = .next { s with evq := { e with size := w.extractLsb' 16 4 } }) ∧
     (s.evq.en = true → exec (.evqEnable w) s = .next { s with evq := e })) ∧
    (w.getLsbD 0 = true → exec (.snapshotRelease w) s = .next { s with snap := { s.snap with latched := false } }) ∧
    (w.getLsbD 0 = false → exec (.snapshotRelease w) s = .next s) ∧
    ∀ n, n < 2048 →
      let table := put {} s.hif.msixTable n { look {} s.hif.msixTable n with masked := false }
      (s.hif.msixEnable = true → s.hif.msixMaskAll = false → s.hostOpen = true → s.hif.msixPending = [n] →
        exec (.msixUnmask n) s = .next { s with
          out := s.out ++ [.msix n], hif := { s.hif with msixTable := table, msixPending := [] } }) ∧
      ((s.hif.msixPending = [] ∨ s.hif.msixEnable = false ∨ s.hif.msixMaskAll = true) →
        exec (.msixUnmask n) s = .next { s with hif := { s.hif with msixTable := table } })

/-! ### The admin mailbox -/

/-- Requests that take effect in the next hem (R378, R381, R383), each under the conditions of its row: the mailbox shows
BUSY with the request held, and nothing else changes. -/
def Obligations.MailboxHoldsRequest : Prop :=
  ∀ (s : State) (h : MbxHdr), s.mbxOpen h →
    (s.sleeves = [] → exec (.closeSession h) s = .next (s.serving h .closeSession)) ∧
    (∀ b m c e p, s.dev.teardown = false → h.sleeve ≤ 15 → s.sharesFit h.sleeve b m c e p = true → s.sec.entropyFailing = false →
      exec (.createSleeve h b m c e p) s = .next (s.serving h (.createSleeve b m c e p))) ∧
    (∀ v, s.hasSleeve h.sleeve v →
      exec (.destroySleeve h) s = .next (s.serving h .destroySleeve) ∧
      exec (.resetSleeve h) s = .next (s.serving h .resetSleeve) ∧
      (∀ p, p < 2 ^ 20 → (∀ x ∈ s.sleeves, x.id ≠ h.sleeve → p ∉ x.pasids) → (v.pasids.length < 16 ∨ p ∈ v.pasids) →
        s.sessionPasid ≠ p → exec (.bindPasid h p) s = .next (s.serving h (.bindPasid p))) ∧
      ∀ p, p ∈ v.pasids → v.queueUses p = false → exec (.unbindPasid h p) s = .next (s.serving h (.unbindPasid p)))

/-- Queue requests under the conditions of their rows (R368, R370, R383, R391): held for the next hem. -/
def Obligations.MailboxHoldsQueueRequest : Prop :=
  ∀ (s : State) (h : MbxHdr) (o : Owner), s.mbxOpen h → s.mbxOwner h.sleeve = some o →
    (∀ cq vector pasid base slots head, cq < 8 → base % 4096 = 0 → head % 8 = 0 → powerOfTwo slots 16 65536 = true →
      (o = .admin → cq = 0) → (o ≠ .admin → vector < 64) → s.pasidOk o pasid = true → s.cqAt o cq = none →
      exec (.createCq h cq vector pasid base slots head) s = .next (s.serving h (.createCq cq vector pasid base slots head))) ∧
    (∀ queue cq seq0 pasid base slots c, queue < 8 → base % 4096 = 0 → powerOfTwo slots 16 4096 = true →
      (o = .admin → queue = 0) → s.pasidOk o pasid = true → s.cqAt o cq = some c → s.sqAt o queue = none →
      exec (.createSq h queue cq seq0 pasid base slots) s = .next (s.serving h (.createSq queue cq seq0 pasid base slots))) ∧
    (∀ n q, s.sqAt o n = some q → s.queueBusy o n = false →
      exec (.deleteQueue h false n) s = .next (s.serving h (.deleteQueue false n))) ∧
    (∀ n c, s.cqAt o n = some c → (∀ q ∈ s.sqsOf o, q.cq ≠ n) →
      exec (.deleteQueue h true n) s = .next (s.serving h (.deleteQueue true n))) ∧
    (∀ n seq0 ci q, s.sqAt o n = some q → q.stopped = true → ci < q.size →
      exec (.restartSq h n seq0 ci) s = .next (s.serving h (.restartSq n seq0 ci)))

/-- What a held request does when its hem applies it (R378, R370, R383, R411): the queue or PASID is there, or gone, or
restarted, and the response reports success with BUSY clear. -/
def Obligations.HemAppliesRequest : Prop :=
  ∀ (s : State) (n : Nat) (v : Sleeve), s.mbx.sleeve = n → n ≠ 255 → s.hasSleeve n v →
    let ok (t : State) : Prop := t.mbx.busy = false ∧ t.mbx.done = true ∧ t.mbx.status = 0 ∧ t.mbx.req = none
    (∀ q c seq0 p b k, s.sqAt (.sleeve n) q = none →
      let t := s.applyReq (.createSq q c seq0 p b k)
      ok t ∧ t.sqAt (.sleeve n) q =
        some { id := q, cq := c, pasid := p, base := b, size := k, d := seq0, l := seq0, pi := 0, ci := 0 }) ∧
    (∀ q w p b k hd, s.cqAt (.sleeve n) q = none →
      let t := s.applyReq (.createCq q w p b k hd)
      ok t ∧ t.cqAt (.sleeve n) q = some { id := q, vector := 64 * n + w, pasid := p, base := b, size := k, headAddr := hd }) ∧
    (∀ q x seq0 ci, s.sqAt (.sleeve n) q = some x →
      let t := s.applyReq (.restartSq q seq0 ci)
      ok t ∧ t.sqAt (.sleeve n) q = some { x with
        d := seq0, l := seq0, ci := ci, pi := ci, stopped := false, ignored := 0, retries := 0, lastSeq := none }) ∧
    (∀ q, s.queueBusy (.sleeve n) q = false →
      let t := s.applyReq (.deleteQueue false q)
      ok t ∧ t.sqAt (.sleeve n) q = none) ∧
    ∀ p, let t := s.applyReq (.bindPasid p)
      ok t ∧ ∃ w, t.hasSleeve n w ∧ p ∈ w.pasids ∧ ∀ x ∈ v.pasids, x ∈ w.pasids

/-- Requests that complete at once (R9, R424, R428, R430, R431): a session opens with the next session number; KEM_GET
answers 1,568 bytes after the 16 of the header; KEY_ESTABLISH holds a new key under an unused handle; FW_WRITE puts the
bytes into the inactive slot and takes the writer lock; FW_ACTIVATE of a verified slot whose SVN is not below the fused
minimum writes the activation record and frees the lock. -/
def Obligations.MailboxCompletesRequest : Prop :=
  ∀ (s : State) (h : MbxHdr), s.hif.ioReady = true → s.mbx.busy = false → h.reserved = false → s.dev.phase = .ready →
    let ok (t : State) : Prop := t.mbx.busy = false ∧ t.mbx.done = true ∧ t.mbx.status = 0 ∧ t.mbx.seq = h.seq
    (∀ f major pasid, s.dev.fw = some f → f.oldest.toNat ≤ major → major ≤ f.major.toNat → pasid < 2 ^ 20 →
      s.session = none → s.sec.entropyFailing = false → s.dev.lowerLeaf < 1024 →
      Completes (.openSession h major pasid) s fun t =>
        ok t ∧ (∃ x, t.session = some x ∧ x.major = major ∧ x.pasid = pasid ∧ x.number = s.dev.sessionNo + 1) ∧
        t.dev.sessionNo = s.dev.sessionNo + 1 ∧ t.sleeves = s.sleeves ∧ t.runs = s.runs) ∧
    (s.session.isSome = true →
      (Completes (.kemGet h) s fun t =>
        ok t ∧ t = { s with mbx := t.mbx } ∧ t.mbx.respLenM1.toNat + 1 = 16 + 1568) ∧
      (∀ kind ct, kind ≤ 2 → ct.length = 1568 → (kind ≠ 0 → s.isManager = true) →
        (if kind = 0 then (s.sleeve h.sleeve).isSome = true else h.sleeve = 255) →
        (s.keyHandles kind).length < keyLimit kind → s.sec.entropyFailing = false →
        Completes (.keyEstablish h kind ct) s fun t =>
          ok t ∧ t = { s with mbx := t.mbx, sec := t.sec, freeCtr := t.freeCtr } ∧
          ∃ k : KeyRec, t.sec.keys = k :: s.sec.keys ∧ k.kind = kind ∧ k.sleeve = h.sleeve ∧ k.handle ∉ s.keyHandles kind) ∧
      (∀ off data, off + data.length ≤ slotBytes → s.dev.writerLock ≠ some .me →
        Completes (.fwWrite h off data) s fun t =>
          ok t ∧ t.dev = { s.dev with writerLock := some .host } ∧ memRead t.inactiveImage off data.length = data ∧
          t.activeImage = s.activeImage ∧
          ∀ a, a < off ∨ off + data.length ≤ a → memGet t.inactiveImage a = memGet s.inactiveImage a) ∧
      ∀ f, s.store.svnMin ≤ f.svn →
        Completes (.fwActivate h (some f)) s fun t =>
          ok t ∧ t.store = { s.store with activation := some (!s.dev.fwSlot) } ∧ t.dev = { s.dev with writerLock := none })

/-- A request that arrives while another is served is ignored with ERR_BUSY, whatever it is (R381). -/
def Obligations.BusyMailboxIgnores : Prop :=
  ∀ (s : State) (c : Instr), (mailboxHdr c).isSome = true → s.hif.ioReady = true → s.mbx.busy = true →
    exec c s = .next { s with mbx := { s.mbx with errBusy := true } }

/-! ### Queue commands at their commit -/

/-- A command that completes with its effect done (R28, R386, R393): it leaves the book with its posts, its record waits
behind its host writes as the last commit, and carries its tag, queue, slot, submit stitch and the status that R52 gives
for its placement; the accepted-descriptor entry takes that status. What it sent over the seam links leaves the list of what
waits for the commit for the list of what goes out (R282), and its raised escalation levels go with it (R305). Nothing else
changes. -/
def Obligations.CompletionRecord : Prop :=
  ∀ (s : State) (r : Run) (d : Done),
    let t := s.done r d
    t = { s with
      admAccepted := t.admAccepted, sleeves := t.sleeves, runs := t.runs, hif := t.hif, posts := t.posts, time := t.time
      domain := t.domain, groups := t.groups } ∧
    t.groups = s.groups.map (fun g => { g with escs := g.escs.filter fun e => e.1 / 2 ^ 44 != r.id }) ∧
    t.domain = { s.domain with
      sent := s.domain.sent.filter fun e => e.1 != r.id
      released := s.domain.released ++ (s.domain.sent.filter fun e => e.1 == r.id).map (·.2) } ∧
    t.findRun r.id = none ∧ (∀ q ∈ s.runs, q.id ≠ r.id → q ∈ t.runs) ∧ (∀ p ∈ t.posts, p.run ≠ r.id) ∧
    (∃ c : Commit, t.hif = { s.hif with commits := s.hif.commits ++ [c] } ∧ c.owner = r.hdr.owner ∧ c.issued = false ∧
      c.sent = none ∧ c.answered = d.writes.isEmpty ∧
      c.writes = d.writes ∧ c.record.tag = r.hdr.tag ∧ c.record.queue = r.hdr.queue ∧ c.record.slot = r.hdr.slot ∧
      c.record.submit = r.submit ∧ c.record.status = s.onTime r ∧ c.record.committed = true) ∧
    t.time = { s.time with commitsDone := s.time.commitsDone + 1 } ∧
    (s.stitch_le_deadline r → r.lateCause = 0 → s.onTime r = 0x00)

/-- A row whose descriptor is refused (R385, R388, R396) ends with that status and nothing committed: FENCE, tenants,
patches, patterns, recipes, lanes, mappings, windows, groups, snapshots, telemetry and the admin settings alike. -/
def Obligations.RefusedRowCommitsNothing : Prop :=
  ∀ (s u : State) (h : QHdr) (c : Instr) (b : QBody) (r : Run) (st : Status),
    rowBody c = some (h, b) → s.runOf h b = (r, u) → rowRefusal h b = some st →
    exec c s = .next (u.fail r st 0 255) ∧ (u.recordOf r st { status := st }).committed = false

/-- FENCE, RUN, UPDATE and KILL (R27, R28, R170, R386, R389, R390, R413): FENCE joins and commits nothing; RUN starts on its bolts in
the working part of its stitch, and in the hem a finished one commits, its basted effects with its record; a RUN that is not in
the book is admitted, under the next number; UPDATE with nothing the watch reports puts in place each patch it made, one version
higher, no other patch, measures no more beads than its price, and completes with its record; a host page without a valid
translation fails a RUN's commit with 0x12 (R253); KILL stops its target with 0x23 and completes. -/
def Obligations.RunUpdateKillFence : Prop :=
  ∀ (s u : State) (h : QHdr) (r : Run),
    (s.actsAs h .fence u r → exec (.fence h) s = .next (u.done r {})) ∧
    (∀ args, s.placedRun h = some r → r.place = s.time.stitch.toNat →
      (s.time.hem = false → ∃ t, exec (.run h args) s = .next t ∧ t = (boltsIn r.hdr.bolts).foldl State.beginNext s ∧
        t = { s with bolts := t.bolts, runs := t.runs } ∧ ∀ x < 16, r.hdr.bolts.getLsbD x = false → t.bolt x = s.bolt x) ∧
      (s.time.hem = true → r.phase = .finished → s.unmapped (s.winsOf r) r = none → watchDiscard r.hdr.watch (watchSeen r.watch r.baste.stats) = none →
        watchStatus (watchSeen r.watch r.baste.stats) = none →
        exec (.run h args) s = .next (
          let c := s.commitBasting (s.winsOf r) r
          c.1.done { r with watch := watchSeen r.watch r.baste.stats } { writes := c.2 })) ∧
      (∀ a, s.time.hem = true → r.phase = .finished → s.unmapped (s.winsOf r) r = some a →
        exec (.run h args) s = .next (s.fail r 0x12 a 255))) ∧
    (∀ args, s.placedRun h = none → ∃ t, exec (.run h args) s = .next t ∧ t.nextRun = s.nextRun + 1 ∧
      ∃ q ∈ t.runs, q.id = s.nextRun ∧ q.hdr = h ∧ (∀ st, rowRefusal h (.run args) = some st → q.stop = some ⟨st, 0, 255⟩)) ∧
    (∀ block ps, s.placedRun h = some r → rowRefusal h (.update block ps) = none → s.updateFault r block ps = none →
      s.unmapped (s.winsOf r) r = none →
      let bno := (boltsIn r.hdr.bolts).headD 0
      let m := s.measure r
      let made := m.2.updateEach m.1 block bno (m.2.bolt bno) ps.eraseDups
      let stats := (made.1.flatMap (·.stats)).foldl addStat []
      let w := watchSeen (made.1.foldl (fun w p => w ||| p.watch) 0) stats
      watchDiscard r.hdr.watch w = none → watchStatus w = none →
      m.2 = { s with freeCtr := m.2.freeCtr } ∧ (∀ b, look 0 m.1.measured b ≤ max (look 0 r.measured b) (look 0 r.costs b)) ∧
      ∃ t, exec (.update h block ps) s = .next t ∧ t.findRun r.id = none ∧ t.tenants = s.tenants ∧ t.groups.map (·.block) = s.groups.map (·.block) ∧
        t.ports = s.ports ∧ t.bases = s.bases ∧ t.out = s.out ∧
        (∀ x, x ≠ bno → t.bolt x = { s.bolt x with pockets := (t.bolt x).pockets }) ∧
        (∃ c : Commit, t.hif.commits = s.hif.commits ++ [c] ∧ c.record.tag = r.hdr.tag ∧ c.record.status = s.onTime r ∧
          c.record.committed = true) ∧
        (∀ n, n ∉ ps → t.patch n = s.patch n) ∧
        ∀ n p, n ∈ ps → s.patch n = some p → ∃ q, t.patch n = some q ∧ q.version = p.version + 1 ∧ q.tenant = p.tenant ∧
          q.rank = p.rank ∧ q.layers = p.layers) ∧
    (∀ ref a x, rowRefusal h (.kill ref) = none → s.accepted h.owner ref = some a → a.status = none → s.findRun a.run = some x →
      x.coll = none → x.stop = none → s.dependents x.id = [] →
      ∃ t, exec (.kill h ref) s = .next t ∧ t.nextRun = s.nextRun + 1 ∧
        (∃ y, t.findRun x.id = some y ∧ y.stop = some ⟨0x23, 0, 255⟩) ∧ (∀ y ∈ boltsIn x.hdr.bolts, (t.bolt y).run ≠ some x.id) ∧
        ∃ k ∈ t.runs, k.hdr = h ∧ k.id = s.nextRun ∧ k.stop = some ⟨0x00, 0, 255⟩)

/-- REG_TENANT, DEREG_TENANT, REG_PATCH, DEREG_PATCH, EXPORT_PATCH (R108, R109, R110, R140, R141, R435, R441, R443). -/
def Obligations.TenantAndPatchCommands : Prop :=
  ∀ (s u : State) (h : QHdr) (r : Run) (v : Sleeve), u.hasSleeve (ownerNum r.hdr.owner) v →
    (∀ n key, s.actsAs h (.regTenant n key) u r → (∀ x ∈ u.tenants, x.num ≠ n) → u.tenants.length < 65535 →
      (u.keyOf key 0 v.id).isSome = true → u.sec.entropyFailing = false →
      exec (.regTenant h n key) s = .next (
        let g := (look 0 u.memSide.keygens (tenantOwner n) + 1) % 16
        ({ u with
          memSide := { u.memSide with keygens := put 0 u.memSide.keygens (tenantOwner n) g }
          tenants := u.tenants ++ [⟨n, v.id, key, g⟩] } : State).done r {})) ∧
    (∀ n x, s.actsAs h (.deregTenant n) u r → u.tenants.find? (fun x => x.num == n && x.sleeve == v.id) = some x →
      (∀ p ∈ u.patches, p.tenant = n → p.lost = true) →
      exec (.deregTenant h n) s = .next ((({ u with
        tenants := u.tenants.filter fun y => y.num != n
        patches := u.patches.filter fun p => p.tenant != n
        sec := { u.sec with keys := u.sec.keys.filter fun k => !(k.kind == 0 && k.handle == x.key) } } : State).forgetAreas
          ((u.patches.filter fun p => p.tenant == n).map fun p => patchArea p.handle)).done r {})) ∧
    (∀ d i, s.actsAs h (.regPatch d i) u r → (u.tenants.any fun t => t.num == d.tenant && t.sleeve == v.id) = true → d.base ≠ 0 →
      u.baseOk d.base r.base = true → u.layersOk r.base d.layers = true → u.darnsOk (blankPatch d v r.base) = true →
      (let fmt (k : Nat) : Nat := (r.recipe k).format
       let ts := u.tensors (blankPatch d v r.base)
       let n := plainLength ts d.train false (fmt 4) (fmt 5)
       imageOk d i n (plainLength ts d.train true (fmt 4) (fmt 5)) = true ∧
       pages (regionBytes ts d.train (d.train && decide (i.plain.length ≠ n)) (fmt 4) (fmt 5) (fmt 3)) ≤ u.pagesLeft v) →
      (u.patches.filter fun p => !p.lost).length < 65536 →
      ∃ p : Patch, exec (.regPatch h d i) s = .next ((({ u with
          freeCtr := u.freeCtr + 1
          patches := u.patches.filter (fun q => q.handle != p.handle) ++ [p] } : State).unsettle
            (stateLines p.handle p.bytes)).done r { handle := p.handle }) ∧
        (∀ q ∈ u.patches, q.lost = false → q.handle ≠ p.handle) ∧ p.tenant = d.tenant ∧ p.sleeve = v.id ∧ p.base = r.base ∧
        p.rank = 8 * (d.rankCode + 1) ∧ p.layers = d.layers ∧ p.darns = d.darns ∧ p.train = d.train ∧ p.version = 0 ∧
        p.lost = false ∧ p.plain = i.plain) ∧
    (∀ n, s.actsAs h (.deregPatch n) u r → (u.ownPatch v n).isSome = true → (u.otherRun r fun q => q.patches.contains n) = false →
      Completes (.deregPatch h n) s fun t =>
        t.patches = u.patches.filter (fun p => p.handle != n) ∧ t.tenants = u.tenants ∧
        ∀ b < 16, (t.bolt b).pockets = (u.bolt b).pockets.filter (fun k => k.2.patch != n) ∧ (t.bolt b).mem = (u.bolt b).mem) ∧
    (∀ n p w dest len, s.actsAs h (.exportPatch n dest len) u r → u.patch n = some p → p.sleeve = v.id → p.lost = false →
      dest.space = 2 →
      u.destFault r.hdr.owner dest len (imageBytes p.plain.length) = none → u.sec.entropyFailing = false →
      (u.winsOf r).find? (fun w => w.id == (windowOf dest.addr).1) = some w →
      ∃ id, exec (.exportPatch h n dest len) s = .next (({ u with freeCtr := u.freeCtr + 1 } : State).done r
        { writes := [.sealedImage w.pasid (w.base + (windowOf dest.addr).2) p.tenant id p.plain] })) ∧
    ∀ n p dest len, s.actsAs h (.exportPatch n dest len) u r → u.patch n = some p → p.sleeve = v.id → p.lost = false →
      dest.space = 1 →
      u.destFault r.hdr.owner dest len (imageBytes p.plain.length) = none → u.sec.entropyFailing = false →
      ∃ bytes : List Byte, bytes.take 4 = leBytes 2 1 ++ leBytes 2 p.tenant ∧
        (let d := ({ u with freeCtr := u.freeCtr + 1 } : State).deliver (u.winsOf r) v.id dest bytes
         exec (.exportPatch h n dest len) s = .next (d.1.done r {}) ∧
         ∃ w, d.1.hasSleeve v.id w ∧ w.mem = memWrite v.mem dest.addr bytes ∧
           w.tags = (linesOf dest.addr bytes.length).foldl (fun t l => put 0 t l 0) v.tags)

/-- LOAD_PATTERN, FREE_PATTERN, SET_RECIPE, CONFIG_STACK (R45, R144, R178 to R180, R230 to R233, R389). -/
def Obligations.PatternRecipeLaneCommands : Prop :=
  ∀ (s u : State) (h : QHdr) (r : Run) (v : Sleeve), u.hasSleeve (ownerNum r.hdr.owner) v →
    (∀ image len p, s.actsAs h (.loadPattern image len) u r → checkImage image len = .good p → pages p.bytes ≤ u.pagesLeft v →
      ∃ hd, hd ≠ 0 ∧ (∀ q ∈ v.patterns, q.handle ≠ hd) ∧
        exec (.loadPattern h image len) s = .next ((({ u with freeCtr := u.freeCtr + 1 } : State).updSleeve v.id fun v =>
          { v with patterns := v.patterns ++ [{ p with handle := hd }] }).done r { handle := hd })) ∧
    (∀ hd, s.actsAs h (.freePattern hd) u r → (v.patterns.any fun p => p.handle == hd) = true →
      (u.otherRun r fun q => decide (q.hdr.owner = r.hdr.owner) && q.hdr.pattern == hd) = false →
      exec (.freePattern h hd) s = .next (((u.updSleeve v.id fun v => { v with
          patterns := v.patterns.filter fun p => p.handle != hd
          raised := v.raised.filter fun x => x.pattern != hd }).updBolts (boltsIn v.bolts) fun _ b =>
            { b with resident := b.resident.filter (· != hd) }).done r {})) ∧
    (∀ cls kind e, s.actsAs h (.setRecipe cls kind e) u r → recipeFault kind e = none →
      exec (.setRecipe h cls kind e) s = .next ((u.updSleeve v.id fun v => { v with
        recServe := if cls then setAt v.recServe kind e else v.recServe
        recTrain := if cls then v.recTrain else setAt v.recTrain kind e
        raised := [] }).done r {})) ∧
    ∀ bolt lane size, s.actsAs h (.configStack bolt lane size) u r → v.bolts.getLsbD bolt = true →
      (u.otherRun r fun q => q.lanes.contains (4 * bolt + lane)) = false →
      pages size ≤ u.pagesLeft v + pages (look {} (u.bolt bolt).lanes lane).size →
      exec (.configStack h bolt lane size) s = .next (((u.updBolt bolt fun b =>
        { b with lanes := put {} b.lanes lane { size := size, frames := [] } }).forgetAreas [laneArea bolt lane]).done r {})

/-- MAP, UNMAP, SET_WINDOW, CLEAR_WINDOW (R246 to R248, R250, R404, R411): a mapping's leaves lie one page after another over
its range; an unmapped page's bytes read 0 afterwards and every other byte stays; a window is set or gone.
The page a mapping takes is a free value (log entry 19). -/
def Obligations.MappingAndWindowCommands : Prop :=
  ∀ (s u : State) (h : QHdr) (r : Run) (v : Sleeve), u.hasSleeve (ownerNum r.hdr.owner) v →
    (∀ base len page w node, s.actsAs h (.map base len page w node) u r → page ≤ 2 → len ≠ 0 → base % pageBytes page = 0 →
      len % pageBytes page = 0 → base + len ≤ 2 ^ 48 → (node = 0xFFFF ∨ page = 1) →
      (∀ l ∈ v.leaves, rangesMeet l.dva (pageBytes l.code) base len = false) →
      (let ls := newLeaves v (Config.dpaPick u.freeCtr) base len page w node
       u.chargedPages { v with leaves := v.leaves ++ ls } ≤ 16384 * v.memGib →
       ls.map (·.dva) = (List.range (len / pageBytes page)).map (fun i => base + pageBytes page * i) ∧
       (∀ l ∈ ls, l.code = page ∧ l.w = w ∧ l.owner = v.id) ∧
       exec (.map h base len page w node) s = .next ((({ u with freeCtr := u.freeCtr + 1 } : State).updSleeve v.id fun v =>
         { v with leaves := v.leaves ++ ls }).done r {}))) ∧
    (∀ base len, s.actsAs h (.unmap base len) u r → len ≠ 0 → endsOk v base len = true →
      let gone := v.leaves.filter fun l => decide (base ≤ l.dva ∧ l.dva + pageBytes l.code ≤ base + len)
      (u.otherRun r fun q => decide (q.hdr.owner = r.hdr.owner) &&
        (q.readGran.any (fun g => inLeaves gone (65536 * g)) || q.writeGran.any (fun g => inLeaves gone (65536 * g)))) = false →
      Completes (.unmap h base len) s fun t => ∃ w, t.hasSleeve (ownerNum r.hdr.owner) w ∧
        w.leaves = v.leaves.filter (fun l => !gone.contains l) ∧
        ∀ a, memGet w.mem a = if inLeaves gone a then 0 else memGet v.mem a) ∧
    (∀ n rd wr p b len, s.actsAs h (.setWindow n rd wr p b len) u r → n ≤ 15 → b % 4096 = 0 → len % 4096 = 0 → len ≤ 2 ^ 44 →
      v.pasids.contains p = true → (v.windows.any fun x => x.id == n) = false →
      exec (.setWindow h n rd wr p b len) s = .next ((u.updSleeve v.id fun v =>
        { v with windows := v.windows.filter (fun x => x.id != n) ++ [⟨n, p, b, len, rd, wr⟩] }).done r {})) ∧
    ∀ n, s.actsAs h (.clearWindow n) u r → (v.windows.any fun x => x.id == n) = true →
      exec (.clearWindow h n) s = .next (((u.updSleeve v.id fun v =>
        { v with windows := v.windows.filter fun x => x.id != n }).windowGone v.id n).done r {})

/-- CREATE_GROUP, DESTROY_GROUP and OPEN_INGEST (R290, R324, R334, R389, R406): off the manager a created group is not ready
yet and its block goes to the manager; a destroyed one is gone with its error memory, and with its job key where no other
group and no presented block names that key (R420); the ingest window is set, and the module reads its
share of the images that it is a seed of. -/
def Obligations.GroupAndIngestCommands : Prop :=
  ∀ (s u : State) (h : QHdr) (r : Run),
    (∀ v b, u.hasSleeve (ownerNum r.hdr.owner) v → s.actsAs h (.createGroup b) u r → b.members.contains u.domain.node = true →
      v.seam ≠ 0 → (∀ g ∈ u.groups, g.block.group ≠ b.group) → u.isManager = false →
      exec (.createGroup h b) s = .next ((({ u with
        groups := u.groups ++ [⟨v.id, b, false, false, [], []⟩]
        domain := { u.domain with
          collSeq := drop u.domain.collSeq b.group
          usedUp := u.domain.usedUp.filter fun x => x.1 != b.group } } : State).emit (.channel0 (.groupBlock b))).done r {})) ∧
    (∀ v g, u.hasSleeve (ownerNum r.hdr.owner) v → s.actsAs h (.destroyGroup g) u r →
      (u.groups.any fun x => x.block.group == g && x.sleeve == v.id) = true →
      (u.otherRun r fun q => q.groups.contains g || decide (q.coll = some g)) = false →
      Completes (.destroyGroup h g) s fun t =>
        t.groups = u.groups.filter (fun x => x.block.group != g) ∧
        (∀ k ∈ t.sec.keys, k ∈ u.sec.keys) ∧ (∀ k ∈ u.sec.keys, k.kind ≠ 2 → k ∈ t.sec.keys) ∧
        (∀ x ∈ u.groups, x.block.group = g → (∀ y ∈ t.groups, y.block.keyId ≠ x.block.keyId) →
          (∀ y ∈ u.domain.presented, y.2.keyId ≠ x.block.keyId) → ∀ k ∈ t.sec.keys, ¬ (k.kind = 2 ∧ k.handle = x.block.keyId)) ∧
        ∃ w, t.hasSleeve (ownerNum r.hdr.owner) w ∧ w.e1Posts = v.e1Posts.filter fun e => e.1 != g) ∧
    ∀ p b n, s.actsAs h (.openIngest p b n) u r →
      exec (.openIngest h p b n) s = .next (
        ((List.range 4).foldl State.seedRead { u with bases := { u.bases with ingest := some (p, b, n) } }).done r {})

/-- SNAPSHOT and SET_STITCH, SET_FLOOR (R24, R33, R456, R491, R492): an armed instant; a domain snapshot's TRIGGER word; a
length that takes effect with the next stitch; a floor that takes effect at the next edge. -/
def Obligations.SnapshotAndClockCommands : Prop :=
  ∀ (s u : State) (h : QHdr) (r : Run),
    (∀ id target off, s.actsAs h (.snapshot id target off) u r → off < snapUnits u.time.len → u.time.stitch.toNat < target →
      exec (.snapshot h id target off) s = .next (({ u with
        snap := { u.snap with armed := u.snap.armed ++ [(target, off, id, 1)] } } : State).done r {})) ∧
    (∀ id target off, s.actsAs h (.snapshotDomain id target off) u r → r.hdr.owner = .admin → u.isManager = true →
      off < snapUnits u.time.len → u.time.stitch.toNat + 2 ≤ target →
      Completes (.snapshotDomain h id target off) s fun t =>
        t.out = u.out ++ [.tickWord 0xA3 (triggerWordOf id target off)] ∧
        t.snap.armed = u.snap.armed ++ (if u.snap.ctrl.getLsbD 4 then [(target, off, id, 4)] else [])) ∧
    (∀ code, s.actsAs h (.setStitch code) u r → (u.domain.standalone = true ∨ u.domain.role = .topManager) →
      u.reservesAfter r.id u.time.stitch.toNat false = false → u.collsAfter u.time.stitch.toNat = false → u.mayReadmit = false →
      Completes (.setStitch h code) s fun t =>
        t.time.lenNext = some (code % 4) ∧ t.time.len = u.time.len ∧
        t.out = u.out ++ (if u.domain.standalone then [] else [.channel0 (.stitchLength (u.time.stitch.toNat + 1) (code % 4))])) ∧
    ∀ f, s.actsAs h (.setFloor f) u r → 8 ≤ f → f ≤ 15 →
      let now := u.time.floorNext.getD u.time.floor
      let after := u.time.stitch.toNat
      (now < f → u.sustains f = true ∧ u.hotHold = false) →
      (f < now → (∀ q ∈ u.runs, q.id ≠ r.id → (q.holdsAfter after = false ∨ q.hdr.bolts = 0) ∧ (q.holds after = false ∨ q.refresh = [])) ∧
        ∀ b < 16, ∀ k ∈ (u.bolt b).pockets, k.2.valid = true ∨ k.2.fillFor ≤ after) →
      exec (.setFloor h f) s = .next (({ u with time := { u.time with floorNext := some f } } : State).done r {})

/-- TELEMETRY of every KIND from the admin queue, and KIND 2 from a sleeve's (R284, R331, R389, R418, R471, R485): the report
goes to the destination. -/
def Obligations.TelemetryCommands : Prop :=
  ∀ (s u : State) (h : QHdr) (r : Run) (dest : Addr) (len : Nat),
    (∀ e ∈ telemetryRows, r.hdr.owner = .admin → s.actsAs h (.telemetry e.2 dest len) u r →
      u.plainFault { r with body := .telemetry e.2 dest len } = none →
      exec (e.1 h dest len) s = .next (u.done r { writes := [.hostWrite u.sessionPasid dest.addr (u.report .admin e.2 len) none] })) ∧
    ∀ n, r.hdr.owner = .sleeve n → s.actsAs h (.telemetry 2 dest len) u r →
      u.plainFault { r with body := .telemetry 2 dest len } = none →
      exec (.telemetrySlowdown h dest len) s = .next (
        let d := u.deliver (u.winsOf r) n dest (u.report (.sleeve n) 2 len)
        d.1.done r { writes := d.2 })

/-! ### Pattern words: the sequencer's own -/

/-- A pattern-word row whose turn has not come changes nothing: the bolt's sequencer may not issue (R221), or the word at its
address is of another row (the model's choice, log entry 2). -/
def Obligations.WordOutOfTurnChangesNothing : Prop :=
  ∀ (c : Instr) (s : State) (b cls op : Nat), wordRow c = some (b, cls, op) →
    (s.issuable b = none ∨ ∃ B r w, s.issuable b = some (B, r, w) ∧ ¬((wordHdr w).cls = cls ∧ (wordHdr w).op = op)) →
    exec c s = .next s

/-- STAT, SNAP and LOOP (R214, R218, R219, R227): STAT makes TAG a privileged tensor; SNAP fires the trigger only where
SNAP_CTRL arms the pattern source, and latches only when nothing is latched (what it samples of the matrix units is the
model's free choice, log entry 27); LOOP sets its rod to 0 and enters the body, or with a
scalar count of 0 goes on behind it. At a body's last word the rod rises while it stays below the count, then the
loop closes and the rod keeps its value. -/
def Obligations.StatSnapLoop : Prop :=
  (∀ (s : State) (b : Nat) (B : Bolt) (r : Run) (w : PWord),
    (Issues s b B r w 6 0 → Completes (.stat b) s fun t => OnlyBolt b s t ∧ Passed B w (t.bolt b) ∧
      t.bolt b = { B with
        privTags := ((statWord w).tag, (statWord w).histBase) :: B.privTags
        issued := (t.bolt b).issued, flags := (t.bolt b).flags, pc := (t.bolt b).pc, loops := (t.bolt b).loops
        rods := (t.bolt b).rods }) ∧
    (Issues s b B r w 0xA 0 → Completes (.snap b) s fun t =>
      (∀ x, x ≠ b → t.bolt x = { s.bolt x with mu := (t.bolt x).mu }) ∧ Passed B w (t.bolt b) ∧ (t.bolt b).mem = B.mem ∧
      (s.snap.latched = true → ∀ x, x ≠ b → t.bolt x = s.bolt x) ∧
      (s.snap.ctrl.getLsbD 2 = false → OnlyBolt b s t) ∧
      (s.snap.ctrl.getLsbD 2 = true → s.snap.latched = true →
        t.snap = { s.snap with missed := if s.snap.missed = BitVec.allOnes 32 then s.snap.missed else s.snap.missed + 1 }) ∧
      (s.snap.ctrl.getLsbD 2 = true → s.snap.latched = false →
        t.snap = { s.snap with latched := true, snapId := snapWordId w, source := 2, stitch := s.time.stitch
                               window := t.snap.window })) ∧
    (Issues s b B r w 0xB 0 →
      let k := loopWord w
      let n := if k.scalar then (B.scalar k.countS).toNat else k.count
      Completes (.loop b) s fun t => OnlyBolt b s t ∧ (t.bolt b).issued = B.issued + 1 ∧ (t.bolt b).mem = B.mem ∧
        (n ≠ 0 → (t.bolt b).rod k.rod = 0 ∧ (∀ x, x ≠ k.rod → (t.bolt b).rod x = B.rod x) ∧ (t.bolt b).pc = B.pc + 1 ∧
          (t.bolt b).loops = (B.pc, k.rod, k.last, n) :: B.loops) ∧
        (n = 0 →
          let C := ({ B with rods := put 0 B.rods k.rod 0 } : Bolt).after k.last
          (t.bolt b).pc = C.pc ∧ (t.bolt b).loops = C.loops ∧ (t.bolt b).rods = C.rods))) ∧
  ∀ (B : Bolt) (first rod last n : Nat) (rest : List (Nat × Nat × Nat × Nat)), B.loops = (first, rod, last, n) :: rest →
    (B.rod rod + 1 < n → (B.after last).pc = first + 1 ∧ (B.after last).rod rod = B.rod rod + 1 ∧ (B.after last).loops = B.loops) ∧
    (n ≤ B.rod rod + 1 → (∀ l ∈ rest.head?, l.2.2.1 ≠ last) →
      (B.after last).pc = last + 1 ∧ (B.after last).rods = B.rods ∧ (B.after last).loops = rest) ∧
    ∀ a, a ≠ last → (B.after a).pc = a + 1 ∧ (B.after a).rods = B.rods ∧ (B.after a).loops = B.loops

/-- WAIT and DRAIN (R217): satisfied, the word passes, and under CLEAR each selected flag loses COUNT; unsatisfied, the
sequencer stalls at it, and its release lets it pass once the flags hold COUNT, or every primitive has completed. -/
def Obligations.WaitAndDrain : Prop :=
  ∀ (s : State) (b : Nat) (B : Bolt) (r : Run) (w : PWord),
    (Issues s b B r w 9 0 →
      let k := waitWord w
      ((∀ f < 8, k.mask.getLsbD f = true → k.count ≤ look 0 B.flags f) → Completes (.wait b) s fun t =>
        OnlyBolt b s t ∧ (t.bolt b).issued = B.issued + 1 ∧ (t.bolt b).stall = .none ∧ (t.bolt b).pc = (B.after B.pc).pc ∧
        (t.bolt b).mem = B.mem ∧
        ((wordHdr w).setf = none → ∀ f, look 0 (t.bolt b).flags f =
          if k.clear = true ∧ f < 8 ∧ k.mask.getLsbD f = true then look 0 B.flags f - k.count else look 0 B.flags f)) ∧
      ((∃ f < 8, k.mask.getLsbD f = true ∧ look 0 B.flags f < k.count) →
        exec (.wait b) s = .next (s.setBolt b { B with stall := .wait k.mask k.count k.clear }))) ∧
    (Issues s b B r w 9 1 →
      (B.idle = true → Completes (.drain b) s fun t => OnlyBolt b s t ∧ Passed B w (t.bolt b)) ∧
      (B.idle = false → exec (.drain b) s = .next (s.setBolt b { B with stall := .drain }))) ∧
    ((s.liveRun b).isSome = true → s.time.hem = false → B = s.bolt b → B.pattern[B.pc]? = some w →
      (∀ m n c, B.stall = .wait m n c → (∀ f < 8, m.getLsbD f = true → n ≤ look 0 B.flags f) →
        Completes (.waitRelease b) s fun t => OnlyBolt b s t ∧ (t.bolt b).stall = .none ∧ (t.bolt b).pc = (B.after B.pc).pc ∧
          ((wordHdr w).setf = none → ∀ f, look 0 (t.bolt b).flags f =
            if c = true ∧ f < 8 ∧ m.getLsbD f = true then look 0 B.flags f - n else look 0 B.flags f)) ∧
      (B.stall = .drain → B.idle = true →
        Completes (.waitRelease b) s fun t => OnlyBolt b s t ∧ (t.bolt b).stall = .none ∧ Passed B w (t.bolt b)))

/-- BARRIER (R224, R326): OP 0 stalls the bolt; its release reaches every joining bolt once all wait at the same barrier and no
STORE of theirs is in a streamer. OP 1 stalls the bolt too; when the module's last bolt has arrived, a module whose subtree is
itself sends one ARRIVE word with count 1.
The size of the subtree is a free value (log entry 25). -/
def Obligations.BarrierWords : Prop :=
  ∀ (s : State) (b : Nat) (B : Bolt) (r : Run) (w : PWord),
    (Issues s b B r w 8 0 →
      exec (.barrierBolts b) s = .next (s.setBolt b { B with stall := .barrier (barrierWord w).id (barrierWord w).mask })) ∧
    (∀ id mask, s.time.hem = false → s.liveRun b = some r → (s.bolt b).stall = .barrier id mask →
      (∀ x < 16, mask.getLsbD x = true →
        (s.bolt x).run = some r.id ∧ (s.bolt x).stall = .barrier id mask ∧ (s.bolt x).storing = false) →
      Completes (.barrierRelease b) s fun t => t = { s with bolts := t.bolts } ∧
        ∀ x, if x < 16 ∧ mask.getLsbD x = true then
            (t.bolt x).stall = .none ∧ (∀ u, (s.bolt x).pattern[(s.bolt x).pc]? = some u → Passed (s.bolt x) u (t.bolt x))
          else t.bolt x = s.bolt x) ∧
    (Issues s b B r w 8 1 →
      let id := (barrierWord w).id
      let u := s.setBolt b { B with stall := .collective id }
      (u.moduleArrived r id = false → exec (.barrierCollective b) s = .next u) ∧
      (∀ coll, u.moduleArrived r id = true → r.collNo = some coll → s.collMembership coll = none →
        arriveCount s.domain.barriers coll id = 0 →
        Completes (.barrierCollective b) s fun t =>
          t = { u with out := t.out, domain := { s.domain with barriers := t.domain.barriers } } ∧
          t.out = s.out ++ (if Config.subtreeMembers s.domain.plan coll.toNat ≤ 1
            then [.tickWord 0xA2 (barrierTick 0 id coll.toNat 1 s.domain.node)] else [])))

/-- The seven BRANCH rows (R220, R228, R229): a condition that holds sends issue to TARGET, the loops as they are; one that
does not lets issue go on. END stops issue; the command ends on the bolt once its primitives have completed. -/
def Obligations.BranchWords : Prop :=
  ∀ (s : State) (b : Nat) (B : Bolt) (r : Run) (w : PWord),
    let k := branchWord w
    let flagged (C : Bolt) : Prop := ∀ f, look 0 C.flags f =
      if (wordHdr w).setf = some f then (look 0 B.flags f + 1) % 65536 else look 0 B.flags f
    let taken (t : State) : Prop := OnlyBolt b s t ∧ flagged (t.bolt b) ∧
      t.bolt b = { B with pc := k.target, issued := B.issued + 1, flags := (t.bolt b).flags }
    let falls (t : State) : Prop := OnlyBolt b s t ∧ Passed B w (t.bolt b) ∧ (t.bolt b).mem = B.mem
    (Issues s b B r w 0xC 0 → ∃ t, exec (.branchAlways b) s = .next t ∧ taken t) ∧
    (∀ e ∈ branchRows, Issues s b B r w 0xC e.2.1 →
      let l := if k.leftScalar then (B.scalar k.left).toNat else B.rod (k.left % 16)
      let x := if k.rightScalar then (B.scalar k.rightS).toNat else k.imm
      ∃ t, exec (e.1 b) s = .next t ∧ if e.2.2 l x = true then taken t else falls t) ∧
    (Issues s b B r w 0xC 5 →
      (∀ l ∈ B.loops, l.2.1 = k.left → l.2.2.2 ≤ B.rod k.left + 1 → ∃ t, exec (.branchLast b) s = .next t ∧ taken t) ∧
      ((∀ l ∈ B.loops, l.2.1 = k.left → B.rod k.left + 1 < l.2.2.2) → ∃ t, exec (.branchLast b) s = .next t ∧ falls t)) ∧
    (Issues s b B r w 0xC 15 →
      (B.idle = false → ∃ t, exec (.branchEnd b) s = .next t ∧ flagged (t.bolt b) ∧
        t.bolt b = { B with ended := true, issued := B.issued + 1, flags := (t.bolt b).flags } ∧
        ((∀ x < 16, ∀ id, (s.bolt x).stall ≠ .collective id) → OnlyBolt b s t)) ∧
      (B.idle = true → ∃ t, exec (.branchEnd b) s = .next t ∧
        (∃ q, t.findRun r.id = some q ∧ b ∈ q.ended ∧
          (r.hdr.bolts = 1#16 <<< b → q.phase = .finished)) ∧ (t.bolt b).run ≠ some r.id))

/-! ### Pattern words: vector, rotation, matrix and rail -/

/-- VECTOR words other than the two-ply add (R79, R80, R210): each element of a word's value is the row's operation on the
elements of A, B and C, each row reduction gives one value a row. A word with CHAIN leaves the values in the tally for the
next word; the last word of the primitive hands them off to D under TAG and KIND, and joins the vector unit's queue with the
flags that the chain's words add to (R206). -/
def Obligations.VectorWords : Prop :=
  ∀ (s : State) (b : Nat) (B : Bolt) (r : Run) (w : PWord), Issues s b B r w 2 0 → B.room [.vector] = true →
    let v := vectorWord w
    let rd := s.reader r.base B
    let a := vecA rd B v (B.chain.getD [])
    let tags := vecTags (s.readsPatch r.base B) B v B.chainTags
    let handsOff (c : Instr) (rows : List (List Machine.Num)) (drawn : List (List (BitVec 16))) : Prop :=
      v.chain = false →
        outside (vecReads B v ++ (B.view v.d).extents (r.recipe v.kind).format rows.length (rows.headD []).length) = none →
        ∃ C, Issued { B with chain := none } w [.vector] B.chainFlags B.pc C ∧ C.mem = B.mem ∧ C.chain = none ∧ C.chainFlags = [] ∧
          exec c s = .next ((s.setBolt b C).handOff b r (B.view v.d)
            ⟨v.tag, v.kind, s.rotationOf r B (r.recipe v.kind) v.consEn v.consS, fun _ => laneUnitVector, [], drawn⟩
            (List.range rows.length) rows)
    (∀ e ∈ vectorElementRows, v.func = e.2.1 →
      let rows := vecValue rd B v (B.chain.getD [])
      rows.length = a.length ∧
      (∀ i j, i < a.length → j < (a.getD i []).length → entry rows i j = e.2.2 (entry a i j) (entry (vecB rd B v) i j) (entry (vecC rd B v) i j)) ∧
      (v.chain = true → outside (vecReads B v) = none → Completes (e.1 b) s fun t => OnlyBolt b s t ∧
        t.bolt b = { B with
          chain := some rows, chainTags := tags, chainFlags := B.chainFlags ++ (wordHdr w).setf.toList
          pc := (B.after B.pc).pc, loops := (B.after B.pc).loops, rods := (B.after B.pc).rods }) ∧
      handsOff (e.1 b) rows tags) ∧
    ∀ e ∈ vectorRowRows, v.func = e.2.1 → v.chain = false → (∀ l ∈ a, l ≠ []) →
      let sums := a.map fun l => e.2.2 (l.headD zero) l.tail
      if (B.view v.d).pitch = 0 then handsOff (e.1 b) [sums] [tags.flatten] else handsOff (e.1 b) (sums.map fun x => [x]) tags

/-- The hand-off of a tensor to the local store in a plain format rounded to nearest, without rotation (R68, R182, R185,
R204, R205): each row's bytes are its values times 2^(-X), rounded to the format, at the row's place; every other byte
stays; the tag remembers the format and the scale byte. -/
def Obligations.HandOffStoresRounded : Prop :=
  ∀ (s : State) (b : Nat) (r : Run) (v : View) (h : HandOff) (rows : List (List Machine.Num)) (n : Nat),
    let rcp := r.recipe h.kind
    let f := rcp.format
    let rb := rowBytes f n
    (∀ row ∈ rows, row.length = n) → isMx f = false → rcp.stochastic = false → h.rot = 0 → (v.pitch = 0 ∨ rb ≤ v.pitch) →
    let hist := match s.sleeve (ownerNum r.hdr.owner) with | some q => histOf q.hist h.tag | none => []
    let x := (plainScale rcp f hist (amaxOf rows.flatten) (r.tenantRows && isPlain f && decide (rcp.scaleMode = 0))).1
    let t := s.handOff b r v h (List.range rows.length) rows
    OnlyBoltAndRuns b s t ∧
    (∀ i < rows.length, memRead (t.bolt b).mem (v.row rb i) rb =
      packRow f ((rows.getD i []).map fun y => (handOffElem f .nearest (y.scale (-x))).1)) ∧
    (∀ a, (∀ i < rows.length, a < v.row rb i ∨ v.row rb i + rb ≤ a) → memGet (t.bolt b).mem a = memGet (s.bolt b).mem a) ∧
    (∃ i ∈ (t.bolt b).tagInfo.head?, i.tag = h.tag ∧ i.fmt = f ∧ i.scale.toNat = scaleByte x % 256 ∧ i.rot = 0) ∧
    (t.bolt b).pc = (s.bolt b).pc ∧ (t.bolt b).rods = (s.bolt b).rods ∧ (t.bolt b).flags = (s.bolt b).flags

/-- TWO_PLY_ADD and ROTATE (R76 to R78, R185, R205, R210, R211): the two-ply add puts each new face and lining in place, an
element whose sum is not finite keeping both, and sets TWOPLY when there is one; a row with an output line that draws on two
line tags stops the command with 0x30. ROTATE hands off the transform of every row. -/
def Obligations.TwoPlyAndRotate : Prop :=
  ∀ (s : State) (b : Nat) (B : Bolt) (r : Run) (w : PWord),
    (Issues s b B r w 2 0 → (vectorWord w).func = 0x19 → B.room [.vector] = true →
      let v := vectorWord w
      let vf := B.view v.c
      let vl := B.view v.d
      let inc := (vecA (s.reader r.base B) B v (B.chain.getD [])).map (·.map toTally)
      let face := readHalves B.mem vf v.rows v.cols
      let lining := readHalves B.mem vl v.rows v.cols
      let new (i j : Nat) : Option (BitVec 16 × BitVec 16) :=
        Sys2Proof.Machine.twoPlyAdd (entry inc i j) ((face.getD i []).getD j 0) ((lining.getD i []).getD j 0)
      (∀ i, plyMixed (plyDraws B v vf ++ plyDraws B v vl) = some i → exec (.twoPlyAdd b) s = .next (s.haltRun r 0x30 i b)) ∧
      (plyMixed (plyDraws B v vf ++ plyDraws B v vl) = none → v.rows = 1 → inc.map (·.length) = [v.cols] →
      outside (vecReads B v ++ vf.extents 10 v.rows v.cols ++ vl.extents 10 v.rows v.cols) = none →
      (vf.addr + 2 * v.cols ≤ vl.addr ∨ vl.addr + 2 * v.cols ≤ vf.addr) →
      Completes (.twoPlyAdd b) s fun t => OnlyBoltAndRuns b s t ∧
        (∀ j < v.cols, ∀ fl, new 0 j = some fl →
          (readHalves (t.bolt b).mem vf 1 v.cols).map (·.getD j 0) = [fl.1] ∧
          (readHalves (t.bolt b).mem vl 1 v.cols).map (·.getD j 0) = [fl.2]) ∧
        (∀ j < v.cols, new 0 j = none →
          (readHalves (t.bolt b).mem vf 1 v.cols).map (·.getD j 0) = [(face.getD 0 []).getD j 0] ∧
          (readHalves (t.bolt b).mem vl 1 v.cols).map (·.getD j 0) = [(lining.getD 0 []).getD j 0]) ∧
        (∀ a, (a < vf.addr ∨ vf.addr + 2 * v.cols ≤ a) → (a < vl.addr ∨ vl.addr + 2 * v.cols ≤ a) →
          memGet (t.bolt b).mem a = memGet B.mem a) ∧
        ∃ q, t.findRun r.id = some q ∧
          q.watch = Sys2Proof.Machine.seen r.watch 1 (decide (∃ j < v.cols, new 0 j = none)))) ∧
    (Issues s b B r w 3 0 → B.room [.rotation] = true →
      let k := rotateWord w
      let vs := B.view k.src
      let rcp := r.recipe k.kind
      let rot := s.rotationOf r B rcp k.consEn k.consS
      outside (vs.extents vs.fmt k.rows k.cols ++ (B.view k.dst).extents rcp.format k.rows k.cols) = none → rot ≠ 0 →
      ∃ C, Issued B w [.rotation] [] B.pc C ∧ C.mem = B.mem ∧
        exec (.rotate b) s = .next ((s.setBolt b C).handOff b r (B.view k.dst)
          ⟨k.tag, k.kind, rot, fun _ => laneUnitRotation, [], B.rowTags vs k.rows k.cols⟩ (List.range k.rows) ((readTensor B.mem vs k.rows k.cols).map (rotateRow k.log2l)))) ∧
    (Issues s b B r w 3 0 → B.room [.rotation] = true →
      let k := rotateWord w
      let vs := B.view k.src
      let rcp := r.recipe k.kind
      outside (vs.extents vs.fmt k.rows k.cols ++ (B.view k.dst).extents rcp.format k.rows k.cols) = none →
      s.rotationOf r B rcp k.consEn k.consS = 0 →
      ∃ C, Issued B w [.rotation] [] B.pc C ∧
        Completes (.rotate b) s fun t => (t.bolt b).mem = ((((s.setBolt b C).handOff b r (B.view k.dst)
          ⟨k.tag, k.kind, 0, fun _ => laneUnitRotation, [], B.rowTags vs k.rows k.cols⟩ (List.range k.rows)
          ((readTensor B.mem vs k.rows k.cols).map (rotateRow k.log2l))).bolt b).mem) ∧
          ∀ i ∈ (t.bolt b).tagInfo.head?, i.tag = k.tag ∧ i.rot = k.log2l)

/-- MATRIX words (R64, R90, R91, R94, R98 to R103, R105): each output is the contraction of a row of P with a column of Q in
ascending order, a partial K pass filled with zeros and a position outside the block adding +0, added into the held tally
under CONT; under HOLD the tallies stay in the arrays, else, with no RAIL and no epilogue, they hand off to OUT. A
convolution takes its rows of P from its input block. Each element is rounded on the lanes of the array that runs its work unit
(R73). Backward hands off dX = dY × Wᵀ and, where the mask names a block, the
trained rows of dW = Xᵀ × dY; of the other rows of X and dW it touches no byte. -/
def Obligations.MatrixWords : Prop :=
  ∀ (s : State) (b : Nat) (B : Bolt) (r : Run) (w : PWord),
    let k := matrixWord w
    let us := (arraysIn k.mask).map UnitId.matrix
    let dot (acc : Option Machine.Num) (xs : List (Option Machine.Num)) (ws : List Machine.Num) : Machine.Num :=
      (contractProducts acc (fillPass (List.zipWith fillMul xs ws))).getD zero
    let arrays := arraysIn k.mask
    let h (unit : Nat → Nat) (drawn : List (List (BitVec 16))) : HandOff :=
      ⟨k.tag, k.kind, s.rotationOf r B (r.recipe k.kind) k.consEn k.consS, unit, [], drawn⟩
    let forward (c : Instr) (last : Nat) (ps : List (List (Option Machine.Num))) (drawn : List (List (BitVec 16)))
        (es : List (Nat × Nat)) : Prop :=
      B.room us = true → B.rail = none →
      let qs := qColumns B (B.view k.q) k.k k.n
      let before := heldFor B k
      let acc (i j : Nat) : Option Machine.Num := match before.bind fun x => x.vals[i]? with | some row => row[j]? | none => none
      let k0 := match before with | some x => x.k | none => 0
      let earlier := match before with | some x => x.drawn | none => []
      let tags := drawn.zipIdx.map fun e =>
        (e.1 ++ B.tagsIn (qExtents (B.view k.q) k.k k.n) ++ earlier.getD e.2 []).eraseDups
      ∃ out : List (List Machine.Num),
        (∀ i < k.m, ∀ j < k.n, entry out i j = dot (acc i j) (ps.getD i []) (qs.getD j [])) ∧
        (k.hold = true → outside es = none → Completes c s fun t => OnlyBolt b s t ∧ Issued B w us [] last (t.bolt b) ∧
          (t.bolt b).mem = B.mem ∧
          (t.bolt b).held = ⟨k.mask, k.m, k.n, k0 + k.k, k.out, out, tags⟩ :: B.held.filter fun x => x.mask != k.mask) ∧
        (k.hold = false → k.epi = 0 → outside (es ++ (B.view k.out).extents (r.recipe k.kind).format k.m k.n) = none →
          ∃ C, Issued B w us [] last C ∧ C.mem = B.mem ∧ C.held = B.held.filter (fun x => x.mask != k.mask) ∧
            exec c s = .next ((s.setBolt b C).handOff b r (B.view k.out)
              (h (foldUnit (modeOf (B.view k.p).fmt (B.view k.q).fmt) arrays k.m k.n) tags) (List.range k.m) out))
    (Issues s b B r w 0 0 →
      forward (.matrixPlain b) B.pc (given (readTensor B.mem (B.view k.p) k.m k.k)) (B.rowTags (B.view k.p) k.m k.k)
        ((B.view k.p).extents (B.view k.p).fmt k.m k.k ++ qExtents (B.view k.q) k.k k.n)) ∧
    (∀ x, Issues s b B r w 0 2 → B.pattern[B.pc + 1]? = some x →
      forward (.matrixConvolution b) (B.pc + 1) (convRows B k.p k.m k.k (extConv x))
        ((convReads B k.p k.m k.k (extConv x)).map B.tagsIn)
        (convExtents B k.p k.m k.k (extConv x) ++ qExtents (B.view k.q) k.k k.n)) ∧
    ∀ x, Issues s b B r w 0 1 → B.pattern[B.pc + 1]? = some x → B.room us = true → B.rail = none → k.epi = 0 →
      let e := extBackward x
      let vx := B.view e.x
      let dy := readTensor B.mem (B.view k.p) k.m k.n
      let wt := qColumns B (B.view k.q) k.n k.k
      let tr := trainedRows (B.scalar e.maskS) k.k
      let tags := B.rowTags (B.view k.p) k.m k.n
      let qTags := B.tagsIn (qExtents (B.view k.q) k.n k.k)
      let hw : HandOff := ⟨e.dwTag, e.dwKind, s.rotationOf r B (r.recipe e.dwKind) k.consEn k.consS,
        fun i => dealUnit arrays (B.scalar e.maskS) k.k (tr.getD (i / k.n) 0 / 128), [], tr.map fun i => B.tagsIn (vx.rowExtents k.m i) ++ tags.flatten⟩
      outside ((B.view k.p).extents (B.view k.p).fmt k.m k.n ++ qExtents (B.view k.q) k.n k.k ++ vx.rowsAt vx.fmt tr k.m ++
        (B.view k.out).extents (r.recipe k.kind).format k.m k.k ++
        (B.view e.dw).rowsAt (r.recipe e.dwKind).format tr k.n) = none →
      ∃ (C : Bolt) (dx dw : List (List Machine.Num)), Issued B w us [] (B.pc + 1) C ∧ C.mem = B.mem ∧
        (∀ i < k.m, ∀ j < k.k, entry dx i j = dot none ((dy.getD i []).map some) (wt.getD j [])) ∧
        (∀ i < tr.length, ∀ j < k.n, entry dw i j =
          dot none ((List.range k.m).map fun y =>
              some ((readRow B.mem vx (vx.row (rowBytes vx.fmt k.m) (tr.getD i 0)) k.m).getD y zero))
            ((List.range k.m).map fun y => (dy.getD y []).getD j zero)) ∧
        let t := (s.setBolt b C).handOff b r (B.view k.out) (h (fun i => dealUnit arrays (B.scalar e.maskS) k.k (i % k.k / 128))
          (tags.map fun l => (l ++ qTags).eraseDups)) (List.range k.m) dx
        exec (.matrixBackward b) s = .next (if B.scalar e.maskS = 0 then t else t.handOff b r (B.view e.dw) hw tr dw)

/-- RAIL words and the side path (R113, R116, R119 to R123, R135, R136, R209, R221): a RAIL word waits for its MATRIX and issues with
it; a row that fails a check or sets a reserved bit, or one whose output indices reach, or whose expert is, a slot that its patch does not have, stops the command on every
bolt with its status and row. A row whose patch darns the layer runs from that copy, every other row from Q; a patch's row
gets the addend (s × (x × A)) × B under the latch's rounding; other rows get none. Which part of A an instruction that covers
part of its layer reads is the model's choice (log entry 87). -/
def Obligations.RailWords : Prop :=
  ∀ (s : State) (b : Nat) (B : Bolt) (r : Run) (w : PWord),
    (∀ c op, (c, op) ∈ [(Instr.railForward b, 0), (Instr.railBackward b, 1)] → Issues s b B r w 1 op → B.room [.rail] = true →
      Completes c s fun t => OnlyBoltAndRuns b s t ∧
        t.bolt b = { B with
          rail := some w, pc := (B.after B.pc).pc, loops := (B.after B.pc).loops, rods := (B.after B.pc).rods } ∧
        ∃ q, t.findRun r.id = some q ∧ q = { r with tenantRows := q.tenantRows }) ∧
    (∀ rw, B.rail = some rw → Issues s b B r w 0 0 → B.room ((arraysIn (matrixWord w).mask).map .matrix ++ [.rail]) = true →
      let k := matrixWord w
      let rl := railWord rw
      let rows := railRows B k.m
      let sel := s.slotSel r.base rl.layer (B.baseAt (B.view k.q).addr)
      (∀ i st, s.railFault r rows = some (i, st) → exec (.matrixPlain b) s = .next (s.haltRun r st i b)) ∧
      (∀ i, s.railFault r rows = none → s.slotFault r rl.layer k.n sel rows = some i →
        exec (.matrixPlain b) s = .next (s.haltRun r 0x37 i b)) ∧
      let es := (B.view k.p).extents (B.view k.p).fmt k.m k.k ++ qExtents (B.view k.q) k.k k.n ++
        (B.view k.out).extents (r.recipe k.kind).format k.m k.n
      (s.sideFault r rl.layer k.n sel rows = none → k.cont = false → k.hold = false → k.epi = 0 → outside es = none →
        let ps := given (readTensor B.mem (B.view k.p) k.m k.k)
        let qs (i : Nat) : List (List Machine.Num) := match s.sideDarn rl.layer sel (rows.getD i none) with
          | some d => darnForward 0 k.k k.n d
          | none => qColumns B (B.view k.q) k.k k.n
        let side := forwardSide B rl (s.layerFmt r.base rl.layer) (rows.map (s.sidePatch rl.layer)) ps 0 [] true
        ∃ (C : Bolt) (out : List (List Machine.Num)),
          Issued B w ((arraysIn k.mask).map .matrix ++ [.rail]) (wordHdr rw).setf.toList B.pc C ∧ C.mem = B.mem ∧
          C.rail = none ∧ C.latch = side.latch ∧
          (∀ i < k.m, ∀ j < k.n,
            let y := (contractProducts none (fillPass (List.zipWith fillMul (ps.getD i []) ((qs i).getD j [])))).getD zero
            (side.sums.getD i none = none → entry out i j = y) ∧
            ∀ a, side.sums.getD i none = some a → j < a.length → entry out i j = tallyAdd y (a.getD j zero)) ∧
          exec (.matrixPlain b) s = .next (((s.setBolt b C).updRun r.id fun q => { q with
              watch := Sys2Proof.Machine.seen q.watch 3 side.clamped }).handOff b r (B.view k.out)
            ⟨k.tag, k.kind, s.rotationOf r B (r.recipe k.kind) k.consEn k.consS, foldUnit (modeOf (B.view k.p).fmt (B.view k.q).fmt)
              (arraysIn k.mask) k.m k.n, selvagesOf rows, (B.rowTags (B.view k.p) k.m k.k).map fun l =>
              (l ++ B.tagsIn (qExtents (B.view k.q) k.k k.n)).eraseDups⟩ (List.range k.m) out))) ∧
    (∀ e : RowEntry, e.reserved = true → s.rowFault r e = some 0x72) ∧
    (∀ e : RowEntry, e.reserved = false →
      (s.rowFault r e = some 0x30 ↔ (e.pv = false ∧ e.selvage ≠ 0) ∨
        (e.pv = true ∧ ∃ p, s.patch e.patch = some p ∧ p.lost = false ∧ BitVec.ofNat 16 p.tenant ≠ e.selvage)) ∧
      (e.pv = true → (s.patch e.patch = none ∨ ∃ p, s.patch e.patch = some p ∧ p.lost = true) → s.rowFault r e = some 0x31) ∧
      (∀ p, e.pv = true → s.patch e.patch = some p → p.lost = false → BitVec.ofNat 16 p.tenant = e.selvage →
        (p.sleeve ≠ ownerNum r.hdr.owner ∨ p.base ≠ r.base → s.rowFault r e = some 0x32) ∧
        (p.sleeve = ownerNum r.hdr.owner → p.base = r.base → s.rowFault r e = none))) ∧
    ∀ (rl : RailWord) (lf k0 : Nat) (sides : List (Option (Patch × FactorPlace))) (x : List (List (Option Machine.Num))) (i : Nat),
      rl.reuse = false → x.length = sides.length → i < sides.length →
      let side := forwardSide B rl lf sides x k0 [] true
      (∀ p f, sides[i]? = some (some (p, f)) →
        let t := (List.range f.rs).map fun k =>
          (contractProducts none (List.zipWith fillMul (x.getD i []) ((rowA p f k).drop k0))).getD zero
        let latch := latchRow lf (t.map fun v => toTally (v.mul p.scale))
        side.sums.getD i none = some ((List.range f.n).map fun n => (contract none latch.1 (rowB p f n)).getD zero) ∧
        ∃ l, side.latch = some l ∧ l.rows.getD i [] = latch.1) ∧
      (sides[i]? = some none → side.sums.getD i none = none)

/-! ### Pattern words: streams, stack and reductions -/

/-- STREAM LOAD, STORE and TLOAD (R202, R205, R212, R243, R254, R258): a LOAD puts the source's bytes, as the command sees
them, at the destination; from a host window the bytes the host gave, from the base image its bytes, with the embedding
rows that a row's patch replaces (R134, R135; log entry 23); a STORE leaves the local
store and bastes its lines in device memory or at the I/O die, and waits while its lines would pass a die's full spill region
(the model's reading of R243, log entry 101); a TLOAD of a plain format puts element (i, j) at (j, i). -/
def Obligations.StreamWords : Prop :=
  ∀ (s : State) (b : Nat) (B : Bolt) (r : Run) (w : PWord), B.room [.streamer] = true →
    let k := streamWord w
    let src := B.view k.src
    let dst := B.view k.dst
    let ps := streamPieces src dst k.rows k.len
    let moved (data : List (List (Byte × BitVec 16))) : List Moved := ((List.zip ps data).map fun e => placePiece e.1.2.1 e.2).flatten
    let landed (t : State) (ms : List Moved) : Prop :=
      (∀ x, x ≠ b → t.bolt x = s.bolt x) ∧ t.runs = s.runs ∧ t.sleeves = s.sleeves ∧ Issued B w [.streamer] [] B.pc (t.bolt b) ∧
      ∀ a, memGet (t.bolt b).mem a = match ms.reverse.find? (fun m => m.addr == a) with
        | some m => m.byte
        | none => memGet B.mem a
    (∀ v host, Issues s b B r w 4 0 → src.space = 1 → s.hasSleeve (ownerNum r.hdr.owner) v →
      (s.readFault v r B.xlate (pieceLines ps)).2 = none →
      let ms := moved (ps.map fun p => (List.range p.2.2).map fun i => (devByte v r (p.1 + i), devTag v r ((p.1 + i) / 128)))
      (lineTags ms (some [])).isSome = true → outside (ps.map fun p => (p.2.1, p.2.2)) = none →
      Completes (.streamLoad b host) s fun t => landed t ms ∧ t.hif = s.hif) ∧
    (∀ v host, Issues s b B r w 4 0 → src.space = 2 → s.hasSleeve (ownerNum r.hdr.owner) v → s.hif.link = .l0 →
      s.hif.d3hot = false → s.missingPage v (hostReads ps) = none →
      let ms := moved ((dealBytes host (ps.map (·.2.2))).map fun l => l.map fun x => (x, 0))
      outside (ps.map fun p => (p.2.1, p.2.2)) = none →
      Completes (.streamLoad b host) s fun t => landed t ms ∧ t.hif = { s.hif with lineCache := t.hif.lineCache }) ∧
    (∀ n host, Issues s b B r w 4 0 → src.space = 3 → s.slotOf r.base = some n → meetsPage (s.slot n).lost ps = false →
      meetsPage (s.slot n).refetch ps = false →
      let image := ps.map fun p => (memRead (s.slot n).mem p.1 p.2.2).map fun x => (x, (0 : BitVec 16))
      let data := s.embedRows r.base B src.fmt ps image
      ((∀ e ∈ B.sideRows, e.1 = none) → data = image) ∧
      ((lineTags (moved data) (some [])).isSome = true → outside (ps.map fun p => (p.2.1, p.2.2)) = none →
        Completes (.streamLoad b host) s fun t => landed t (moved data) ∧ t.hif = s.hif)) ∧
    (Issues s b B r w 4 1 →
      let data := ps.map fun p => (memRead B.mem p.1 p.2.2).zipIdx.map fun e => (e.1, B.lineTag ((p.1 + e.2) / 128))
      let ms := moved data
      ∀ tags, lineTags ms (some []) = some tags → outside (ps.map fun p => (p.1, p.2.2)) = none →
      (∀ v, dst.space = 1 → s.hasSleeve (ownerNum r.hdr.owner) v → (s.translate v (tags.map fun e => e.1 * 128) B.xlate).2 = none →
        (∀ l ∈ v.leaves, l.node = 0xFFFF) →
        let new := (tags.filter fun e => (bastedLine r e.1).isNone).map fun e => (v.id, e.1)
        (s.spillFull new = true → exec (.streamStore b) s = .next s) ∧
        (s.spillFull new = false →
          Completes (.streamStore b) s fun t => OnlyBoltAndRuns b s t ∧ Issued B w [.streamer] [] B.pc (t.bolt b) ∧
            (t.bolt b).mem = B.mem ∧ ∃ q, t.findRun r.id = some q ∧
              q = { r with baste := { r.baste with dev := q.baste.dev, spilled := r.baste.spilled ++ s.spillsOf new } } ∧
              ∀ a, devByte v q a = match ms.reverse.find? (fun m => m.addr == a) with
                | some m => m.byte
                | none => devByte v r a)) ∧
      (dst.space = 2 →
        Completes (.streamStore b) s fun t => OnlyBoltAndRuns b s t ∧ Issued B w [.streamer] [] B.pc (t.bolt b) ∧
          (t.bolt b).mem = B.mem ∧
          t.findRun r.id = some { r with baste := { r.baste with host := r.baste.host ++ hostLines ps data } })) ∧
    ∀ v, Issues s b B r w 4 2 → src.space = 1 → s.hasSleeve (ownerNum r.hdr.owner) v → isMx src.fmt = false →
      8 ∣ k.rows * fmtWidth src.fmt → dst.pitch = 0 →
      let rb := rowBytes src.fmt k.len
      (s.readFault v r B.xlate (pieceLines ((List.range k.rows).map fun i => (src.row rb i, 0, rb)))).2 = none →
      (∀ a, devTag v r a = 0) → outside (dst.extents src.fmt k.len k.rows) = none →
      Completes (.streamTload b) s fun t => OnlyBolt b s t ∧ Issued B w [.streamer] [] B.pc (t.bolt b) ∧
        ∀ i < k.rows, ∀ j < k.len,
          (unpackRow src.fmt k.rows (memRead (t.bolt b).mem (dst.row (rowBytes src.fmt k.rows) j) (rowBytes src.fmt k.rows))).getD i 0 =
            (unpackRow src.fmt k.len ((List.range rb).map fun x => devByte v r (src.row rb i + x))).getD j 0

/-- Reads and writes that a stream may not make (R205, R212, R248, R249, R438, R482, R528): an address with no mapping stops
the command with 0x10 and the address, a bad table line with 0x14, a poisoned line with 0x15, a tenant line without its key
with 0x3B, a destination line drawing on two tags with 0x30 and the row; nothing is committed and every bolt of the command
goes on without it. TRANSLATION_WALK fills the translation cache, or stops the command the same way. -/
def Obligations.StreamStops : Prop :=
  (∀ (s : State) (b : Nat) (B : Bolt) (r : Run) (w : PWord) (v : Sleeve) (host : List Byte) (a : Nat) (st : Status),
    Issues s b B r w 4 0 → B.room [.streamer] = true → s.hasSleeve (ownerNum r.hdr.owner) v →
    let src := B.view (streamWord w).src
    let ps := streamPieces src (B.view (streamWord w).dst) (streamWord w).rows (streamWord w).len
    src.space = 1 → (s.readFault v r B.xlate (pieceLines ps)).2 = some (a, st) →
    Completes (.streamLoad b host) s fun t =>
      (∃ q, t.findRun r.id = some q ∧ q.stop = some ⟨st, BitVec.ofNat 56 (if st = 0x3B then 0 else a), b⟩) ∧
      (∀ x ∈ boltsIn r.hdr.bolts, (t.bolt x).run ≠ some r.id) ∧ t.sleeves = s.sleeves ∧ t.hif = s.hif) ∧
  (∀ (s : State) (v : Sleeve) (r : Run) (a : Nat),
    (s.walkBad v.id a (v.walkEnd a) = true → (s.readFault v r [] [a]).2 = some (a, 0x14)) ∧
    (v.leafAt a = none → s.walkBad v.id a (v.walkEnd a) = false → (s.readFault v r [] [a]).2 = some (a, 0x10)) ∧
    ∀ l, v.leafAt a = some l → v.walkEnd a = l.code ∧ (s.walkBad v.id a l.code = false →
      (a / 128 ∈ v.poison → (∀ y, bastedLine r (a / 128) = some y → y.whole = false) →
        (s.readFault v r [] [a]).2 = some (a, 0x15)) ∧
      (a / 128 ∉ v.poison → devTag v r (a / 128) ≠ 0 → (devTag v r (a / 128)).toNat ∉ s.heldTenants →
        (s.readFault v r [] [a]).2 = some (a, 0x3B)) ∧
      (a / 128 ∉ v.poison → devTag v r (a / 128) = 0 → (s.readFault v r [] [a]).2 = none))) ∧
  (∀ (s : State) (b : Nat) (r : Run) (v : Sleeve) (a : Nat), s.liveRun b = some r → s.hasSleeve (ownerNum r.hdr.owner) v →
    (∀ l, v.leafAt a = some l → l.dva ∉ (s.bolt b).xlate → s.walkBad v.id a l.code = false →
      exec (.translationWalk b a) s = .next (s.setBolt b { s.bolt b with xlate := (l.dva :: (s.bolt b).xlate).take 512 })) ∧
    (v.leafAt a = none → s.walkBad v.id a (v.walkEnd a) = false →
      exec (.translationWalk b a) s = .next ((s.setBolt b (s.bolt b)).haltRun r 0x10 a b)))

/-- STACK words (R145, R151 to R155, R162, R213, R526): PUSH puts a frame of the source's tokens at the end pointer of the lane
as the command sees it, which moves on by the frame's lines; POP moves the top pointer alone back to the previous frame (the
end pointer of a lane that stays with frames is the model's reading, log entry 92) and puts its rows into the local store under their SELVAGE; PUSH_T and POP_T do the
same with the rank latch and its row scales. A lane without room stops the command with 0x18, an empty one with 0x1A, a frame
that does not match with 0x19, a lost one with 0x63, a row map that sets a reserved bit with 0x72 (R14, R115), a line whose tag is not the row's SELVAGE with 0x30. -/
def Obligations.StackWords : Prop :=
  ∀ (s : State) (b : Nat) (B : Bolt) (r : Run) (w : PWord), B.room [.stack] = true →
    let k := stackWord w
    let v := B.view k.ls
    let ln := laneSeen B r b k.lane
    let fs := framesOf B r b k.lane
    let rows := stackRows B k
    let tokens := sumOf (rows.map (·.len))
    let full (fr : Frame) : Prop := B.laneSize k.lane < 128 * (ln.stop + fr.lines)
    let laneIs (t : State) (l : Lane) : Prop := ∃ q, t.findRun r.id = some q ∧ laneSeen (t.bolt b) q b k.lane = l ∧
      q = { r with baste := { r.baste with lanes := q.baste.lanes, region := q.baste.region, spilled := q.baste.spilled } }
    let pushed (t : State) (fr : Frame) : Prop := OnlyBoltAndRuns b s t ∧ Issued B w [.stack] [] B.pc (t.bolt b) ∧
      ∃ l, laneIs t l ∧ l.top = ln.stop ∧ l.stop = ln.stop + fr.lines ∧ ∃ f, l.frames = f :: fs ∧ f = { fr with prev := f.prev }
    let popped (t : State) (rest : List Frame) : Prop := OnlyBoltAndRuns b s t ∧ Issued B w [.stack] [] B.pc (t.bolt b) ∧
      ∃ l, laneIs t l ∧ l.frames = rest ∧ (rest = [] → l.top = 0 ∧ l.stop = 0) ∧ (rest ≠ [] → l.stop = ln.stop)
    (∀ e ∈ [(Instr.stackPush b, 0), (.stackPop b, 1), (.stackPushT b, 2), (.stackPopT b, 3)], Issues s b B r w 5 e.2 →
      mapReserved rows = true → exec e.1 s = .next (s.haltRun r 0x72 0 b)) ∧
    (mapReserved rows = false →
    (Issues s b B r w 5 0 →
      (∀ i, tagFault B v k.width (starts 0 rows) 0 = some i → exec (.stackPush b) s = .next (s.haltRun r 0x30 i b)) ∧
      (k.codec = 0 → tagFault B v k.width (starts 0 rows) 0 = none → outside (v.extents v.fmt tokens k.width) = none →
        ∃ fr : Frame, fr.tag = BitVec.ofNat 16 k.tag ∧ fr.codec = 0 ∧ fr.fmt = v.fmt ∧ fr.width = k.width ∧ fr.tokens = tokens ∧
          fr.rows.map (fun x => (x.selvage, x.len)) = rows.map (fun e => (e.selvage, e.len)) ∧ fr.lost = false ∧
          (full fr → exec (.stackPush b) s = .next (s.haltRun r 0x18 B.pc b)) ∧
          (¬ full fr → Completes (.stackPush b) s fun t => pushed t fr ∧ (t.bolt b).mem = B.mem))) ∧
    (Issues s b B r w 5 1 →
      (fs = [] → exec (.stackPop b) s = .next (s.haltRun r 0x1A B.pc b)) ∧
      ∀ f rest, fs = f :: rest →
        (f.lost = true → exec (.stackPop b) s = .next (s.haltRun r 0x63 k.lane b)) ∧
        (f.lost = false → popMatches f k tokens v.ownFmt = false → exec (.stackPop b) s = .next (s.haltRun r 0x19 B.pc b)) ∧
        (f.lost = false → popMatches f k tokens v.ownFmt = true → k.mapEn = false → k.widen = false →
          outside (v.extents f.fmt tokens f.width) = none →
          Completes (.stackPop b) s fun t => popped t rest ∧
            (∀ fr, f.rows = [fr] → fr.len = 1 → isMx f.fmt = false → 32 ∣ f.width →
              memRead (t.bolt b).mem v.addr (rowBytes f.fmt f.width) =
                packRow f.fmt ((openRow f.codec f.fmt f.width fr).1.take f.width)))) ∧
    (Issues s b B r w 5 2 → ∃ fr : Frame, fr.tag = BitVec.ofNat 16 k.tag ∧ fr.fmt = s.baseLatchFmt r.base ∧
      fr.rows.map (·.selvage) = rows.map (·.selvage) ∧
      (full fr → exec (.stackPushT b) s = .next (s.haltRun r 0x18 B.pc b)) ∧
      (¬ full fr → Completes (.stackPushT b) s fun t => pushed t fr ∧ (t.bolt b).latch = B.latch)) ∧
    (Issues s b B r w 5 3 →
      (fs = [] → exec (.stackPopT b) s = .next (s.haltRun r 0x1A B.pc b)) ∧
      ∀ f rest, fs = f :: rest → f.lost = false →
        ((f.tag ≠ BitVec.ofNat 16 k.tag ∨ f.fmt ≠ s.baseLatchFmt r.base) → exec (.stackPopT b) s = .next (s.haltRun r 0x19 B.pc b)) ∧
        (f.tag = BitVec.ofNat 16 k.tag → f.fmt = s.baseLatchFmt r.base → rowTableFault f.rows rows 0 = none →
          Completes (.stackPopT b) s fun t => popped t rest ∧ (t.bolt b).mem = B.mem ∧
            ∃ la, (t.bolt b).latch = some la ∧ la.rows.length = sumOf (f.rows.map (·.len)))))

/-- The lossless packing gives back what went in (R153, R156, R157): a row of whole groups of 32 elements, packed under codec
1 or 3 and read again, has the same element bits and block scales; and it never takes more lines than the row stored raw. -/
def Obligations.LosslessPackingRoundTrips : Prop :=
  ∀ (codec f g : Nat) (sel : BitVec 16) (len : Nat) (bits scales : List Nat),
    codec = 1 ∨ codec = 3 → f ≤ 10 → bits.length = 32 * g → (∀ x ∈ bits, x < 2 ^ fmtWidth f) →
    (if isMx f then scales.length = g ∧ ∀ x ∈ scales, x < 256 else scales = []) →
    let row := makeRow codec f sel len bits scales
    openRow codec f (32 * g) row = (bits, scales) ∧ row.selvage = sel ∧ row.len = len ∧
    ceilDiv row.payload.length 128 ≤ ceilDiv ((packRow f bits).length + scales.length) 128

/-- REDUCE words (R216, R291 to R294, R299 to R301, R313): the post joins the posts of its group with the bolt, tag and contents
of the word, one value per element in ascending element order, padded to whole blocks. In a BSR16 group whose earlier posts have
ended, the member's block exponents go to the ranks that its schedule names, and its shape list to the next rank; behind an earlier
post nothing goes out yet. A row map that sets a reserved bit stops the command with 0x72. -/
def Obligations.ReduceWords : Prop :=
  ∀ (s : State) (b : Nat) (B : Bolt) (r : Run) (w : PWord) (g : Group), B.room [.seam] = true →
    let k := reduceWord w
    s.group (ownerNum r.hdr.owner) k.group = some g → g.block.format ≠ 1 →
    let rank := s.rankIn g
    let node (x : Nat) : Nat := g.block.members.getD x 0xFFFF
    let posted (t : State) (p : Post) : Prop := t.posts.getLast? = some p ∧ t.posts.length = s.posts.length + 1 ∧
      (∀ q ∈ s.posts, (q.run ≠ r.id ∨ q.group ≠ k.group ∨ q.no ≠ p.no) → q ∈ t.posts) ∧
      p.run = r.id ∧ p.bolt = b ∧ p.group = k.group ∧ p.no = s.postCount r.id k.group ∧
      p.tag = k.tag ∧ p.prim = B.issued ∧ p.pass = .exponent ∧ p.blocks = p.vals.length ∧ p.emax = p.vals.map blockExp ∧
      p.tree = s.treeFor g.block p.blocks ∧
      Sends s t r.id (if (s.activePost k.group).isSome then [] else
        ((List.range p.blocks).filter fun i => expectedAdds g.block p.tree rank p.blocks i == 0).flatMap (fun i =>
          (receivers g.block p.tree rank p.blocks i false).map fun x =>
            (node x, .reduce g.block.group i (.exponent (expByte (p.emax.getD i (-127, false)))))) ++
        [(node (nextRank g rank), .reduce g.block.group 0 (.shape rank p.shape))]) ∧
      t = { s with bolts := t.bolts, runs := t.runs, posts := t.posts, out := t.out, domain := t.domain, ports := t.ports } ∧
      t.domain = { s.domain with sent := t.domain.sent, counters := t.domain.counters, nextMsg := t.domain.nextMsg } ∧
      (∀ x, x ≠ b → t.bolt x = s.bolt x) ∧ Issued B w [.seam] [] B.pc (t.bolt b) ∧ (t.bolt b).mem = B.mem
    (Issues s b B r w 7 0 →
      let map := rowMap B.mem (B.view k.mapCur).addr 65536
      let parts := (B.postable map).filterMap (s.patchPart r k.layer)
      (mapReserved map = true → exec (.reduceGradient b) s = .next (s.haltRun r 0x72 0 b)) ∧
      (mapReserved map = false → Completes (.reduceGradient b) s fun t => ∃ p, posted t p ∧ p.gradient = true ∧
        p.parts = parts.map (·.1.1) ∧ p.shape = parts.map (·.2) ∧ p.vals = parts.flatMap (fun q => padBlocks 64 q.1.2) ∧
        ∀ q ∈ p.parts, (B.ran = [] ∨ q.1 ∈ B.ran) ∧ ∃ e ∈ map, e.pv = true ∧ e.patch = q.1)) ∧
    (Issues s b B r w 7 1 →
      let v := B.view k.ls
      outside (v.extents v.fmt 1 (64 * k.blocks)) = none →
      Completes (.reduceTensor b) s fun t => ∃ p, posted t p ∧ p.gradient = false ∧ p.cursor = k.ls ∧ p.source = v.addr ∧
        p.shape = [.blocks k.blocks] ∧ p.blocks = k.blocks ∧
        ∀ i < k.blocks, ∀ j < 64, entry p.vals i j = (readRow B.mem v v.addr (64 * k.blocks)).getD (64 * i + j) zero)

/-- A pattern word that forms an address past the local store's 24 MiB stops by name (R200, R204; R231 refuses such a trace
before it runs): a fault, and no state is answered. -/
def Obligations.LocalStoreHasNoByteThere : Prop :=
  ∀ (s : State) (b : Nat) (B : Bolt) (r : Run) (w : PWord) (a : Nat),
    (Issues s b B r w 3 0 → B.room [.rotation] = true →
      let k := rotateWord w
      let vs := B.view k.src
      outside (vs.extents vs.fmt k.rows k.cols ++ (B.view k.dst).extents (r.recipe k.kind).format k.rows k.cols) = some a →
      exec (.rotate b) s = .fault (.localStoreAddress b a)) ∧
    (∀ e ∈ vectorElementRows, Issues s b B r w 2 0 → B.room [.vector] = true → (vectorWord w).func = e.2.1 →
      (vectorWord w).chain = true → outside (vecReads B (vectorWord w)) = some a →
      exec (e.1 b) s = .fault (.localStoreAddress b a)) ∧
    ∀ es, outside es = some a → ∃ e ∈ es, 24 * 1048576 < e.1 + e.2 ∧ a + 1 = e.1 + e.2

/-! ### Bolt events -/

/-- Events of a bolt (R35, R44, R89, R95, R96, R129, R206, R221, R462, R463): a completing primitive leaves its unit's queue, the
flag of SETF of each of its words rises by 1, and the meter counts on, by an amount of time that is free (log entry 10), to no
more than the cost; the meter's overrun bars the command from the bolt, posts OVERRUN with the cost of R45, leaves nothing that
the command handed off, and lets the next placed command start; a unit that issues nothing becomes cold; a stalled one ramps down from 75 %; a wholly cold bolt's queued rows
start at its slot at a quarter; the pockets that this stitch's reservation fills take the patch's committed version. A droop counts, stretches the clock and
in the hem defers a staged clock change; a recovery ends the stretching; exhausted slack on a bolt with a reservation is a
supply emergency there. -/
def Obligations.BoltEvents : Prop :=
  (∀ (s : State) (b : Nat) (u : UnitId) (p : Prim) (rest : List Prim) (r : Run),
    s.time.hem = false → s.liveRun b = some r → (s.bolt b).queue u = p :: rest → (s.bolt b).ended = false →
    let counted (t : State) : Prop := t = { s with bolts := t.bolts, freeCtr := s.freeCtr + 1 } ∧ (∀ x, x ≠ b → t.bolt x = s.bolt x) ∧
      (t.bolt b).meter = min (look 0 r.costs b) ((s.bolt b).meter + Config.elapsed s.freeCtr) ∧
      ∀ f, let n := (p.setf.toList ++ p.also).count f
        look 0 (t.bolt b).flags f = if n = 0 then look 0 (s.bolt b).flags f else (look 0 (s.bolt b).flags f + n) % 65536
    (u ∈ [UnitId.vector, .rotation, .streamer, .stack, .seam] → s.postPending b u = false →
      Completes (.primitiveComplete b u) s fun t => counted t ∧ (t.bolt b).queue u = rest ∧
        (∀ x, x ≠ u → (t.bolt b).queue x = (s.bolt b).queue x) ∧ (t.bolt b).mem = (s.bolt b).mem) ∧
    (∀ a < 4, u = .matrix a → (look {} (s.bolt b).mu a).cold = false →
      (∀ x < 4, x ≠ a → ∀ q ∈ (s.bolt b).queue (.matrix x), q.no ≠ p.no) → (∀ q ∈ rest, q.no ≠ p.no) →
      Completes (.primitiveComplete b u) s fun t => counted t ∧ (t.bolt b).queue u = rest ∧
        (t.bolt b).queue .rail = ((s.bolt b).queue .rail).filter (fun q => q.no != p.no) ∧
        (look {} (t.bolt b).mu a).level =
          (if rest = [] then 6 else if (look {} (s.bolt b).mu a).keeper then max 2 (look {} (s.bolt b).mu a).level else 8))) ∧
  (∀ (s : State) (b : Nat) (r : Run), s.time.hem = false → s.liveRun b = some r →
    let c := look 0 r.costs b
    Completes (.beadMeterOverrun b) s fun t =>
      (∃ q, t.findRun r.id = some q ∧ q.overrun = true ∧ b ∈ q.overOn ∧ look 0 q.measured b = c ∧ q.stop = none) ∧
      (t.bolt b).run ≠ some r.id ∧ (t.bolt b).mem = (s.bolt b).found ∧ (t.bolt b).tags = (s.bolt b).foundTags ∧
      (∀ x, x ≠ b → t.bolt x = s.bolt x) ∧ t.sleeves = s.sleeves ∧
      t.evq.waiting = s.evq.waiting ++ (if s.evq.en = true ∧ s.evq.mask.getLsbD 1 = false then
        [⟨1, ownerNum r.hdr.owner, s.time.stitch.toNat, detailOf [(16, 1, r.hdr.queue), (18, 2, r.hdr.slot), (20, 2, r.hdr.tag.toNat),
          (22, 1, b), (24, 2, c), (26, 2, min s.ahead.budget ((3 * c + 1) / 2))]⟩] else [])) ∧
  (∀ (s : State) (b a : Nat), let u := look {} (s.bolt b).mu a
    (u.cold = false → (u.keeper = true ∨ u.queue = []) → Completes (.matrixUnitCold b a) s fun t => OnlyBolt b s t ∧
      look {} (t.bolt b).mu a = { u with cold := true, level := 0, keeper := false, ramping := false } ∧
      ∀ x, x ≠ a → look {} (t.bolt b).mu x = look {} (s.bolt b).mu x) ∧
    (u.cold = false → Completes (.keeperStallTimeout b a) s fun t => OnlyBolt b s t ∧
      look {} (t.bolt b).mu a = { u with level := min u.level 6, keeper := true, dependent := false, ramping := u.stalled })) ∧
  (∀ (s : State) (b : Nat), s.time.hem = false → (s.liveRun b).isSome = true →
    (∀ a < 4, (look {} (s.bolt b).mu a).cold = true) → Completes (.boltStartSlot b) s fun t => OnlyBolt b s t ∧
      ∀ a < 4, look {} (t.bolt b).mu a = if (look {} (s.bolt b).mu a).queue = [] then look {} (s.bolt b).mu a
        else { look {} (s.bolt b).mu a with cold := false, level := 2, keeper := false }) ∧
  (∀ (s : State) (b n : Nat), let B := s.bolt b
    exec (.droopDetect b n) s = .next (s.setBolt b { B with
      droops := B.droops + 1, stretching := true, stretch := B.stretch + n
      deferred := B.deferred || (s.time.hem && decide (B.staged ≠ B.clock)) }) ∧
    exec (.droopRecover b) s = .next (s.setBolt b { B with stretching := false }) ∧
    (s.time.hem = false → s.reservedOn b s.time.stitch.toNat = true →
      exec (.droopSlackExhausted b) s = .next (s.setBolt b { B with supplyCut := true })) ∧
    (s.reservedOn b s.time.stitch.toNat = false → exec (.droopSlackExhausted b) s = .next s)) ∧
  ∀ (s : State) (b n l : Nat) (p : Patch), s.time.hem = false → s.patch n = some p → p.lost = false →
    Completes (.pocketFill b n l) s fun t => OnlyBolt b s t ∧ (t.bolt b).pockets.map (·.1) = (s.bolt b).pockets.map (·.1) ∧
      ∀ e ∈ (s.bolt b).pockets, (if e.2.patch = n ∧ e.2.layer = l ∧ e.2.valid = false ∧ e.2.fillFor = s.time.stitch.toNat then
        (e.1, { e.2 with filling := true, version := p.version }) else e) ∈ (t.bolt b).pockets

/-! ### The stitch clock and the Reckoner's reading -/

/-- The hem starts (R27, R40, R44, R249, R528): issue stops on every bolt, the pages copied to spare pages are switched, bad table
lines are rebuilt, and no stitch boundary passes. -/
def Obligations.HemStops : Prop :=
  ∀ s : State, s.stitching = true → s.time.hem = false → Completes .hemStart s fun t =>
    t.time.hem = true ∧ t.time.stitch = s.time.stitch ∧ t.time.len = s.time.len ∧ t.time.floor = s.time.floor ∧
    t.memSide.retiring = [] ∧ t.memSide.badTables = [] ∧ ∀ b < 16, (t.bolt b).run = none ∧ (t.bolt b).stall = .none ∧ (t.bolt b).ended = false ∧ (t.bolt b).idle = true

/-- A stitch begins by the module's own reference (R21, R24, R25, R26, R33, R35, R41, R73, R282, R320, R328, R457): the counter
rises by one, a new length, floor and cap take effect, staged clocks reach the bolts but for a bolt whose droop puts the change
off, and so do fresh rounding keys; header reads count from 0; what a lost port carried goes out again once the new plan is in
force, and last the EDGE word of the new stitch goes down the tree.
The keys are free values (log entry 17). -/
def Obligations.EdgeBeginsStitch : Prop :=
  ∀ s : State, s.stitching = true → s.time.hem = true → s.ownEdges = true → Completes .stitchEdge s fun t =>
    t.time.hem = false ∧ t.time.stitch = s.time.stitch + 1 ∧ t.time.len = s.time.lenNext.getD s.time.len ∧
    t.time.lenNext = none ∧ t.time.floor = s.time.floorNext.getD s.time.floor ∧ t.time.headers = 0 ∧ t.admHeaders = 0 ∧
    t.time.us = s.time.us + stitchUs s.time.len ∧ t.time.log = [] ∧
    ((∀ e, s.domain.planDue = some e → e ≤ s.time.stitch.toNat + 1) →
      t.domain.resend = [] ∧ t.domain.released = s.domain.released ++ s.domain.resend ∧
      ∃ l, t.out = s.out ++ l ∧ ∀ o ∈ s.domain.resend, ∃ x ∈ l, seamOf x = seamOf o) ∧
    (∀ e, s.domain.planDue = some e → s.time.stitch.toNat + 1 < e →
      t.domain.resend = s.domain.resend ∧ t.domain.released = s.domain.released) ∧
    (∀ w o, s.power.capNext = some (w, o) → t.power.capW = w ∧ t.power.order = o) ∧
    (s.domain.standalone = false → ∃ pre k, t.out = pre ++ [.tickWord 0xA1 (edgeWordOf t.time.stitch.toNat t.time.len k t.domain.epoch.toNat)]) ∧
    ∀ b < 16, (t.bolt b).clock = (if (s.bolt b).deferred || (s.bolt b).stretching then (s.bolt b).clock else (s.bolt b).staged) ∧
      (∃ n, s.freeCtr ≤ n ∧ n < t.freeCtr ∧ (t.bolt b).roundKey = Config.entropy n) ∧ (t.bolt b).draws = []

/-- The Reckoner reads the next slot of a queue it may read (R41, R369, R370): a SEQ past the last accepted and within the
doorbells rung is accepted: the slot is consumed, one more header is counted, and the command is in the book under the
next number with the header the slot held. Any other SEQ is read again up to 16 times, then the queue stops with 0x70. -/
def Obligations.DescriptorReadAcceptsOrStops : Prop :=
  ∀ (s : State) (o : Owner) (n : Nat) (q : Sq) (bytes : List Byte) (aux : HostAux),
    s.sqAt o n = some q → s.readable o q = true →
    let sq := BitVec.ofNat 16 (fieldOf bytes 0 2)
    let adv := (sq - q.l).toNat
    let ok := (1 ≤ adv ∨ q.lastSeq = some sq) ∧ adv ≤ (q.d - q.l).toNat
    ∀ c, c = (if q.retries = 0 then Instr.descriptorRead o n bytes aux else .descriptorReread o n bytes aux) →
      (ok → Completes c s fun t =>
        t.sqAt o n = some { q with l := sq, ci := (q.ci + 1) % q.size, retries := 0
                                   lastSeq := if (q.ci + 1) % q.size = q.pi then none else some sq } ∧
        t.time.headers = s.time.headers + 1 ∧ t.nextRun = s.nextRun + 1 ∧
        ∃ r ∈ t.runs, r.id = s.nextRun ∧ r.hdr = headerOf o q.id q.ci bytes) ∧
      (¬ ok → q.retries < 16 → Completes c s fun t =>
        t = { s with
          admSqs := t.admSqs, sleeves := t.sleeves
          out := s.out ++ [.readCurr q.pasid (q.base + 128 * q.ci + 64), .readCurr q.pasid (q.base + 128 * q.ci)] } ∧ t.sqAt o n = some { q with retries := q.retries + 1 }) ∧
      (¬ ok → 16 ≤ q.retries → Completes c s fun t =>
        t.sqAt o n = some { q with stopped := true } ∧
        ∃ r ∈ t.runs, r.id = s.nextRun ∧ r.stop = some ⟨0x70, 0, 255⟩ ∧ r.hdr = headerOf o q.id q.ci bytes)

/-- The GO of the one commit whose writes are out (R356, R360, R361, R366): its record is written at its queue's tail, with status
0x40 when the GO reported an error, the tail moves on, the phase flipping at the ring's end, and the host line cache keeps no copy of
a line written; with the record's own GO the commit leaves, and the queue's message, which covers it, goes out. -/
def Obligations.GoWritesRecord : Prop :=
  ∀ (s : State) (c : Commit) (q : Cq), s.hif.commits = [c] → c.issued = true → s.hostOpen = true →
    s.cqAt c.owner c.cq = some q → s.hif.msixDue = [] → s.evq.waiting = [] → s.hif.heldInv = [] →
    (∀ v ∈ s.sleeves, v.stage ≠ .finish) →
    (c.answered = false → c.sent = none → q.full = false → q.appearsFull = false →
      ∀ g st, (g, st) ∈ [(Instr.hostWriteGo, c.record.status), (.hostWriteGoErr, 0x40)] →
        let rec_ : CompRec := { c.record with status := st }
        let o := Output.compRec q.pasid (q.base + 32 * q.tail) q.phase rec_
        Completes g s fun t =>
          t.out = s.out ++ [o] ∧
          t = { s with
            out := t.out, admCqs := t.admCqs, sleeves := t.sleeves
            hif := { s.hif with
              commits := [{ c with answered := true, record := rec_, sent := some o }], lineCache := t.hif.lineCache } } ∧
          (∀ e, e ∈ t.hif.lineCache ↔ e ∈ s.hif.lineCache ∧ ∀ x, s.atcFind q.pasid ((q.base + 32 * q.tail) / 64 * 64 / 4096) = some x →
            (32 * q.tail + q.base) % 64 ≤ 32 →
            e.2 ≠ (x.phys + ((q.base + 32 * q.tail) / 64 * 64 / 4096 - x.page)) * 64 + (q.base + 32 * q.tail) / 64 * 64 % 4096 / 64) ∧
          t.cqAt c.owner c.cq = some { q with
            tail := if q.tail + 1 = q.size then 0 else q.tail + 1, phase := if q.tail + 1 = q.size then !q.phase else q.phase }) ∧
    ∀ o, c.sent = some o → ∀ g ∈ [Instr.hostWriteGo, .hostWriteGoErr],
      (s.hif.msixEnable = true → s.hif.msixMaskAll = false → (look {} s.hif.msixTable q.vector).masked = false →
        exec g s = .next { s with out := s.out ++ [.msix q.vector], hif := { s.hif with commits := [] } }) ∧
      (s.hif.msixEnable = false → exec g s = .next { s with hif := { s.hif with commits := [] } })

/-! ### Memory, translation and the host link -/

/-- An uncorrectable line (R47, R142, R150, R249, R260, R339, R478, R482, R483, R528), by what it holds, with the counters of
R485: a sleeve's line is poisoned, a table line stops later walks, a base line is refetched from a peer or lost, a patch's state
or last pocket copy loses the patch, a stack frame is lost, also where a command has popped down to it, a basted line starts an
unravel; the page of a line is to be retired. A commit write that fails undoes the commits of the hem whose records are not
written; how many are is free (log entry 103). -/
def Obligations.BadLineContained : Prop :=
  ∀ (s : State) (die : Nat),
    let count (t : State) : Prop := t.rel.uncorr = min (s.rel.uncorr + 1) (2 ^ 32 - 1) ∧
      (look {} t.memSide.dies die).uncorrected = (look {} s.memSide.dies die).uncorrected + 1
    (∀ n dva v, s.hasSleeve n v → Completes (.lineUncorrectable (.sleeveData n dva) die false) s fun t =>
      count t ∧ t.runs = s.runs ∧ t.pageFails n (dva / 65536) = true ∧
      ∃ w, t.hasSleeve n w ∧ dva / 128 ∈ w.poison ∧ w = { v with poison := w.poison }) ∧
    (∀ n dva l, Completes (.lineUncorrectable (.tableLine n dva l) die false) s fun t =>
      count t ∧ t.memSide.badTables = (n, l, dva / tableRange l) :: s.memSide.badTables ∧ t.sleeves = s.sleeves ∧ t.runs = s.runs) ∧
    (∀ n off, (s.slot n).state ≠ .free →
      (Completes (.lineUncorrectable (.baseLine n off true) die false) s fun t => count t ∧ off / 65536 ∈ (t.slot n).refetch ∧
        (t.slot n).lost = (s.slot n).lost ∧ .refetch n (off / 65536) (Config.nearestPeer s.domain.plan (s.slot n).handle) ∈ t.out) ∧
      Completes (.lineUncorrectable (.baseLine n off false) die false) s fun t => count t ∧ off / 65536 ∈ (t.slot n).lost ∧
        (t.slot n).refetch = (s.slot n).refetch) ∧
    (∀ h p, s.patch h = some p →
      (Completes (.lineUncorrectable (.patchState h) die false) s fun t => count t ∧
        (∃ q, t.patch h = some q ∧ q = { p with lost := true }) ∧
        ∀ r ∈ t.runs, h ∈ r.patches → r.stop ≠ none) ∧
      ∀ b, Completes (.lineUncorrectable (.pocket b h true) die false) s fun t => count t ∧ t.patches = s.patches ∧ t.runs = s.runs) ∧
    (∀ b l line, b < 16 →
      let lane (t : State) : Lane := look {} (t.bolt b).lanes l
      (∀ f fs, (lane s).frames = f :: fs → (∀ r, s.liveRun b = some r → ∀ x ∈ r.baste.lanes, x.1 ≠ laneNo b l) →
        Completes (.lineUncorrectable (.stackFrame b l line) die false) s fun t => count t ∧
          lane t = { lane s with frames := { f with lost := true } :: fs } ∧ t.runs = s.runs) ∧
      (∀ r L f fs gone, s.liveRun b = some r → r.baste.lanes.find? (fun x => x.1 == laneNo b l) = some (laneNo b l, L) →
        L.frames = f :: fs → (lane s).frames = gone ++ f :: fs →
        Completes (.lineUncorrectable (.stackFrame b l line) die false) s fun t => count t ∧
          lane t = { lane s with frames := gone ++ { f with lost := true } :: fs } ∧ ∃ q, t.findRun r.id = some q ∧
            q.baste.lanes.find? (fun x => x.1 == laneNo b l) = some (laneNo b l, { L with frames := { f with lost := true } :: fs }))) ∧
    (s.rel.unravel = none → Completes (.lineUncorrectable .bastedLine die false) s fun t => count t ∧
      t.rel.unravel = some (unravelK s.time.len, s.time.stitch.toNat + unravelK s.time.len) ∧ t.dev.unravel = true ∧
      ∀ b < 16, (t.bolt b).run = none ∧ (t.bolt b).mem = [] ∧ (t.bolt b).lanes = (s.bolt b).lanes) ∧
    (s.rel.unravel ≠ none → Completes (.lineUncorrectable .commitWrite die false) s fun t => count t ∧
      t.rel.unravel = s.rel.unravel ∧ ((t.bolts = s.bolts ∧ t.runs = s.runs ∧ t.patches = s.patches ∧ t.sleeves = s.sleeves) ∨
        s.time.hem = true ∧ ∃ p ∈ s.time.log, t.patches = p.patches ∧ t.tenants = p.tenants ∧ t.groups = p.groups ∧
          t.sec = { s.sec with keys := p.keys } ∧ t.time = { s.time with lenNext := p.lenNext, floorNext := p.floorNext, log := [] } ∧
          (∀ r ∈ p.runs, ((s.findRun r.id).isSome = true ∨ s.undoable r = true) → r ∈ t.runs) ∧
          ∀ c ∈ t.hif.commits, c.issued = true ∨ ∀ r ∈ p.runs, (s.findRun r.id).isSome = true → isCommitOf r c = false))

/-- Memory care (R244, R249, R339): a page of any area with 16 corrected lines in 24 hours or an uncorrectable one, which no
placed command writes, is copied to a spare page in the working part, one fewer left; the hem's switch maps its addresses there with the same right
and forgets what was counted; with no spare page left, that is reported; a scrub counts each corrected line; settling changes no
byte that is read; a refetched page holds the peer's bytes, in a
replacement page while one is left.
The spare page is a free value (log entry 19). -/
def Obligations.MemoryCare : Prop :=
  ∀ s : State,
    (∀ n dva, let page := dva / 65536
      s.time.hem = false → s.pageExists n dva = true → s.pageFails n page = true → s.writesPage n page = false →
      (∀ e ∈ s.memSide.retiring, ¬(e.1 = n ∧ e.2.1 = page)) →
      (0 < s.memSide.spares → exec (.pageRetire n dva) s = .next { s with
        freeCtr := s.freeCtr + 1
        memSide := { s.memSide with
          spares := s.memSide.spares - 1, retiring := s.memSide.retiring ++ [(n, page, Config.dpaPick s.freeCtr)] } }) ∧
      (s.memSide.spares = 0 → s.memSide.sparesReported = false → s.evq.en = true → s.evq.mask.getLsbD 10 = false →
        Completes (.pageRetire n dva) s fun t => t.memSide = { s.memSide with sparesReported := true } ∧
          t.evq.waiting = s.evq.waiting ++ [⟨10, 255, s.time.stitch.toNat, detailOf []⟩])) ∧
    (∀ n page dpa v, n < 16 → s.hasSleeve n v → let t := s.switchCopied (n, page, dpa)
      t.pageFails n page = false ∧ t.rel.retired = min (s.rel.retired + 1) (2 ^ 32 - 1) ∧ t.runs = s.runs ∧
      ∃ w, t.hasSleeve n w ∧ w = { v with leaves := w.leaves } ∧
        (∀ dva, (w.leafAt dva).map (fun l => (l.w, l.owner, l.keygen)) = (v.leafAt dva).map fun l => (l.w, l.owner, l.keygen)) ∧
        ((∀ l ∈ v.leaves, l.dva % 65536 = 0) → ∀ dva, (v.leafAt dva).isSome = true → dva / 65536 = page →
          (w.leafAt dva).map (·.addr) = some dpa)) ∧
    (∀ n dva, s.pageFails n (dva / 65536) = false → exec (.pageRetire n dva) s = .next s) ∧
    (∀ n dva, 0 < s.memSide.spares → Completes (.patrolScrub [(n, dva)]) s fun t =>
      t = { s with memSide := t.memSide, rel := { s.rel with corrected := s.rel.corrected + 1 } } ∧
      t.corrections n (dva / 65536) = s.corrections n (dva / 65536) + 1 ∧
      (look {} t.memSide.dies (s.dieOf n (dva / 128))).corrected = (look {} s.memSide.dies (s.dieOf n (dva / 128))).corrected + 1) ∧
    (∀ n l, Completes (.lineSettle n l) s fun t =>
      t = { s with memSide := { s.memSide with unsettled := t.memSide.unsettled, spilled := t.memSide.spilled } } ∧
      (∀ e, e ∈ t.memSide.unsettled ↔ e ∈ s.memSide.unsettled ∧ e ≠ (n, l)) ∧
      ∀ e, e ∈ t.memSide.spilled ↔ e ∈ s.memSide.spilled ∧ e ≠ (n, l)) ∧
    (∀ n dva, s.time.hem = true → exec (.pageRetire n dva) s = .next s) ∧
    ∀ n page data, page ∈ (s.slot n).refetch → data.length = 65536 → Completes (.basePageRefetch n page data) s fun t =>
      page ∉ (t.slot n).refetch ∧ memRead (t.slot n).mem (65536 * page) 65536 = data ∧
      (∀ a, a < 65536 * page ∨ 65536 * (page + 1) ≤ a → memGet (t.slot n).mem a = memGet (s.slot n).mem a) ∧
      t.rel.refetched = min (s.rel.refetched + 1) (2 ^ 32 - 1) ∧
      (0 < s.memSide.spares → t.memSide.spares = s.memSide.spares - 1 ∧
        t.memSide.moved.head? = some (slotArea n, page, Config.dpaPick s.freeCtr))

/-- Faults of host pages and the translation cache (R251 to R253, R363, R364): poison ends the command with 0x1B and leaves no
copy of the line, an absent page ends it with 0x12 and a page request; a granted translation is kept and no longer waited for, a
page reported absent is asked of the host; an invalidation drops translations and is completed at once or when the writes to its
pages have their GOs; a granted page is translated again, and the command that waited for it is placed when it waits for no
other; a failed or late page request ends the command that waits with 0x13. -/
def Obligations.HostPageEvents : Prop :=
  ∀ s : State,
    (∀ b a r, s.liveRun b = some r →
      (Completes (.hostReadPoison b a) s fun t => (∃ q, t.findRun r.id = some q ∧ q.stop = some ⟨0x1B, BitVec.ofNat 56 a, b⟩) ∧
        t.sleeves = s.sleeves ∧ (∀ e ∈ t.hif.lineCache, e ∈ s.hif.lineCache) ∧
        ∀ v l, s.hasSleeve (ownerNum r.hdr.owner) v → s.hostLine v a = some l → ∀ e ∈ t.hif.lineCache, e.2 ≠ l) ∧
      Completes (.hostTranslationFault b a) s fun t => (∃ q, t.findRun r.id = some q ∧ q.stop = some ⟨0x12, BitVec.ofNat 56 a, b⟩) ∧
        ∀ v p h w, s.hasSleeve (ownerNum r.hdr.owner) v → v.hostAddr a = some (p, h) →
          v.windows.find? (fun x => x.id == (windowOf a).1) = some w → 0 < s.pageRoom v.id →
          (∀ q ∈ s.hif.pageReqs, q.stage = .sent) →
          t.out = s.out ++ [.pageRequest p (h / 4096) w.w] ∧ t.hif.pageReqs.length = s.hif.pageReqs.length + 1) ∧
    (∀ p page n rd wr ph, (rd || wr) = true → n ≠ 0 → s.hif.atc.length < 8192 →
      Completes (.atsTranslationCompletion p page n rd wr ph) s fun t =>
        ((∀ q ∈ s.hif.pageReqs, q.answered p page n = false) → t = { s with hif := { s.hif with atc := t.hif.atc } }) ∧
        (∀ q ∈ t.hif.pageReqs, q.answered p page n = false) ∧
        (∀ x, page ≤ x → x < page + n → t.atcFind p x = some ⟨p, page, n, rd, wr, ph⟩) ∧
        ∀ p' x, p' ≠ p → t.atcFind p' x = s.atcFind p' x) ∧
    (∀ p page ph q r, s.hif.pageReqs = [q] → q.answered p page 0 = true → s.findRun q.run = some r → r.stop = none →
      exec (.atsTranslationCompletion p page 0 false false ph) s = .next (({ s with hif := { s.hif with
        pageReqs := [{ q with group := 0, stage := .sent }] } } : State).emit (.pageRequest q.pasid q.page q.write))) ∧
    (∀ p page n, Completes (.atsInvalidation p page n) s fun t =>
      (∀ x, page ≤ x → x < page + n → t.atcFind p x = none) ∧ (∀ p' x, p' ≠ p → t.atcFind p' x = s.atcFind p' x) ∧
      (s.commitCovers p page n = false → t.out = s.out ++ [.invalidationDone p page]) ∧
      (s.commitCovers p page n = true → t.out = s.out ∧ (p, page, n) ∈ t.hif.heldInv)) ∧
    ∀ g, s.hif.pageReqs.find? (fun q => q.inGroup g.group) = some g →
      let rest := s.hif.pageReqs.filter fun q => !q.inGroup g.group
      (g.run = 0 → (∀ q ∈ s.hif.pageReqs, q.stage = .sent) →
        ∀ c ∈ [Instr.pageRequestResponse g.group false, .pageRequestTimeout g.group],
          exec c s = .next { s with hif := { s.hif with pageReqs := rest } }) ∧
      ((∀ q ∈ s.hif.pageReqs, q.stage = .sent) → Completes (.pageRequestResponse g.group true) s fun t => t.hif.pageReqs = rest ∧
        s.out ++ ((s.hif.pageReqs.filter fun q => q.inGroup g.group).map fun q => Output.atsRequest q.pasid q.page) <+: t.out ∧
        (∀ r, s.findRun g.run = some r → (∃ q ∈ rest, q.run = g.run) → t.findRun g.run = some r) ∧
        ∀ r v, s.runs = [r] → r.id = g.run → r.stop = none → r.preds = [] → s.hasSleeve (ownerNum r.hdr.owner) v →
          (∀ q ∈ rest, q.run ≠ g.run) → t.runs ≠ [] ∧ ∀ q ∈ t.runs, q.phase ≠ .waiting ∨ q.stop ≠ none) ∧
      ∀ r, g.run ≠ 0 → s.findRun g.run = some r → r.stop = none →
        ∀ c ∈ [Instr.pageRequestResponse g.group false, .pageRequestTimeout g.group], Completes c s fun t =>
          (∃ q, t.findRun g.run = some q ∧ q.stop = some ⟨0x13, 0, 255⟩) ∧ ∀ q ∈ t.hif.pageReqs, q.run ≠ g.run

/-- The host link (R346, R356, R358, R372 to R374, R391, R392): snoops answered from the line cache; recovery and its end, with
LINK_DEGRADED where width or rate fell; D3hot and D0; a conventional host reset ends the session and everything of the host
at once and starts the teardown of the sleeves; TEARDOWN_DONE when none is left; a full completion queue whose head word has
moved takes records again, one still full posts CQ_FULL once. -/
def Obligations.HostLinkEvents : Prop :=
  ∀ s : State,
    (∀ line, s.hif.link = .l0 →
      ((∃ e ∈ s.hif.lineCache, e.2 = line) →
        (Completes (.snoop .inv line) s fun t => t.out = s.out ++ [.snoopResp .rspIHitSE] ∧ (∀ e ∈ t.hif.lineCache, e.2 ≠ line) ∧
          t = { s with out := t.out, hif := { s.hif with lineCache := t.hif.lineCache } }) ∧
        ∀ k ∈ [SnoopKind.data, .cur], exec (.snoop k line) s = .next (s.emit (.snoopResp .rspSHitSE))) ∧
      ((∀ e ∈ s.hif.lineCache, e.2 ≠ line) → ∀ k, exec (.snoop k line) s = .next (s.emit (.snoopResp .rspIHitI)))) ∧
    (s.hif.link = .l0 → exec .linkRecoveryEnter s = .next { s with hif := { s.hif with link := .recovery } }) ∧
    (∀ w r, s.hif.link = .recovery → Completes (.linkL0Return w r) s fun t => t.hif.link = .l0 ∧ t.hif.width = w ∧
      t.hif.rate = r ∧ t.dev.linkDegraded = decide (w < 16 ∨ r < 32)) ∧
    exec .d3hotEnter s = .next { s with hif := { s.hif with d3hot := true } } ∧
    (s.hif.d3hot = true → Completes .d0Return s fun t => t.hif.d3hot = false) ∧
    (∀ c, Completes (.conventionalHostReset c) s fun t => t.session = none ∧ t.admSqs = [] ∧ t.admCqs = [] ∧ t.hif.commits = [] ∧
      t.hif.atc = [] ∧ t.hif.lineCache = [] ∧ t.hif.pageReqs = [] ∧ t.mbx = {} ∧ t.evq = {} ∧ t.sleeves = s.sleeves ∧
      t.tenants = s.tenants ∧ t.patches = s.patches ∧ t.bases = s.bases ∧ t.bolts = s.bolts ∧
      (s.sleeves ≠ [] → t.dev.teardown = true) ∧ (c = .perst ∨ c = .hotReset ∨ c = .dlDown → t.hif.link = .down ∧ t.hif.ioReady = false)) ∧
    (s.dev.teardown = true → s.sleeves = [] → Completes .teardownDone s fun t => t.dev = { s.dev with teardown := false } ∧
      t = { s with dev := t.dev, evq := t.evq }) ∧
    ∀ o n (head : BitVec 64) (q : Cq), s.cqAt o n = some q → q.full = true →
      let c := { q with head := head.toNat % 65536 }
      (s.hostOpen = false → exec (.cqHeadPoll o n head) s = .next s) ∧
      (s.hostOpen = true → c.appearsFull = true → Completes (.cqHeadPoll o n head) s fun t =>
        t.out = s.out ++ [.readCurr q.pasid q.headAddr] ∧ t.cqAt o n = some { c with told := true } ∧
        t.evq.waiting.length = s.evq.waiting.length + (if q.told = false ∧ s.evq.en = true ∧ s.evq.mask.getLsbD 12 = false then 1 else 0)) ∧
      (s.hostOpen = true → c.appearsFull = false → s.hif.commits = [] → s.evq.waiting = [] → s.hif.msixDue = [] →
        (∀ v ∈ s.sleeves, v.stage ≠ .finish) →
        Completes (.cqHeadPoll o n head) s fun t =>
          t.out = s.out ++ [.readCurr q.pasid q.headAddr] ∧ t.cqAt o n = some { c with full := false, told := false })

/-! ### Seam ports and ticks -/

/-- Ports (R268 to R271, R280 to R282, R284, R439, R467): signal or a retry starts training from DOWN; a trained port whose
peer's node and identity are accepted goes to STANDBY, another to FENCED; a failed step goes back to DOWN; a lost port goes DOWN
with its event and no peer, and the manager hears of it over another port; of the messages not known to be acknowledged end to
end, those that the lost port carried wait for the next plan (R282; which those are is free, log entry 102); an optical bay that
has cooled lets its ports train again. -/
def Obligations.PortEvents : Prop :=
  ∀ (s : State) (p : Nat), p < 48 →
    let P := s.port p
    (P.state = .down → s.seamOpen = true → p / 8 ∉ s.power.hotBays →
      let trained (c : Instr) : Prop := Completes c s fun t => t = { s with ports := t.ports } ∧
        t.port p = { P with state := .training, signal := true, trainings := satUp P.trainings } ∧ ∀ x, x ≠ p → t.port x = s.port x
      trained (.portSignalDetect p) ∧ (P.signal = true → trained (.portTrainingRetry p))) ∧
    (∀ res c, P.state = .training → adopted res = some c →
      (res.ok = true → s.dev.bootCert = true → res.chainOk = true → res.keyOk = true →
        Completes (.portTrainingComplete p res) s fun t => t = { s with ports := t.ports } ∧ (∀ x, x ≠ p → t.port x = s.port x) ∧
          (t.port p).state = (if s.accepts res.peerNode res.peerIdentity then .standby else .fenced) ∧
          (t.port p).peerNode = res.peerNode ∧ (t.port p).peerIdentity = res.peerIdentity ∧
          (t.port p).peerPort = res.peerPort ∧ (t.port p).tickRtt = res.rtt ∧ (t.port p).widthCode = c.width ∧
          (t.port p).rateCode = c.rate ∧ (t.port p).expect = 0 ∧ (t.port p).sent = 0) ∧
      (res.ok = false → exec (.portTrainingComplete p res) s = .next (s.updPort p fun x => { x with state := .down })) ∧
      (res.ok = true → s.dev.bootCert = true → res.chainOk = false → s.snap.ctrl = 0 → Completes (.portTrainingComplete p res) s fun t =>
        (t.port p).state = .down ∧ t.evq.waiting = s.evq.waiting ++ (if s.evq.en = true ∧ s.evq.mask.getLsbD 5 = false then
          [⟨5, 255, s.time.stitch.toNat, detailOf [(16, 1, 2), (24, 8, 256 * p)]⟩] else []))) ∧
    (∀ res, P.state = .training → adopted res = none →
      exec (.portTrainingComplete p res) s = .next (s.updPort p fun x => { x with state := .down })) ∧
    (∀ cause, P.state = .up ∨ P.state = .standby ∨ P.state = .fenced → Completes (.portDown p cause) s fun t =>
      t.port p = { P with state := .down, signal := P.signal && decide (cause ≠ .signal), losEvents := satUp P.losEvents
                          queue := [], peerNode := 0xFFFF, peerPort := 0xFF } ∧
      (∀ x, x ≠ p → t.port x = s.port x) ∧
      (s.isManager = false → t.out = s.out ++ (if s.hasManager = true ∧ s.pathLeft p = true then [.channel0 (.portLoss p)] else [])) ∧
      (P.state ≠ .up → t.runs = s.runs ∧ t.domain = s.domain) ∧ (P.state = .up → t.domain.planDue.isSome = true ∧
        (s.domain.planDue.isSome = true → t.domain.planDue = s.domain.planDue) ∧
        (s.isManager = true → .channel0 ({ s with domain := { s.domain with plan := s.domain.plan + 1 } } : State).planMsg ∈ t.out) ∧
        s.domain.resend <+: t.domain.resend ∧ (∀ o ∈ t.domain.released, o ∈ s.domain.released) ∧
        ∀ o ∈ s.domain.released, o ∈ t.domain.released ∨ o ∈ t.domain.resend)) ∧
    ∀ bay, bay < 6 → bay ∈ s.power.hotBays → s.seamOpen = true → Completes (.opticalEngineBelowRetrainLimit bay) s fun t =>
      bay ∉ t.power.hotBays ∧ ∀ x < 48, if x / 8 = bay ∧ (s.port x).state = .down ∧ (s.port x).signal = true then
        (t.port x).state = .training else t.port x = s.port x

/-- Flits and segments on a port that carries them, outside Rest (R264 to R266, R276, R278, R279, R283): a flit that FEC or CRC
rejects is dropped and answered by a negative acknowledgement; a DATA flit, the next in order, is taken for its channel; IDLE
acknowledges, which frees the replay buffer; LINK brings credits, which send a waiting segment, and asks for a replay until the
one after the 16th takes the port down; a segment for another node goes on when there are credits and replay room for it; one for
this node is accepted once, discarded as a duplicate, or counted as failing, which ends what awaits it with 0x39 and is told to
the manager.
The port of the way on is a free value (log entry 47). -/
def Obligations.FlitAndSegmentEvents : Prop :=
  ∀ (s : State) (p : Nat), s.power.pstate ≠ .rest → let P := s.port p
    (∀ f : Flit, P.state = .up ∨ P.state = .standby →
      let good := f.fecOk = true ∧ f.corrected ≤ P.correctable ∧ f.payload.length = P.flitPayload ∧ flitCrcOk f = true
      let nak : Output := .flitLink p (flitHeader 0 2 P.sent P.ackNow) [] true
      let Q : Port := { P with corrected := P.corrected + BitVec.ofNat 64 f.corrected }
      let n := (flitAck f + 1 - P.acked).toNat
      let acked : Port := if 1 ≤ n ∧ n ≤ (P.sent - P.acked).toNat then { Q with acked := flitAck f + 1, replayFails := 0 } else Q
      (∀ cs x, ∀ c ∈ [Instr.flitData p f.header f.payload f.crc f.fec, .flitIdle p f, .flitLink p f cs x],
        (f.fecOk = false ∨ P.correctable < f.corrected →
          exec c s = .next ((s.updPort p fun x => { x with uncorrected := x.uncorrected + 1 }).emit nak)) ∧
        (f.fecOk = true → f.corrected ≤ P.correctable → f.payload.length ≠ P.flitPayload ∨ flitCrcOk f = false →
          exec c s = .next ((s.updPort p fun _ => { Q with crcFail := satUp P.crcFail }).emit nak))) ∧
      (good → flitKind f = 0 → Completes (.flitData p f.header f.payload f.crc f.fec) s fun t =>
        t = { s with ports := t.ports, out := t.out } ∧ (P.queue = [] → t.out = s.out) ∧ (∀ x, x ≠ p → t.port x = s.port x) ∧
        (t.port p).corrected = Q.corrected ∧ (t.port p).acked = acked.acked ∧
        (flitSeq f = P.expect → P.carries (flitVc f) = true → sumOf (P.rxUsed.map (·.2)) < 2048 →
          (t.port p).expect = P.expect + 1 ∧ look 0 (t.port p).rxUsed (flitVc f) = look 0 P.rxUsed (flitVc f) + 1 ∧
          ∀ c, c ≠ flitVc f → look 0 (t.port p).rxUsed c = look 0 P.rxUsed c) ∧
        (flitSeq f ≠ P.expect → (t.port p).expect = P.expect ∧ (t.port p).rxUsed = P.rxUsed)) ∧
      (good → flitKind f = 1 → P.queue = [] → Completes (.flitIdle p f) s fun t =>
        t = { s with ports := t.ports } ∧ (∀ x, x ≠ p → t.port x = s.port x) ∧ t.port p = acked) ∧
      (good → flitKind f = 2 →
        (∀ c n, P.queue = [] → Completes (.flitLink p f [(c, n)] false) s fun t => t = { s with ports := t.ports } ∧
          (∀ x, x ≠ p → t.port x = s.port x) ∧ t.port p = { acked with credits := (t.port p).credits } ∧
          look 0 (t.port p).credits c = look 0 P.credits c + n ∧ ∀ x, x ≠ c → look 0 (t.port p).credits x = look 0 P.credits x) ∧
        (∀ n g left, P.queue = [(g, left)] → flitAck f + 1 = P.acked → 1 ≤ left → 2 ≤ g.vc → P.carries g.vc = true →
          left ≤ look 0 P.credits g.vc + n → left ≤ 1024 - (P.sent - P.acked).toNat →
          Completes (.flitLink p f [(g.vc, n)] false) s fun t => t.out.getLast? = some (.segment p (segHeader g) (segNonce g)) ∧
            (t.port p).queue = [] ∧ (t.port p).sent = P.sent + BitVec.ofNat 12 left ∧
            look 0 (t.port p).credits g.vc = look 0 P.credits g.vc + n - left) ∧
        (P.queue = [] → flitAck f + 1 = P.acked → P.sent ≠ P.acked →
          (P.replayFails < 16 → Completes (.flitLink p f [] true) s fun t => t.out = s.out ++ [.flitReplay p P.acked] ∧
            t.port p = { Q with replays := satUp P.replays, replayFails := P.replayFails + 1 }) ∧
          (16 ≤ P.replayFails → Completes (.flitLink p f [] true) s fun t => (t.port p).state = .down)))) ∧
    ∀ (g : Segment) (ok : Bool), P.carries g.vc = true →
      let back := min (P.flitsOf g.length) (look 0 P.rxUsed g.vc)
      let freed (t : State) : Prop := look 0 (t.port p).rxUsed g.vc = look 0 P.rxUsed g.vc - P.flitsOf g.length ∧
        (back ≠ 0 → .flitLink p (flitHeader 0 2 P.sent P.ackNow) [(g.vc, back)] false ∈ t.out)
      let w := s.segWindow g
      (g.dst ≠ s.domain.node →
        let q := Config.routePort s.domain.plan s.domain.node g.dst % 48
        let Q := s.port q
        let n := Q.flitsOf g.length
        Q.queue = [] → Completes (.segmentReceive p g ok) s fun t => freed t ∧ t.segWindows = s.segWindows ∧ t.runs = s.runs ∧
          (look 0 Q.credits g.vc = 0 → (t.port q).queue = [(g, n)] ∧ (t.port q).sent = Q.sent) ∧
          (2 ≤ g.vc → Q.carries g.vc = true → n ≤ look 0 Q.credits g.vc → n ≤ 1024 - (Q.sent - Q.acked).toNat →
            t.out.getLast? = some (.segment q (segHeader g) (segNonce g)) ∧ (t.port q).queue = [] ∧
            (t.port q).sent = Q.sent + BitVec.ofNat 12 n ∧ look 0 (t.port q).credits g.vc = look 0 Q.credits g.vc - n)) ∧
      (g.dst = s.domain.node →
        (ok = true → s.keyable g = true → (∀ x, w = some x → x.high < g.counter) → Completes (.segmentReceive p g ok) s fun t =>
          freed t ∧ (∃ x, t.segWindow g = some x ∧ x.high = g.counter ∧ g.counter ∈ x.seen) ∧ (t.port p).authFail = P.authFail) ∧
        (∀ x, w = some x → g.counter ≤ x.high → x.high - g.counter ≤ 4096 → g.counter ∈ x.seen →
          Completes (.segmentReceive p g ok) s fun t => freed t ∧ t.segWindows = s.segWindows ∧ (t.port p).authFail = P.authFail) ∧
        (∀ x, w = some x → g.counter + 4096 < x.high →
          Completes (.segmentReceive p g ok) s fun t => freed t ∧ t.segWindows = s.segWindows ∧ (t.port p).authFail = satUp P.authFail) ∧
        (ok = false ∨ s.keyable g = false → (∀ x, w = some x → x.high < g.counter) → Completes (.segmentReceive p g ok) s fun t =>
          freed t ∧ t.segWindows = s.segWindows ∧ (t.port p).authFail = satUp P.authFail ∧
          ∀ r, 4 ≤ g.vc → s.awaiting g.vc = some r → s.findRun r.id = some r → s.isManager = false →
            (∃ q, t.findRun r.id = some q ∧ q.stop = some ⟨0x39, 0, 255⟩) ∧
            t.out.getLast? = some (.channel0 (.squash ⟨r.collNo, r.coll.getD 0, r.collSeq, true⟩))))

/-- Ticks (R272, R273, R320 to R323, R330, R511): in the hem of the stitch before, the parent's EDGE word of the epoch in
force begins its stitch; an older epoch's word is ignored; the phase error, at most 40 ns of it, is corrected out
of the working part that begins; in TICK_WAIT the word loads the counter and the module is READY; a missed edge counts and means
holdover; after 64 of them the module is adrift and leaves its groups, and is locked again once its phase error is small; the
round trip is measured in every 1,024th hem (log entry 54). -/
def Obligations.TickEvents : Prop :=
  ∀ (s : State) (p : Nat) (w : BitVec 56) (err : Int), (s.port p).ticks = true → s.hasManager = true →
    (s.stitching = true → s.time.hem = true → s.bringUp ≠ .tickWait → s.domain.role ≠ .topManager →
      s.domain.parent = some (s.port p).peerNode → (s.domain.tick = .adrift → err.natAbs ≤ 1000000) → s.time.lenNext = none →
      edgeEpoch w = s.domain.epoch → s.domain.roleMove = none → edgeStitch w = s.time.stitch.toNat + 1 → edgeLen w = s.time.len →
      Completes (.edgeWord p w err) s fun t => t.time.hem = false ∧ t.time.stitch = s.time.stitch + 1 ∧ t.time.len = s.time.len ∧
        t.domain.tick = (if s.domain.tick = .adrift ∧ 40000 < err.natAbs then .adrift else .locked) ∧
        t.domain.missedEdges = 0 ∧ t.domain.edgeErr = max (-40000) (min 40000 err) ∧ t.time.correction = max (-40000) (min 40000 err)) ∧
    (s.bringUp ≠ .tickWait → edgeEpoch w - s.domain.epoch = 3 → exec (.edgeWord p w err) s = .next s) ∧
    (s.dev.phase = .tickWait → s.domain.role ≠ .topManager → s.domain.parent = some (s.port p).peerNode →
      Completes (.edgeWord p w err) s fun t => t.dev.phase = .ready ∧ t.time.stitch = BitVec.ofNat 48 (edgeStitch w) ∧
        t.time.len = edgeLen w ∧ t.domain.tick = .locked ∧ t.domain.epoch = edgeEpoch w) ∧
    (s.follows = true →
      (Completes .edgeMissed s fun t => t.domain.missedEdges = s.domain.missedEdges + 1 ∧
        t.domain.tick = (if s.domain.tick = .locked then .holdover else s.domain.tick) ∧ t.time = s.time ∧ t.runs = s.runs) ∧
      (s.domain.tick = .holdover → 64 ≤ s.domain.missedEdges → Completes .adrift s fun t => t.domain.tick = .adrift ∧
        (∀ g ∈ t.groups, g.removed = true) ∧ t.groups.length = s.groups.length ∧ ∀ n < 4, 1 < (s.slot n).span → (t.slot n).spanGone = true)) ∧
    (∀ n, s.time.hem = true → exec (.tickRttMeasure p n) s =
      .next (if s.time.stitch.toNat % 1024 = 0 then s.updPort p fun x => { x with tickRtt := n } else s)) ∧
    exec (.tickWordCorrupted p) s = .next (s.updPort p fun x => { x with tickErrors := satUp x.tickErrors })

/-- BARRIER and TRIGGER words (R307, R320, R326, R491, R492): arrivals add up, and go on as one ARRIVE once a
subtree is whole; at the deciding manager all of them release the next barrier, and past the last barrier complete the collective; a
RELEASE goes down the tree and frees the bolts that wait; a decision in the working part goes on and is taken once, one in the hem is
too late; a trigger arms its instant where SRC_DOMAIN is set; the instant of the stitch fires when its source is armed.
The size of the subtree is a free value (log entry 25). -/
def Obligations.DecisionAndTriggerWords : Prop :=
  ∀ (s : State) (w : BitVec 56), s.hasManager = true →
    let coll := barrierColl w
    (∀ p, (s.port p).ticks = true → barrierKind w = 0 → s.collMembership coll = none →
      let total := arriveCount s.domain.barriers coll (barrierId w) + barrierCount w
      Completes (.barrierArrive p w) s fun t =>
        t = { s with out := t.out, domain := { s.domain with barriers := t.domain.barriers } } ∧
        if max 1 (Config.subtreeMembers s.domain.plan coll.toNat) ≤ total then
          t.out = s.out ++ [.tickWord 0xA2 (barrierTick 0 (barrierId w) coll.toNat total s.domain.node)] ∧
          arriveCount t.domain.barriers coll (barrierId w) = 0
        else t.out = s.out ∧ arriveCount t.domain.barriers coll (barrierId w) = total) ∧
    (∀ p c, (s.port p).ticks = true → barrierKind w = 0 → s.domain.colls.find? (fun c => decide (c.number = some coll)) = some c →
      s.decides c.membership = true →
      s.memberCount c.membership ≤ arriveCount s.domain.barriers coll (barrierId w) + barrierCount w →
      Completes (.barrierArrive p w) s fun t => arriveCount t.domain.barriers coll (barrierId w) = 0 ∧
        (c.released < c.arrivals.length → t.out = s.out ++ [.tickWord 0xA2 (barrierTick 1 (barrierId w) coll.toNat 0 s.domain.node)] ∧
          ∃ x ∈ t.domain.colls, x = { c with released := c.released + 1 }) ∧
        (c.arrivals.length ≤ c.released → t.out = s.out ∧ ∃ x ∈ t.domain.colls, x = { c with complete := true })) ∧
    (barrierKind w = 1 → Completes (.barrierReleaseWord w) s fun t => t.out = s.out ++ [.tickWord 0xA2 w] ∧
      ∀ r, s.runs.find? (fun r => decide (r.collNo = some coll)) = some r → ∀ x ∈ boltsIn r.hdr.bolts,
        (s.bolt x).run = some r.id → (s.bolt x).stall = .collective (barrierId w) → t.bolt x = (s.bolt x).resume) ∧
    (∀ c k rel, (c, k, rel) ∈ [(Instr.decideRelease w, 2, true), (.decideAbort w, 3, false)] → barrierKind w = k →
      (s.time.hem = true → exec c s = .next s) ∧
      (s.time.hem = false → s.decidesColl coll = false → Completes c s fun t =>
        t = { s with out := s.out ++ [.tickWord 0xA2 w], runs := t.runs } ∧ t.runs.length = s.runs.length ∧
        ∀ r ∈ s.runs, (if r.collNo = some coll ∧ r.place = s.time.stitch.toNat ∧ r.phase ≠ .candidate ∧ r.decision = none then { r with decision := some rel } else r) ∈ t.runs) ∧
      (s.time.hem = false → s.decidesColl coll = true → (∃ x ∈ s.domain.colls, x.number = some coll ∧ x.decided = none ∧ (rel = true → x.complete = true)) →
        Completes c s fun t => (∀ x ∈ t.domain.colls, x.number = some coll → x.decided = some rel) ∧
          t.out = s.out ++ [.tickWord 0xA2 (barrierTick k 0 coll.toNat 0 s.domain.node)])) ∧
    (let n := stitchesTo s.time.stitch.toNat (bitsOf w.toNat 55 40)
     (s.snap.ctrl.getLsbD 4 = false → exec (.triggerWord w) s = .next (s.emit (.tickWord 0xA3 w))) ∧
     (s.snap.ctrl.getLsbD 4 = true → 0 < n → n < 32768 → exec (.triggerWord w) s =
      .next ((s.emit (.tickWord 0xA3 w)).armSnap (s.time.stitch.toNat + n) (bitsOf w.toNat 39 16) (BitVec.ofNat 16 w.toNat) 4))) ∧
    ∀ off id src, s.snap.armed = [(s.time.stitch.toNat, off, id, src)] →
      (s.snap.ctrl.getLsbD (if src = 4 then 4 else 1) = false →
        exec .snapshotTimedTrigger s = .next { s with snap := { s.snap with armed := [] } }) ∧
      (s.snap.ctrl.getLsbD (if src = 4 then 4 else 1) = true → s.snap.latched = false →
        Completes .snapshotTimedTrigger s fun t => t.snap = { s.snap with
          armed := [], latched := true, snapId := id, source := BitVec.ofNat 8 src, stitch := s.time.stitch, window := t.snap.window })

/-! ### Domains -/

/-- What a member takes from its manager (R318, R323, R325, R329, R330, R433, R474, R511, R518): rosters of a higher generation,
placements, keys, latency requirements, announced lengths, its tick parent; a collective refused before the member submits it
uses up its sequence number; the standby mirrors, and takes over where its mirror is that of the previous hem. -/
def Obligations.MemberEvents : Prop :=
  ∀ s : State, s.hasManager = true →
    (∀ g l, s.isManager = false →
      (s.domain.rosterGen < g → Completes (.rosterUpdate g l) s fun t => t.domain = { s.domain with rosterGen := g, roster := l } ∧
        t = { s with domain := t.domain, ports := t.ports } ∧
        ∀ p < 48, t.port p = if (s.port p).state = .fenced ∧ (t.accepts (s.port p).peerNode (s.port p).peerIdentity = true) then { s.port p with state := .standby } else s.port p) ∧
      (g ≤ s.domain.rosterGen → exec (.rosterUpdate g l) s = .next s)) ∧
    (∀ m n no r, r.coll = some m → r.collSeq = n → r.phase = .candidate → r.stop = none →
      (∀ x ∈ s.runs, x.coll = some m → x.collSeq = n → x = r) → s.findRun r.id = some r →
      (∀ e l st, Completes (.collectivePlacement m n no (some ⟨e, l⟩) st) s fun t =>
        ∃ q, t.findRun r.id = some q ∧ q.phase = .placed ∧ q.place = e ∧ q.collNo = some no ∧ q.arrivals = l ∧
          q.candidates = r.candidates ∧ q.stop = none ∧
          (r.candidates.contains e = true → q.again = r.again ∧
            (l = [] → q.costs = r.candCosts.getD (r.candidates.idxOf e) r.costs)) ∧
          (r.candidates.contains e = false → q.again = true ∧ q.shifts = r.shifts + (e - r.place) ∧ q.reruns = r.reruns - 1 ∧
            q.lateCause.getLsbD 0 = true ∧ q.lateCause.getLsbD 6 = false)) ∧
      ∀ st, Completes (.collectivePlacement m n no none st) s fun t => ∃ q, t.findRun r.id = some q ∧
        q.stop = some ⟨if r.reruns ≠ 0 ∧ (st = 0x27 ∨ st = 0x28) then 0x66 else st, 0, 255⟩) ∧
    (∀ m n no st, (∀ r ∈ s.runs, r.coll = some m → r.collSeq = n → r.phase = .waiting ∨ r.stop.isSome = true) →
      look 0 s.domain.collSeq m ≤ n → (m, n) ∉ s.domain.usedUp → (256 ≤ m ∨ ∃ g ∈ s.groups, g.block.group = m) →
      exec (.collectivePlacement m n no none st) s = .next { s with domain := { s.domain with usedUp := s.domain.usedUp ++ [(m, n)] } }) ∧
    (s.leaving = true → exec .leaveAck s = .next { s with board := { s.board with leaveAcked := true } }) ∧
    (∀ us, exec (.latencyRequirement us) s = .next { s with domain := { s.domain with requirement := us } }) ∧
    (s.domain.role = .standby →
      (∀ m, exec (.standbyMirror m) s = .next (({ s with
        domain := { s.domain with mirrored := some m, mirrorAcked := some (s.time.stitch.toNat - if s.time.hem then 0 else 1) } } : State).emit (.channel0 .mirrorAck))) ∧
      (s.mirrorFresh = false → exec .managerTakeover s = .next s) ∧
      ∀ m, s.stitching = true → s.domain.mirrored = some m → s.mirrorFresh = true → Completes .managerTakeover s fun t =>
        (t.domain.role = if s.domain.node < 512 then .topManager else .manager) ∧ t.domain.manager = s.domain.node ∧
        t.domain.epoch = s.domain.epoch + 1 ∧ t.domain.roster = m.roster ∧ t.domain.colls = m.colls ∧ t.bases.aliasMap = m.aliasMap ∧
        t.domain.holdings = m.holdings ∧ t.domain.nextColl = m.nextColl ∧ t.domain.plan = max s.domain.plan m.plan + 1 ∧
        .channel0 t.planMsg ∈ t.out ∧ t.domain.shiftDue.length = s.domain.shiftDue.length + 1 ∧
        t.domain.takeovers = min (s.domain.takeovers + 1) (2 ^ 32 - 1)) ∧
    (s.isManager = false →
      (∀ h k x, k = 1 ∨ k = 2 → Completes (.keyDelivery h k x) s fun t => (∃ rest, t.sec.keys = ⟨h, k, 255, x⟩ :: rest ∧
          ∀ y ∈ rest, y ∈ s.sec.keys ∧ ¬(y.kind = k ∧ y.handle = h)) ∧
        (k = 2 → ∀ g ∈ t.groups, g.block.keyId = h → g.ready = true) ∧ t.runs = s.runs) ∧
      ∀ h x, exec (.keyDelivery h 3 x) s = .next { s with domain := { s.domain with domainKey := true } }) ∧
    (∀ st c, s.follows = true → c < 4 → s.time.stitch.toNat < st →
      exec (.stitchLengthAnnounce st c) s = .next { s with domain := { s.domain with announced := some (st, c) } }) ∧
    ∀ n, s.domain.role ≠ .topManager → Completes (.tickParentAssign n) s fun t => t.domain.parent = some n ∧
      (t.domain.tick = if s.domain.parent ≠ some n ∧ s.domain.tick = .locked then .holdover else s.domain.tick) ∧ t.time = s.time

/-- What a manager does with its members' reports (R279, R281, R290, R298, R309, R325, R328, R335, R433, R511, R518): lists join its
table; a lost port means a new plan, which it sends out; a member's unravel a shift that comes due; a mismatch an ABORT; a leaving
member is out of every group; a joining one gets its tick parent and keys; blocks that agree make a group ready, one that differs is
refused; a squashed collective ends with 0x66, or 0x39, on every member.
The parent that a plan names is a free value (log entry 47). -/
def Obligations.ManagerEvents : Prop :=
  ∀ (s : State) (n : Nat), s.hasManager = true → s.isManager = true → n ≠ s.domain.node →
    (∀ m k l a, s.decides m = true → (∀ c ∈ s.domain.colls, ¬(c.membership = m ∧ c.seqNo = k)) → (m, k) ∉ s.domain.soon →
      exec (.collectiveCandidates n m k l a) s = .next { s with
        domain := { s.domain with colls := s.domain.colls ++ [{ membership := m, seqNo := k, lists := [(n, l.take 16)], arrivals := a }] } }) ∧
    (∀ p, s.time.hem = true → Completes (.portLossReport n p) s fun t => t.domain = { s.domain with planDue := t.domain.planDue } ∧
      t.domain.planDue.isSome = true ∧ (s.domain.planDue.isSome = true → t.domain.planDue = s.domain.planDue) ∧
      .channel0 ({ s with domain := { s.domain with plan := s.domain.plan + 1 } } : State).planMsg ∈ t.out ∧
      ∀ r ∈ s.runs, r.coll = none → r ∈ t.runs) ∧
    (s.domain.role = .topManager → Completes (.unravelReport n) s fun t => ∃ e, s.time.stitch.toNat < e ∧
      t.domain = { s.domain with
        shiftDue := s.domain.shiftDue ++ [(e, unravelK s.time.len)]
        unravelling := s.domain.unravelling ++ [(n, s.time.stitch.toNat + unravelK s.time.len)] } ∧ t.runs = s.runs ∧ t.out = s.out) ∧
    (∀ coll, s.decidesColl coll = true → s.time.hem = false → n ≠ 0xFFFF → (∃ c ∈ s.domain.colls, c.number = some coll ∧ c.decided = none) →
      Completes (.arrivalMismatchReport n coll) s fun t => exec (.decideAbort (barrierTick 3 0 coll.toNat 0 s.domain.node)) s = .next t) ∧
    ((∀ c ∈ s.domain.colls, s.includes c n = false) → Completes (.leaveNotice n) s fun t =>
      t.out.getLast? = some (.channel0 (.leaveAck n)) ∧ (∀ g ∈ t.groups, n ∉ g.block.members) ∧
      (∀ x ∈ t.domain.presented, x.1 ≠ n ∧ n ∉ x.2.members) ∧ (∀ x ∈ t.domain.holdings, n ∉ x.nodes) ∧ t.domain.planDue.isSome = true) ∧
    ((∃ e ∈ s.domain.roster, e.node = n) → Completes (.moduleJoinReport n) s fun t =>
      t = { s with out := t.out } ∧ t.out = s.out ++ .channel0 (.tickParent n (s.tickParent n)) ::
        (s.keysFor n).map fun k => .channel0 (.wrappedKey n k.1 k.2)) ∧
    (∀ b, n ∈ b.members → s.blockDiffers b = false → Completes (.groupBlockPresented n b) s fun t => (n, b) ∈ t.domain.presented ∧
      ((∀ x ∈ b.members, (x, b) ∈ t.domain.presented) → ∀ g ∈ t.groups, g.block = b → g.ready = true)) ∧
    (∀ b, n ∈ b.members → s.blockDiffers b = true →
      exec (.groupBlockPresented n b) s = .next (s.emit (.channel0 (.groupRefused n b.group)))) ∧
    (∀ no c r auth, s.domain.colls.find? (fun x => decide (x.number = some no)) = some c →
      s.runs.find? (fun r => decide (r.coll = some c.membership ∧ r.collSeq = c.seqNo ∧ r.phase ≠ .waiting ∧ r.stop = none)) = some r →
      s.findRun r.id = some r →
      let st : Status := if auth then 0x39 else 0x66
      Completes (.collectiveSquashNotice n ⟨some no, c.membership, c.seqNo, auth⟩) s fun t =>
        (∃ q, t.findRun r.id = some q ∧ q.stop = some ⟨st, 0, 255⟩) ∧
        (∀ x ∈ t.domain.colls, ¬(x.membership = c.membership ∧ x.seqNo = c.seqNo)) ∧
        t.out = s.out ++ [.channel0 (.placement c.membership c.seqNo (c.number.getD 0) none st)]) ∧
    ∀ h, (n, h) ∉ s.domain.loadReports → exec (.baseLoadReport n h) s =
      .next { s with domain := { s.domain with loadReports := s.domain.loadReports ++ [(n, h)] } }

/-- A BSR16 reduction as one member sees it (R291, R294 to R301, R303, R305, R306): in the exponent pass a block's maximum takes
the arriving byte and goes on as the schedule says; a byte of a block that the member did not post, or a shape list unlike its own,
ends the command (0x7C, log entry 104); a data block that passes the arrival check is added while additions are due, and the last
sends the sum to the ranks that the schedule names; one that fails is reported to the manager; the exponent pass ends, once every
member's shape list has come, with each block packed at its agreed exponent; a data pass whose totals are whole and unflagged ends
the post. -/
def Obligations.ReductionEvents : Prop :=
  ∀ (s : State) (n : Nat) (p : Post) (r : Run) (g : Group), s.activePost n = some p → s.findRun p.run = some r →
    s.group (ownerNum r.hdr.owner) n = some g → g.block.format ≠ 1 →
    (∀ q ∈ s.posts, q.run = p.run → q.group = p.group → q.no = p.no → q = p) →
    let rank := s.rankIn g
    let node (x : Nat) : Nat := g.block.members.getD x 0xFFFF
    let need (i : Nat) : Nat := expectedAdds g.block p.tree rank p.blocks i
    let got (i : Nat) : Nat := p.added.getD i 0
    let goesOn (i : Nat) (total : Bool) (b : RedBlock) : List (Nat × SeamMsg) :=
      (receivers g.block p.tree rank p.blocks i total).map fun x => (node x, .reduce g.block.group i b)
    let seamOnly (t : State) : Prop := t = { s with posts := t.posts, out := t.out, domain := t.domain, ports := t.ports } ∧
      t.domain = { s.domain with sent := t.domain.sent, counters := t.domain.counters, nextMsg := t.domain.nextMsg }
    (∀ i < p.blocks, ∀ v : Byte, p.emax.length = p.blocks → p.added.length = p.blocks → p.pass = .exponent → v ≠ 0xFF →
      p.total.getD i false = false → got i < need i →
      let e := joinExp (p.emax.getD i (-127, false)) v
      Completes (.reductionBlockArrive n i (.exponent v)) s fun t => seamOnly t ∧ (∃ q ∈ t.posts,
          q = { p with emax := q.emax, added := q.added, total := q.total } ∧ q.added.getD i 0 = got i + 1 ∧
          q.emax.getD i (0, false) = (max (p.emax.getD i (-127, false)).1 ((v.toNat : Int) - 127), (p.emax.getD i (-127, false)).2) ∧
          ∀ j, j ≠ i → q.emax.getD j (0, false) = p.emax.getD j (0, false)) ∧
        Sends s t p.run (if got i + 1 = need i then
          goesOn i (holdsTotal g.block p.tree rank p.blocks i) (.exponent (expByte e)) else [])) ∧
    (∀ i v, p.blocks ≤ i → p.pass = .exponent → r.stop = none → Completes (.reductionBlockArrive n i (.exponent v)) s fun t =>
      ∃ q, t.findRun p.run = some q ∧ q.stop = some ⟨0x7C, 0, p.bolt⟩) ∧
    (∀ i k l, p.pass = .exponent → k ∉ p.shapes → k ≠ rank → r.stop = none →
      Completes (.reductionBlockArrive n i (.shape k l)) s fun t =>
        (if l = p.shape then seamOnly t else ∃ q, t.findRun p.run = some q ∧ q.stop = some ⟨0x7C, 0, p.bolt⟩) ∧
        (l = p.shape → ∃ q ∈ t.posts, q = { p with shapes := k :: p.shapes })) ∧
    (∀ i own, ∀ l : List Byte, i < p.blocks → p.pass = .data → p.work[i]? = some own → p.total.getD i false = false →
      let b := bsrOf l
      (arrivalOk b own.exp own.esc = true → adderOk b own (addBlocks b own) = true → got i < need i → p.added.length = p.blocks →
        Completes (.reductionBlockArrive n i (.bsr l)) s fun t => seamOnly t ∧
          (∃ q ∈ t.posts, q.work[i]? = some (addBlocks b own) ∧ q.added.getD i 0 = got i + 1) ∧
          Sends s t p.run (if got i + 1 = need i then
            goesOn i (holdsTotal g.block p.tree rank p.blocks i) (.bsr (bsrBytes (addBlocks b own))) else [])) ∧
      (arrivalOk b own.exp own.esc = true → need i ≤ got i → p.total.length = p.blocks →
        Completes (.reductionBlockArrive n i (.bsr l)) s fun t => seamOnly t ∧
          (∃ q ∈ t.posts, q.work[i]? = some b ∧ q.total.getD i false = true) ∧ Sends s t p.run (goesOn i true (.bsr (bsrBytes b)))) ∧
      (arrivalOk b own.exp own.esc = false → Completes (.reductionBlockArrive n i (.bsr l)) s fun t =>
        t.posts = s.posts ∧ t.rel.total = s.rel.total + 1 ∧ (∃ q, t.findRun p.run = some q ∧ q.mismatch = true) ∧
        t.out.getLast? = some (.channel0 (.arrivalMismatch (r.collNo.getD 0))))) ∧
    (p.pass = .exponent → p.vals.length = p.blocks → p.total.all id = true → g.block.members.length ≤ p.shapes.length + 1 →
      r.mismatch = false → r.stop = none →
      let agreed (i esc : Nat) : BitVec 8 := agreedExp (p.emax.getD i (-127, false)).1 (p.emax.getD i (-127, false)).2 g.block.headroom esc
      let esc (i : Nat) : Nat := look 0 g.escs (escKey r.id p.no i)
      let kept := p.vals.zipIdx.map fun e => e.1.map (packMant (agreed e.2 0))
      (∀ i < p.blocks, packOk (ownBlock (kept.getD i []) (agreed i (esc i)) (esc i) (p.emax.getD i (-127, false)).2) = true) →
      Completes (.reductionPassEnd n) s fun t => seamOnly t ∧ ∃ q ∈ t.posts, q.pass = .data ∧
        q.run = p.run ∧ q.no = p.no ∧ q.work.length = p.blocks ∧ ∀ i < p.blocks, ∀ b, q.work[i]? = some b →
          b.exp = agreed i (esc i) ∧ b.esc = esc i ∧ b.contrib = 1 ∧ b.residue = residueOf b.mant ∧
          (esc i = 0 → b.mant = (p.vals.getD i []).map (packMant (agreed i 0)))) ∧
    (p.pass = .data → p.total.all id = true → r.mismatch = false → r.stop = none →
      (∀ b ∈ p.work, b.contrib = g.block.members.length % 256 ∧ arrivalOk b b.exp b.esc = true ∧ b.ovf = false) →
      Completes (.reductionPassEnd n) s fun t => ∃ q ∈ t.posts, q.run = p.run ∧ q.no = p.no ∧ q.pass = .done)

/-! ### Base images, bring-up, power and management -/

/-- Base images (R282, R332 to R338, R390, R433, R447): a manager's load takes a handle never used before, passes the load on with
its keys, and its own slot is LOADING; a member's slot takes the handle that the manager has assigned; a chunk that verifies is
stored and, as it was received, sent to the module's children in the distribution tree, and kept until it is acknowledged; one
that fails is asked for once more, and a second failure, or a layer table unlike the load's, empties the slot; a switch waits for its
stitch; a handle that nothing names any more waits for retirement; MGMT_DOMAIN_KILL ends the collective's command with 0x23 on every
member. On a manager each needs its signed envelope and is answered. -/
def Obligations.BaseImageCommands : Prop :=
  ∀ (s : State) (m : MgmtHdr),
    (∀ op : LoadOp, op.slot < 4 → headerOk op = true →
      let mine (t : State) (h : Nat) : Prop := (t.slot op.slot).state = .loading ∧ (t.slot op.slot).handle = h ∧
        (t.slot op.slot).imageId = leNat ((op.header.drop 16).take 8) ∧ (t.slot op.slot).layers = op.layers ∧
        (t.slot op.slot).mem = [] ∧ (t.slot op.slot).got = [] ∧ (∀ x, x ≠ op.slot → t.slot x = s.slot x)
      (s.isManager = true → s.takes m → op.assigned = none → s.heldThere op = none → s.refusesLoad op = false →
        Completes (.baseLoad m op.header op.layers op.seeds op.members op.jobKey op.slot op.lackPages op.assigned) s fun t => ∃ h c, h ∉ s.bases.usedHandles ∧ (∀ x ∈ s.domain.holdings, x.handle ≠ h) ∧
          h ∈ t.bases.usedHandles ∧ (∃ x ∈ t.domain.holdings, x.handle = h ∧ x.slot = op.slot ∧ x.channel = c ∧ x.ready = false ∧ x.nodes = s.loadNodes op) ∧
          .channel0 (.load { op with assigned := some (h, c) }) ∈ t.out ∧
          (∀ n ∈ s.loadNodes op, n ≠ s.domain.node → .channel0 (.wrappedKey n (leNat ((op.header.drop 24).take 2)) 1) ∈ t.out) ∧
          t.out.getLast? = some (.mgmtReply true []) ∧ t.store = { s.store with mgmtSeq := m.seq } ∧
          (s.domain.node ∈ s.loadNodes op → mine t h)) ∧
      (s.isManager = true → s.takes m → op.assigned = none → s.heldThere op = none → s.refusesLoad op = true →
        exec (.baseLoad m op.header op.layers op.seeds op.members op.jobKey op.slot op.lackPages op.assigned) s = .next ((s.accepted_ m).mgmtReply false [])) ∧
      ∀ h c, s.isManager = false → s.hasManager = true → op.assigned = some (h, c) → s.domain.node ∈ s.loadNodes op →
        (s.slot op.slot).state = .free → Completes (.baseLoad m op.header op.layers op.seeds op.members op.jobKey op.slot op.lackPages op.assigned) s fun t => mine t h ∧ (t.slot op.slot).spanChannel = c) ∧
    (s.isManager = true → s.takes m →
      (∀ name h st, isAlias name = true → s.switchOk name h = true → s.time.stitch.toNat < st →
        exec (.baseSwitch m name h st) s = .next ((({ s.accepted_ m with
          bases := { s.bases with pendingSwitch := s.bases.pendingSwitch ++ [(name, h, st)] } } : State).emit
            (.channel0 (.switch name h st))).mgmtReply true [])) ∧
      (∀ h, s.retireOk h false = true →
        exec (.baseRetire m ⟨h, false⟩) s = .next ((({ s.accepted_ m with
          bases := { s.bases with pendingRetire := s.bases.pendingRetire ++ [h] } } : State).emit (.channel0 (.retire h))).mgmtReply true [])) ∧
      (∀ h, exec (.baseRetire m ⟨h, true⟩) s = .next ((s.accepted_ m).mgmtReply false [])) ∧
      ∀ no c r, s.domain.colls.find? (fun x => decide (x.number = some no)) = some c →
        s.runs.find? (fun r => decide (r.coll = some c.membership ∧ r.collSeq = c.seqNo ∧ r.phase ≠ .waiting ∧ r.stop = none)) = some r →
        s.findRun r.id = some r →
        Completes (.mgmtDomainKill m no) s fun t => (∃ q, t.findRun r.id = some q ∧ q.stop = some ⟨0x23, 0, 255⟩) ∧
          (∀ x ∈ t.domain.colls, ¬(x.membership = c.membership ∧ x.seqNo = c.seqNo)) ∧
          t.out = s.out ++ [.channel0 (.placement c.membership c.seqNo (c.number.getD 0) none 0x23), .mgmtReply true []]) ∧
    ∀ (n i : Nat) (host : Bool) (plain : List Byte), let q := s.slot n
      q.state = .loading → i < chunkCount q.plainBytes → i ∉ q.got →
      (host = true → s.bases.ingest.isSome = true ∧ s.domain.node ∈ q.seeds) →
      let sent (t : State) : Prop := ∃ new, t.domain.released = s.domain.released ++ new ∧
        new.map seamOf = (treeBelow (s.slotNodes q) (q.seeds.getD (i / max 1 (seedShare q)) 0xFFFF) s.domain.node).map
          fun c => some (c, .chunk n i)
      (plain.length = min (2 ^ 20) (q.plainBytes - 2 ^ 20 * i) → tableAgrees q i plain = true →
        Completes (.baseChunkReceive n i host (some plain)) s fun t => i ∈ (t.slot n).got ∧ sent t ∧ (∀ x, x ≠ n → t.slot x = s.slot x) ∧
          (q.span ≤ 1 → memRead (t.slot n).mem (2 ^ 20 * i) plain.length = plain) ∧
          ∀ a, a < 2 ^ 20 * i ∨ 2 ^ 20 * i + plain.length ≤ a → memGet (t.slot n).mem a = memGet q.mem a) ∧
      (plain.length = min (2 ^ 20) (q.plainBytes - 2 ^ 20 * i) → tableAgrees q i plain = false →
        Completes (.baseChunkReceive n i host (some plain)) s fun t => (t.slot n).state = .free ∧ (t.slot n).mem = [] ∧ sent t) ∧
      (∀ x, chunkText q i x = none → i ∉ q.failedOnce → Completes (.baseChunkReceive n i host x) s fun t => sent t ∧
        t.slot n = { q with failedOnce := i :: q.failedOnce } ∧ t.out.getLast? = some (.channel0 (.chunkAgain n i))) ∧
      (∀ x, chunkText q i x = none → i ∈ q.failedOnce → Completes (.baseChunkReceive n i host x) s fun t => (t.slot n).state = .free ∧ (t.slot n).mem = [] ∧ sent t)

/-- Bring-up and resets (R25, R423, R501, R503, R505, R507, R509 to R514): each phase in order, its failure's cause, and what
a reset keeps.
The BOOT_ID is a free value (log entry 20). -/
def Obligations.BringUpAndResets : Prop :=
  ∀ s : State,
    (∀ ms mv, s.board.stage = .off → 32000 ≤ mv → (s.board.trip = none ∨ 100 ≤ ms) →
      exec (.modEnRise ms mv) s = .next { s with board := { s.board with modEn := true, vinMv := mv, stage := .charging } }) ∧
    (∀ mg d sl, s.board.stage = .charging → Completes (.powerGood mg d sl) s fun t => t.devState = 1 ∧ t.board.stage = .on ∧
      t.board.mgrEn = mg ∧ t.board.domainSel = d ∧ t.board.bootSlot = sl ∧ t.board.lampTest = true ∧ t.store = s.store) ∧
    exec .lampTestEnd s = .next { s with board := { s.board with lampTest := false } } ∧
    (∀ a b, s.dev.phase = .boot → s.meRuns = true → s.dev.fw = none →
      (∀ f x, s.chooseSlot a b = some (f, x) → s.board.trip = none → Completes (.firmwareVerified a b true) s fun t =>
        t.dev.phase = .memTrain ∧ t.dev.fw = some f ∧ t.dev.fwSlot = x ∧ s.store.svnMin ≤ f.svn) ∧
      (s.chooseSlot a b = none → Completes (.firmwareVerified a b true) s fun t => t.dev.phase = .failed ∧ t.dev.fail = 0x01 ∧
        ∀ p < 48, (t.port p).state = .disabled) ∧
      Completes (.firmwareVerified a b false) s fun t => t.dev.phase = .failed ∧ t.dev.fail = 0x02) ∧
    exec .perstDeassert s = .next { s with board := { s.board with perst := false } } ∧
    (∀ w r, s.board.perst = false → s.meRuns = true → s.hif.ioReady = false → s.dev.phase ≠ .failed →
      (Completes (.cxlIoReady true w r) s fun t => t.hif.ioReady = true ∧ t.hif.cache = true ∧ t.hif.link = .l0 ∧ t.dev.phase = s.dev.phase) ∧
      Completes (.cxlIoReady false w r) s fun t => t.hif.ioReady = true ∧ t.dev.phase = .failed ∧ t.dev.fail = 0x0B ∧ t.dev.reached = s.dev.phase) ∧
    (∀ res, s.dev.phase = .memTrain →
      (phase3Cause res = none → s.store.topLeaf < 32768 → Completes (.memTrainComplete res) s fun t => t.dev.phase = .seamTrain ∧
        t.store.topLeaf = s.store.topLeaf + 1 ∧ t.dev.bootId = Config.randomId s.freeCtr ∧ t.dev.lowerLeaf = 1 ∧ t.store.trained = true) ∧
      ∀ c, phase3Cause res = some c → Completes (.memTrainComplete res) s fun t => t.dev.phase = .failed ∧ t.dev.fail = c) ∧
    (s.dev.phase = .seamTrain →
      ((s.domain.standalone = true ∨ s.domain.role = .topManager) → Completes .seamTrainEnd s fun t =>
        t.dev.phase = .ready ∧ t.time.stitch = 0 ∧ t.time.len = 1) ∧
      (s.domain.standalone = false → s.domain.role ≠ .topManager → Completes .seamTrainEnd s fun t =>
        t.dev.phase = .tickWait ∧ t.out = s.out ++ [.channel0 .joinReport])) ∧
    (∀ c off, (c, off) ∈ [(Instr.modEnFall, true), (.mrstAssert, false)] → Completes c s fun t => t.devState = 1 ∧ t.session = none ∧
      t.sleeves = [] ∧ t.runs = [] ∧ t.bolts = [] ∧ t.store = s.store ∧ t.out = s.out ∧ t.board.trip = s.board.trip ∧
      t.board.stage = (if off then .off else s.board.stage)) ∧
    exec .mrstRelease s = .next { s with board := { s.board with mrst := false } }

/-- Supply and power (R407, R457, R458, R460, R464, R465, R468, R475, R503, R505): samples, the classes that the cap cuts, the
last of the order first (log entry 109), PEAK_LOCK, the hold of a supply warning and
its end, trips that power the module off, and the exit of a gated bolt. -/
def Obligations.PowerEvents : Prop :=
  ∀ s : State,
    (∀ p, s.board.stage = .on → Completes (.powerSample p) s fun t => t.power.samples = s.power.samples + 1 ∧
      t.power.sumMw = s.power.sumMw + p.inputMw ∧ t.power.peakMw = max s.power.peakMw p.inputMw ∧ t.board.inputMw = p.inputMw ∧
      t.power.underRange = decide (30500 ≤ p.inputMv ∧ p.inputMv < 32000) ∧
      (t.power.peakLock = true ↔ (s.power.peakLock = true ∧ 18000 < overUsed t.power) ∨ (s.power.peakLock = false ∧ 20000 ≤ overUsed t.power)) ∧
      (1000 * (p.linksW + p.memoryW + p.computeW) + 60000 ≤ s.power.capW * 880 → t.power.capCut = []) ∧
      (s.power.capW * 880 < 1000 * (p.linksW + p.memoryW + p.computeW) + 60000 → ∀ c, s.power.order.getLast? = some c → c ∈ t.power.capCut) ∧
      (1500000 < s.board.inputMw ∧ 1500000 < p.inputMw → t.power.supplyHold = true) ∧ t.runs = s.runs) ∧
    (∀ mv, s.board.stage = .on → mv < 30500 → s.power.supplyHold = false → Completes (.supplyWarning mv) s fun t =>
      t.power.supplyHold = true ∧ t.power.holdLow = mv ∧ t.dev.admitSuspended = true ∧ t.runs = s.runs ∧
      (∀ b < 16, (s.bolt b).gate = .none → 8 ≤ (t.bolt b).bubble16) ∧
      t.evq.waiting = s.evq.waiting ++ (if s.evq.en = true ∧ s.evq.mask.getLsbD 6 = false then
        [⟨6, 255, s.time.stitch.toNat, detailOf [(16, 1, 1), (20, 4, mv)]⟩] else [])) ∧
    (s.power.supplyHold = true → Completes .supplyRecovery s fun t => t.power.supplyHold = false ∧ t.power.resumeAtEdge = true ∧
      t.power.supplyEnded = !s.time.hem ∧ t.dev.admitSuspended = s.dev.admitSuspended) ∧
    (s.board.stage ≠ .off → ∀ c trip, (c, trip) ∈ [(Instr.inputReset, s.board.trip), (.overcurrentTrip, some .overcurrent), (.overvoltageShutoff, some .overvoltage)] →
      Completes c s fun t => t.devState = 1 ∧ t.board.stage = .off ∧ t.board.trip = trip ∧ t.store = s.store ∧ t.sleeves = []) ∧
    (∀ n c, n < 82 → s.board.stage = .on → (limitsOf n).2.2 ≤ c → Completes (.thermalTrip n c) s fun t =>
      t.board.stage = .off ∧ t.board.trip = some .thermal ∧ t.store = s.store) ∧
    ∀ b < 16, s.power.pstate ≠ .rest → (s.bolt b).exitDone.isSome = true →
      exec (.boltExitComplete b) s = .next (s.setBolt b { s.bolt b with gate := .none })

/-- Thermal limits and the spread (R400, R467, R468, R490, R529): a sensor at its limit throttles its region or begins its
emergency, once, with event and interrupt; below it by more than 5 degrees the action ends; a spread of 16 degrees holds the
hot dies, one of 20 begins their emergency, below 15 it ends, below 12 the hold. -/
def Obligations.ThermalEvents : Prop :=
  ∀ (s : State), s.board.stage = .on →
    (∀ n c l, n < 82 → (limitsOf n).1 = some l → l ≤ c → (∀ x ∈ s.power.throttled, x ∉ regionOf n) →
      Completes (.thermalThrottle n c) s fun t => t.power.throttled = s.power.throttled ++ [n] ∧ look 0 t.power.temps n = c ∧
        t = { s with power := t.power }) ∧
    (∀ n c, n < 82 → (limitsOf n).2.1 ≤ c → (∀ x ∈ s.power.emergencies, x ∉ regionOf n) → Completes (.thermalEmergency n c) s fun t =>
      t.power.emergencies = s.power.emergencies ++ [n] ∧ .i3cInterrupt 4 ∈ t.out ∧ t.time.emergency = s.time.emergency ||| causeBit 3 ∧
      (76 ≤ n → ∀ j < 8, (t.port (8 * (n - 76) + j)).state = .disabled ∨ (t.port (8 * (n - 76) + j)).state = .down)) ∧
    (∀ n c, n < 82 → c < (limitsOf n).2.1 → (∀ x ∈ s.power.emergencies, x ∉ regionOf n) → exec (.thermalEmergency n c) s = .next (s.setTemp n c)) ∧
    (∀ n c l, n < 82 → (limitsOf n).1 = some l → (∀ x ∈ regionOf n, x ≠ n → look 0 s.power.temps x + 5 < l) → c + 5 < l →
      (∀ x ∈ s.power.emergencies, x ∉ regionOf n) → Completes (.thermalActionEnd n c) s fun t =>
        (∀ x ∈ t.power.throttled, x ∉ regionOf n) ∧ (∀ x ∈ s.power.throttled, x ∉ regionOf n → x ∈ t.power.throttled) ∧
        t.power.emergencies = s.power.emergencies) ∧
    (∀ ts, let u := s.setTemps ts
      (16 ≤ u.spread → Completes (.spreadHoldEnter ts) s fun t =>
        (∀ d, d ∈ t.power.spreadHold ↔ d ∈ s.power.spreadHold ∨ d ∈ u.hotDies.map (·.1)) ∧
        t = { u with power := { u.power with spreadHold := t.power.spreadHold } }) ∧
      (20 ≤ u.spread → Completes (.spreadEmergency ts) s fun t =>
        (∀ d, d ∈ t.power.spreadEmergency ↔ d ∈ s.power.spreadEmergency ∨ d ∈ u.hotDies.map (·.1)) ∧
        (∀ d, d ∈ t.power.spreadHold ↔ d ∈ s.power.spreadHold ∨ d ∈ u.hotDies.map (·.1)) ∧ t.runs = s.runs) ∧
      (u.spread < 12 → Completes (.spreadHoldEnd ts) s fun t => t.power.spreadHold = [] ∧ t.power.spreadEmergency = []) ∧
      (12 ≤ u.spread → u.spread < 15 → Completes (.spreadHoldEnd ts) s fun t => t.power.spreadHold = s.power.spreadHold ∧ t.power.spreadEmergency = []) ∧
      (15 ≤ u.spread → exec (.spreadHoldEnd ts) s = .next u))

/-- Errors, the entropy source and the front panel (R434, R478, R480, R481, R485, R516 to R520, R525): a class 2 error unravels
once; a class 3 error goes to the flash ring and resets the module; a failing entropy source is logged once; a short press opens
and cancels the removal window; its expiry prepares the removal, which ends in SAFE; the FAULT LED pulses the cause of a failure,
and ATTN shows the removal. -/
def Obligations.ErrorsAndPanel : Prop :=
  ∀ s : State,
    (∀ d n, s.stitching = true → d ≤ 8 → classTwoSource n = true →
      (s.rel.unravel = none → Completes (.unravel d n) s fun t => t.rel.unravel = some (unravelK s.time.len, s.time.stitch.toNat + unravelK s.time.len) ∧
        t.rel.unravels = min (s.rel.unravels + 1) (2 ^ 32 - 1) ∧ t.dev.unravel = true ∧ t.board.classTwoBlink = true ∧ t.posts = [] ∧
        ∀ b < 16, (t.bolt b).run = none ∧ (t.bolt b).mem = [] ∧ (t.bolt b).lanes = (s.bolt b).lanes) ∧
      (s.rel.unravel ≠ none → Completes (.unravel d n) s fun t => t.rel.unravel = s.rel.unravel ∧ t.rel.total = s.rel.total + 1 ∧
        t = { s with rel := t.rel })) ∧
    (∀ d n, s.meRuns = true → d ≤ 8 → Completes (.fatalError d n) s fun t => t.devState = 1 ∧ t.sleeves = [] ∧ t.runs = [] ∧
      ∃ r, t.store.fatalRing.getLast? = some r ∧ r.cls = 3 ∧ r.source = n ∧ t.store = { s.store with fatalRing := t.store.fatalRing }) ∧
    (s.sec.entropyFailing = false → Completes .entropyHealthFail s fun t => t.sec = { s.sec with entropyFailing := true } ∧
      t.rel.entropy = min (s.rel.entropy + 1) (2 ^ 32 - 1) ∧ t.rel.total = s.rel.total + 1 ∧ t = { s with sec := t.sec, rel := t.rel }) ∧
    (s.sec.entropyFailing = true → exec .entropyHealthFail s = .next s) ∧
    exec .entropyRecovery s = .next { s with sec := { s.sec with entropyFailing := false } } ∧
    exec .drbgReseed s = .next { s with sec := { s.sec with reseeds := s.sec.reseeds + 1 } } ∧
    exec .faultLedTimeout s = .next { s with board := { s.board with classTwoBlink := false } } ∧
    exec .identifyTimeout s = .next { s with board := { s.board with identify := 0 } } ∧
    (s.board.stage = .on → s.board.lampTest = false →
      (s.dev.phase = .failed → s.faultLed = .pulses s.dev.fail.toNat) ∧
      (s.board.removal = .window → s.attnLed = .hz4) ∧ (s.board.removal = .preparing → s.attnLed = .hz1) ∧
      (s.board.removal = .safe → s.attnLed = .steady) ∧ (s.attnOutLow = true ↔ s.board.removal = .preparing ∨ s.board.removal = .safe)) ∧
    (∀ ms, s.meRuns = true → 100 ≤ ms → ms ≤ 2000 →
      (s.board.removal = .idle → exec (.attnPress ms) s = .next { s with board := { s.board with removal := .window } }) ∧
      (s.board.removal = .window → exec (.attnPress ms) s = .next (({ s with board := { s.board with removal := .idle } } : State).emit (.i3cInterrupt 2)))) ∧
    (s.board.removal = .window → s.dev.phase ≠ .failed → Completes .removalWindowExpiry s fun t =>
      t.board = { s.board with removal := .preparing, leaveAcked := false } ∧
      t.out = s.out ++ (.i3cInterrupt 1 :: if s.hasManager = true ∧ s.isManager = false then [.channel0 .leaveNotice] else [])) ∧
    (s.board.removal = .preparing → s.session = none → (s.board.leaveAcked = true ∨ s.hasManager = false ∨ s.isManager = true) → s.sourcing = false →
      exec .removalSafe s = .next (({ s with board := { s.board with removal := .safe } } : State).emit (.i3cInterrupt 3)))

/-- The ME (R315, R316, R318, R424, R425, R428, R429, R445 to R447, R505, R524, R525): what is not authentic and new is
refused and changes nothing; each operation's effect, with its number kept; what the ME answers unsigned.
The signatures under quotes and certificates are free values (log entry 20). -/
def Obligations.ManagementOperations : Prop :=
  ∀ (s : State) (m : MgmtHdr), s.meRuns = true →
    (∀ c, mgmtHdr c = some m → (s.store.anchor = none ∨ m.sigOk = false ∨ m.seq ≤ s.store.mgmtSeq) → exec c s = .next (s.mgmtReply false [])) ∧
    (s.takes m →
      let u := s.accepted_ m
      let does (c : Instr) (t : State) : Prop := exec c s = .next (t.mgmtReply true [])
      (∀ i p, i < 16 → (∀ x, p = some x → profileFits x = true) → does (.mgmtSetProfile m i p) { u with store := { u.store with profiles := put none s.store.profiles i p } }) ∧
      (∀ l, s.isManager = false → look none s.store.profiles s.board.domainSel.toNat = none → does (.mgmtRoster m l) u) ∧
      (∀ l, s.isManager = true → Completes (.mgmtRoster m l) s fun t => t.domain.roster = l ∧
        t.domain.rosterGen = (s.domain.rosterGen + 1) % 2 ^ 32 ∧ .channel0 (.roster t.domain.rosterGen l) ∈ t.out) ∧
      (∀ e, s.time.stitch.toNat < e → (s.isManager = true ∨ s.domain.role = .standby) →
        does (.mgmtRoleMove m e) { u with domain := { s.domain with roleMove := some e } }) ∧
      (∀ p, p < 48 → Completes (.mgmtPortDisable m p) s fun t => (t.port p).state = .disabled ∧ (∀ x, x ≠ p → t.port x = s.port x) ∧
        t.out.getLast? = some (.mgmtReply true [])) ∧
      (∀ o d, o + d.length ≤ 2 ^ 26 → s.dev.writerLock ≠ some .host → Completes (.mgmtFwWrite m o d) s fun t =>
        t.dev = { s.dev with writerLock := some .me } ∧ memRead t.inactiveImage o d.length = d ∧ t.activeImage = s.activeImage ∧
        ∀ a, a < o ∨ o + d.length ≤ a → memGet t.inactiveImage a = memGet s.inactiveImage a) ∧
      (∀ n f, s.dev.fw = some f → n ≤ f.svn → n ≤ 63 → does (.mgmtSvnRaise m n) { u with store := { u.store with svnMin := max s.store.svnMin n } }) ∧
      (∀ nonce f, nonce.length = 32 → s.dev.lowerLeaf ≤ 960 → s.dev.fw = some f → Completes (.mgmtQuote m nonce) s fun t =>
        t.dev = { s.dev with lowerLeaf := s.dev.lowerLeaf + 1 } ∧ t.out = s.out ++
          [.signed (.quote nonce s.dev.bootId f.measure s.time.stitch s.domain.node s.domain.role s.domain.rosterGen (s.session.map (·.ek)))
            (Config.signature s.freeCtr), .mgmtReply true []]) ∧
      (∀ k, (∀ d, s.certificate k = some d → Completes (.mgmtCertificate m k) s fun t =>
          t = { u with freeCtr := s.freeCtr + 1, out := s.out ++ [.signed d (Config.signature s.freeCtr), .mgmtReply true []] }) ∧
        (s.certificate k = none → exec (.mgmtCertificate m k) s = .next (u.mgmtReply false []))) ∧
      (∀ id target off, s.isManager = true → s.time.stitch.toNat + 2 ≤ target → off < snapUnits s.time.len →
        does (.mgmtDomainSnapshot m id target off) (u.sendTrigger id target off)) ∧
      (∀ w o, 600 ≤ w → w ≤ 1200 → classOrder o = true → 1000 * sumOf (s.sleeves.map (·.power)) ≤ s.computePart w o →
        does (.mgmtSetCap m w o) { u with power := { s.power with capNext := some (w, o) } }) ∧
      (Completes (.mgmtReset m) s fun t => t.devState = 1 ∧ t.sleeves = [] ∧ t.board.stage = s.board.stage ∧ t.out = s.out ++ [.mgmtReply true []] ∧
        t.store = { s.store with mgmtSeq := m.seq }) ∧
      (∀ n, 1 ≤ n → n ≤ 255 → does (.mgmtIdentify m n) { u with board := { s.board with identify := n } }) ∧
      (∀ k, does (.mgmtAnchorReplace m k) { u with store := { u.store with anchor := some k } }) ∧
      does (.mgmtDecommission m) { u with store := { u.store with anchor := none } } ∧
      (s.leaving = true → does (.mgmtRemovalCancel m) { u with board := { s.board with removal := .idle } }) ∧
      does (.mgmtSetSgmii m) { u with board := { s.board with sgmii := true } }) ∧
    (∀ k, s.store.anchor = none → exec (.anchorInstall k) s = .next (({ s with store := { s.store with anchor := some k } } : State).mgmtReply true [])) ∧
    (∀ k x, s.store.anchor = some x → exec (.anchorInstall k) s = .next (s.mgmtReply false [])) ∧
    (Completes .i3cStatusRead s fun t => ∃ b, t = s.emit (.i3cData b) ∧ b.length = 16 ∧ b.take 4 = leBytes 4 s.devState) ∧
    (Completes .i3cIdentityRead s fun t => ∃ b, t = s.emit (.i3cData b) ∧ b.length = 16 ∧ b.drop 8 = leBytes 8 s.store.serial.toNat) ∧
    (∀ f ∈ [NetFrame.arp, .ndp, .echo], exec (.mgmtNetworkFrame f) s = .next (s.emit (.netReply f))) ∧
    ∀ p, exec (.mgmtNetworkFrame (.udp p)) s = .next s ∧ exec (.mgmtNetworkFrame .other) s = .next s
end

