-- ==== Sys2Proof/Laws/Memory.lean ====
section
/-! SUPPORT. Sparse maps and memories: every operation keeps the canonical form, a read after a write to the same place
gives the value written, and a write leaves every other place alone. -/
namespace Sys2Proof.Machine
open Sys2Proof

variable {α : Type}

/-! ### Reading back -/

@[simp] theorem look_drop_same (d : α) (m : Sparse α) (k : Nat) : look d (drop m k) k = d := by
  induction m with
  | nil => rfl
  | cons e m ih =>
    unfold drop
    split
    · exact ih
    · rename_i h; simp [look, h, ih]

theorem look_drop_other (d : α) (m : Sparse α) (k j : Nat) (h : j ≠ k) : look d (drop m k) j = look d m j := by
  induction m with
  | nil => rfl
  | cons e m ih =>
    unfold drop
    split
    · rename_i he; simp [look, ih, he, Ne.symm h]
    · simp [look, ih]

theorem look_insert_same (d : α) (m : Sparse α) (k : Nat) (v : α) (h : ∀ e ∈ m, e.1 ≠ k) :
    look d (insert m k v) k = v := by
  induction m with
  | nil => simp [insert, look]
  | cons e m ih =>
    unfold insert
    split
    · simp [look]
    · have := h e (by simp)
      simp [look, this, ih fun x hx => h x (by simp [hx])]

theorem look_insert_other (d : α) (m : Sparse α) (k j : Nat) (v : α) (h : j ≠ k) :
    look d (insert m k v) j = look d m j := by
  induction m with
  | nil => simp [insert, look, Ne.symm h]
  | cons e m ih =>
    unfold insert
    split
    · simp [look, Ne.symm h]
    · simp [look, ih]

theorem mem_drop (m : Sparse α) (k : Nat) (e : Nat × α) : e ∈ drop m k ↔ e ∈ m ∧ e.1 ≠ k := by
  induction m with
  | nil => simp [drop]
  | cons x m ih =>
    unfold drop
    split
    · rename_i h; simp only [ih, List.mem_cons]
      constructor
      · rintro ⟨a, b⟩; exact ⟨.inr a, b⟩
      · rintro ⟨rfl | a, b⟩
        · exact absurd h b
        · exact ⟨a, b⟩
    · rename_i h; simp only [List.mem_cons, ih]
      constructor
      · rintro (rfl | ⟨a, b⟩)
        · exact ⟨.inl rfl, h⟩
        · exact ⟨.inr a, b⟩
      · rintro ⟨rfl | a, b⟩
        · exact .inl rfl
        · exact .inr ⟨a, b⟩

theorem mem_insert (m : Sparse α) (k : Nat) (v : α) (e : Nat × α) : e ∈ insert m k v ↔ e = (k, v) ∨ e ∈ m := by
  induction m with
  | nil => simp [insert]
  | cons x m ih =>
    unfold insert
    split
    · simp
    · simp only [List.mem_cons, ih]
      exact or_left_comm

/-- A read after a write to the same key. -/
@[simp] theorem look_put_same [DecidableEq α] (d : α) (m : Sparse α) (k : Nat) (v : α) : look d (put d m k v) k = v := by
  unfold put
  split
  · rename_i h; simp [h]
  · exact look_insert_same d _ k v fun e he => ((mem_drop m k e).mp he).2

/-- A write leaves every other key alone. -/
theorem look_put_other [DecidableEq α] (d : α) (m : Sparse α) (k j : Nat) (v : α) (h : j ≠ k) :
    look d (put d m k v) j = look d m j := by
  unfold put
  split
  · exact look_drop_other d m k j h
  · rw [look_insert_other d _ k j v h, look_drop_other d m k j h]

/-- What a map holds after a write: the new entry or an old one. -/
theorem mem_put [DecidableEq α] {d : α} {m : Sparse α} {k : Nat} {v : α} {e : Nat × α} (h : e ∈ put d m k v) :
    e = (k, v) ∨ e ∈ m := by
  unfold put at h
  split at h
  · exact .inr ((mem_drop m k e).mp h).1
  · rcases (mem_insert _ k v e).mp h with h | h
    · exact .inl h
    · exact .inr ((mem_drop m k e).mp h).1

/-- What a map reads at a key is the default or an entry. -/
theorem look_mem (d : α) (m : Sparse α) (k : Nat) : look d m k = d ∨ ∃ e ∈ m, e.2 = look d m k := by
  induction m with
  | nil => exact .inl rfl
  | cons e m ih =>
    unfold look
    split
    · exact .inr ⟨e, by simp, rfl⟩
    · rcases ih with h | ⟨x, hx, h⟩
      · exact .inl h
      · exact .inr ⟨x, by simp [hx], h⟩

/-! ### The canonical form -/

/-- Canonical with every key above a bound. -/
theorem canonical_iff [DecidableEq α] (d : α) (m : Sparse α) :
    canonical d m = true ↔ (∀ e ∈ m, e.2 ≠ d) ∧ m.Pairwise fun a b => a.1 < b.1 := by
  induction m with
  | nil => simp [canonical]
  | cons e m ih =>
    obtain ⟨i, v⟩ := e
    cases m with
    | nil => simp [canonical]
    | cons f m =>
      obtain ⟨j, w⟩ := f
      simp only [canonical, Bool.and_eq_true, decide_eq_true_eq, ih, List.pairwise_cons, List.mem_cons]
      constructor
      · rintro ⟨⟨h1, h2⟩, h3, h4, h5⟩
        refine ⟨?_, ?_, h4, h5⟩
        · rintro x (rfl | rfl | hx)
          · exact h1
          · exact h3 _ (.inl rfl)
          · exact h3 _ (.inr hx)
        · rintro x (rfl | hx)
          · exact h2
          · exact Nat.lt_trans h2 (h4 x hx)
      · rintro ⟨h1, h2, h3, h4⟩
        exact ⟨⟨h1 _ (.inl rfl), h2 _ (.inl rfl)⟩, fun x hx => h1 x (.inr hx), h3, h4⟩

theorem canonical_drop [DecidableEq α] (d : α) (m : Sparse α) (k : Nat) (h : canonical d m = true) :
    canonical d (drop m k) = true := by
  rw [canonical_iff] at h ⊢
  refine ⟨fun e he => h.1 e ((mem_drop m k e).mp he).1, ?_⟩
  have hs : (drop m k).Sublist m := by
    clear h
    induction m with
    | nil => exact List.Sublist.slnil
    | cons e m ih =>
      unfold drop
      split
      · exact ih.cons _
      · exact ih.cons_cons _
  exact h.2.sublist hs

theorem canonical_insert [DecidableEq α] (d : α) (m : Sparse α) (k : Nat) (v : α) (hv : v ≠ d)
    (hk : ∀ e ∈ m, e.1 ≠ k) (h : canonical d m = true) : canonical d (insert m k v) = true := by
  rw [canonical_iff] at h ⊢
  refine ⟨fun e he => ?_, ?_⟩
  · rcases (mem_insert m k v e).mp he with rfl | he
    · exact hv
    · exact h.1 e he
  · have hp := h.2
    clear h
    induction m with
    | nil => simp [insert]
    | cons e m ih =>
      rw [List.pairwise_cons] at hp
      unfold insert
      split
      · rename_i hlt
        refine List.pairwise_cons.mpr ⟨?_, List.pairwise_cons.mpr hp⟩
        intro x hx
        rcases List.mem_cons.mp hx with rfl | hx
        · exact hlt
        · exact Nat.lt_trans hlt (hp.1 x hx)
      · rename_i hlt
        have hne := hk e (by simp)
        refine List.pairwise_cons.mpr ⟨?_, ih (fun x hx => hk x (by simp [hx])) hp.2⟩
        intro x hx
        rcases (mem_insert m k v x).mp hx with rfl | hx
        · exact Nat.lt_of_le_of_ne (Nat.le_of_not_lt hlt) hne
        · exact hp.1 x hx

/-- Every write keeps the canonical form. -/
theorem canonical_put [DecidableEq α] (d : α) (m : Sparse α) (k : Nat) (v : α) (h : canonical d m = true) :
    canonical d (put d m k v) = true := by
  unfold put
  split
  · exact canonical_drop d m k h
  · rename_i hv
    exact canonical_insert d _ k v hv (fun e he => ((mem_drop m k e).mp he).2) (canonical_drop d m k h)

theorem canonical_filter [DecidableEq α] (d : α) (m : Sparse α) (p : Nat × α → Bool) (h : canonical d m = true) :
    canonical d (m.filter p) = true := by
  rw [canonical_iff] at h ⊢
  exact ⟨fun e he => h.1 e (List.mem_filter.mp he).1, h.2.sublist List.filter_sublist⟩

/-! ### Memories of bytes -/

/-- Empty memory is in canonical form. -/
@[simp] theorem Memory.wf_nil : Memory.wf [] = true := rfl

theorem Memory.wf_memSet (m : Mem) (a : Nat) (v : Byte) (h : Memory.wf m = true) : Memory.wf (memSet m a v) = true :=
  canonical_put blankByte m a v h

theorem Memory.wf_memWrite (m : Mem) (a : Nat) (bs : List Byte) (h : Memory.wf m = true) :
    Memory.wf (memWrite m a bs) = true := by
  induction bs generalizing m a with
  | nil => exact h
  | cons b bs ih => exact ih _ _ (Memory.wf_memSet m a b h)

theorem Memory.wf_filter (m : Mem) (p : Host.Cell → Bool) (h : Memory.wf m = true) : Memory.wf (m.filter p) = true :=
  canonical_filter blankByte m p h

@[simp] theorem memGet_memSet_same (m : Mem) (a : Nat) (v : Byte) : memGet (memSet m a v) a = v :=
  look_put_same blankByte m a v

theorem memGet_memSet_other (m : Mem) (a b : Nat) (v : Byte) (h : b ≠ a) : memGet (memSet m a v) b = memGet m b :=
  look_put_other blankByte m a b v h

/-- A write of bytes leaves every address outside them alone. -/
theorem memGet_memWrite_outside (m : Mem) (a : Nat) (bs : List Byte) (x : Nat) (h : x < a ∨ a + bs.length ≤ x) :
    memGet (memWrite m a bs) x = memGet m x := by
  induction bs generalizing m a with
  | nil => rfl
  | cons b bs ih =>
    simp only [List.length_cons] at h
    rw [memWrite, ih _ _ (by omega), memGet_memSet_other _ _ _ _ (by omega)]

/-- A write of bytes reads back byte by byte. -/
theorem memGet_memWrite_inside (m : Mem) (a : Nat) (bs : List Byte) (i : Nat) (h : i < bs.length) :
    memGet (memWrite m a bs) (a + i) = bs[i] := by
  induction bs generalizing m a i with
  | nil => simp at h
  | cons b bs ih =>
    cases i with
    | zero => rw [memWrite, memGet_memWrite_outside _ _ _ _ (by omega)]; simp
    | succ i =>
      have := ih (memSet m a b) (a + 1) i (by simpa using h)
      rw [memWrite, show a + (i + 1) = a + 1 + i by omega, this]; rfl

/-- What was written is what is read. -/
@[simp] theorem memRead_memWrite (m : Mem) (a : Nat) (bs : List Byte) : memRead (memWrite m a bs) a bs.length = bs := by
  apply List.ext_getElem
  · simp [memRead]
  · intro i h1 h2
    simp only [memRead, List.getElem_map, List.getElem_range]
    exact memGet_memWrite_inside m a bs i h2

end Sys2Proof.Machine
end

