-- ==== Sys2Proof/Laws/Moves.lean ====
section
/-! SUPPORT. What every operation on the state keeps: nothing that no command undoes is undone (`Keeps`), and the
invariant (`State.Inv`) holds after it if it held before. The relation, how it composes, and the named updates. -/
namespace Sys2Proof.Machine
open Sys2Proof

/-- From `z` to `t` nothing is undone, and the invariant carries over. -/
structure Moves (z t : State) : Prop where
  keeps : Keeps z t
  inv : z.Inv → t.Inv

/-- Every next state an outcome answers is reached so. -/
def Ends (z : State) (o : Host.Outcome State Fault Refusal) : Prop := ∀ t, o = .next t → Moves z t

theorem Moves.refl (z : State) : Moves z z :=
  ⟨⟨rfl, List.prefix_refl _, Nat.le_refl _, rfl, rfl, Nat.le_refl _, Nat.le_refl _⟩, id⟩

theorem Moves.trans {z s t : State} (h : Moves z s) (k : Moves s t) : Moves z t :=
  ⟨⟨k.keeps.pending.trans h.keeps.pending, h.keeps.out.trans k.keeps.out, Nat.le_trans h.keeps.free k.keeps.free,
    k.keeps.part.trans h.keeps.part, k.keeps.serial.trans h.keeps.serial, Nat.le_trans h.keeps.svn k.keeps.svn,
    Nat.le_trans h.keeps.topLeaf k.keeps.topLeaf⟩, fun i => k.inv (h.inv i)⟩

theorem Ends.next {z t : State} (h : Moves z t) : Ends z (.next t) := by intro u hu; cases hu; exact h
theorem Ends.fault {z : State} {f : Fault} : Ends z (.fault f) := by intro u hu; cases hu
theorem Ends.refused {z : State} {f : Refusal} : Ends z (.refused f) := by intro u hu; cases hu

theorem Moves.ite {z a b : State} {c : Prop} [Decidable c] (ha : Moves z a) (hb : Moves z b) :
    Moves z (if c then a else b) := by
  split
  · exact ha
  · exact hb

theorem Moves.foldl {α : Type} {z : State} {f : State → α → State} {l : List α} {s : State}
    (hf : ∀ s a, Moves z s → Moves z (f s a)) (h : Moves z s) : Moves z (l.foldl f s) := by
  induction l generalizing s with
  | nil => exact h
  | cons a l ih => exact ih (hf s a h)

/-- The bolt's local store, and the copy of it that a stop goes back to, are in canonical form. -/
abbrev Bolt.Wf (b : Bolt) : Prop := Memory.wf b.mem = true ∧ Memory.wf b.found = true
/-- The sleeve's device memory is in canonical form. -/
abbrev Sleeve.Wf (v : Sleeve) : Prop := Memory.wf v.mem = true
/-- The slot's memory is in canonical form. -/
abbrev Slot.Wf (q : Slot) : Prop := Memory.wf q.mem = true
/-- What a commit record keeps of the sleeves and of the stitch length is legal. -/
abbrev LogPoint.Wf (p : LogPoint) : Prop :=
  (∀ v ∈ p.sleeves, Sleeve.Wf v) ∧ ∀ c, p.lenNext = some c → c < 4

theorem Bolt.Wf.store {b : Bolt} (w : Bolt.Wf b) : Memory.wf b.mem = true := w.1
theorem Bolt.Wf.copy {b : Bolt} (w : Bolt.Wf b) : Memory.wf b.found = true := w.2

theorem Bolt.wf_ite {a b : Bolt} {c : Prop} [Decidable c] (ha : Bolt.Wf a) (hb : Bolt.Wf b) : Bolt.Wf (if c then a else b) := by
  split
  · exact ha
  · exact hb

theorem Bolt.wf_foldl {α : Type} {f : Bolt → α → Bolt} {l : List α} {b : Bolt}
    (hf : ∀ b a, Bolt.Wf b → Bolt.Wf (f b a)) (h : Bolt.Wf b) : Bolt.Wf (l.foldl f b) := by
  induction l generalizing b with
  | nil => exact h
  | cons a l ih => exact ih (hf b a h)

theorem Sleeve.wf_foldl {α : Type} {f : Sleeve → α → Sleeve} {l : List α} {b : Sleeve}
    (hf : ∀ b a, Sleeve.Wf b → Sleeve.Wf (f b a)) (h : Sleeve.Wf b) : Sleeve.Wf (l.foldl f b) := by
  induction l generalizing b with
  | nil => exact h
  | cons a l ih => exact ih (hf b a h)

theorem Memory.wf_foldl {α : Type} {f : Mem → α → Mem} {l : List α} {m : Mem}
    (hf : ∀ m a, Memory.wf m = true → Memory.wf (f m a) = true) (h : Memory.wf m = true) :
    Memory.wf (l.foldl f m) = true := by
  induction l generalizing m with
  | nil => exact h
  | cons a l ih => exact ih (hf m a h)

theorem Sleeve.wf_map {l : List Sleeve} {f : Sleeve → Sleeve} (h : ∀ v ∈ l, Sleeve.Wf v)
    (hf : ∀ v, Sleeve.Wf v → Sleeve.Wf (f v)) : ∀ v ∈ l.map f, Sleeve.Wf v := by
  intro v hv; obtain ⟨w, hw, rfl⟩ := List.mem_map.mp hv; exact hf w (h w hw)

theorem Sleeve.wf_filter {l : List Sleeve} {p : Sleeve → Bool} (h : ∀ v ∈ l, Sleeve.Wf v) :
    ∀ v ∈ l.filter p, Sleeve.Wf v := fun v hv => h v (List.mem_filter.mp hv).1

theorem Sleeve.wf_append {l : List Sleeve} {w : Sleeve} (h : ∀ v ∈ l, Sleeve.Wf v) (hw : Sleeve.Wf w) :
    ∀ v ∈ l ++ [w], Sleeve.Wf v := by
  intro v hv
  rcases List.mem_append.mp hv with hv | hv
  · exact h v hv
  · rw [List.mem_singleton.mp hv]; exact hw

theorem State.wf_bolt {s : State} (i : s.Inv) (b : Nat) : Bolt.Wf (s.bolt b) := by
  rcases look_mem {} s.bolts b with h | ⟨e, he, h⟩
  · rw [Bolt.Wf, State.bolt, h]; exact ⟨rfl, rfl⟩
  · rw [Bolt.Wf, State.bolt, ← h]; exact i.boltMem e he

theorem State.wf_slot {s : State} (i : s.Inv) (n : Nat) : Slot.Wf (s.slot n) := by
  rcases look_mem {} s.bases.slots n with h | ⟨e, he, h⟩
  · rw [Slot.Wf, State.slot, h]; rfl
  · rw [Slot.Wf, State.slot, ← h]; exact i.slotMem e he

/-- A record update: what it writes of the parts that `Keeps` and `State.Inv` speak of must be shown; the rest is free. -/
theorem Moves.upd {z s : State} {out : List Output} {fc : Nat} {board : Board} {store : Store} {dev : Dev} {hif : HostIf}
    {mbx : Mailbox} {evq : EventQ} {snap : Snap} {session : Option Session} {admSqs : List Sq} {admCqs : List Cq}
    {admAccepted : List Accepted} {admHeaders : Nat} {sleeves : List Sleeve} {time : Time} {runs : List Run}
    {nextRun : Nat} {tenants : List Tenant} {patches : List Patch} {bolts : Sparse Bolt} {memSide : MemSide}
    {ports : Sparse Port} {edgePorts : List EdgePort} {segWindows : List SegWindow} {groups : List Group} {posts : List Post} {domain : Domain}
    {bases : Bases} {power : Power} {rel : Rel} {sec : Sec} (h : Moves z s)
    (out_ : s.out <+: out := by exact List.prefix_refl _) (free_ : s.freeCtr ≤ fc := by exact Nat.le_refl _)
    (part_ : store.part = s.store.part := by rfl) (serial_ : store.serial = s.store.serial := by rfl)
    (svn_ : s.store.svnMin ≤ store.svnMin := by exact Nat.le_refl _)
    (leaf_ : s.store.topLeaf ≤ store.topLeaf := by exact Nat.le_refl _)
    (images_ : s.Inv → Memory.wf store.imageA = true ∧ Memory.wf store.imageB = true := by exact fun i => i.images)
    (mailbox_ : s.Inv → Memory.wf mbx.cmd = true ∧ Memory.wf mbx.resp = true := by exact fun i => i.mailbox)
    (sleeves_ : s.Inv → ∀ v ∈ sleeves, Sleeve.Wf v := by exact fun i => i.sleeveMem)
    (len_ : s.Inv → time.len < 4 := by exact fun i => i.stitchLength)
    (next_ : s.Inv → ∀ c, time.lenNext = some c → c < 4 := by exact fun i => i.nextLength)
    (bolts_ : s.Inv → canonical {} bolts = true ∧ ∀ e ∈ bolts, Bolt.Wf e.2 := by exact fun i => ⟨i.bolts, i.boltMem⟩)
    (ports_ : s.Inv → canonical {} ports = true := by exact fun i => i.ports)
    (slots_ : s.Inv → canonical {} bases.slots = true ∧ ∀ e ∈ bases.slots, Slot.Wf e.2 := by
      exact fun i => ⟨i.slots, i.slotMem⟩)
    (log_ : s.Inv → ∀ p ∈ time.log, LogPoint.Wf p := by exact fun i => i.logged) :
    Moves z (State.mk s.pending out fc board store dev hif mbx evq snap session admSqs admCqs admAccepted admHeaders sleeves
      time runs nextRun tenants patches bolts memSide ports edgePorts segWindows groups posts domain bases power rel sec) := by
  refine ⟨⟨h.keeps.pending, h.keeps.out.trans out_, Nat.le_trans h.keeps.free free_, part_.trans h.keeps.part,
    serial_.trans h.keeps.serial, Nat.le_trans h.keeps.svn svn_, Nat.le_trans h.keeps.topLeaf leaf_⟩, fun i => ?_⟩
  have j := h.inv i
  exact ⟨(bolts_ j).1, ports_ j, (slots_ j).1, (bolts_ j).2, sleeves_ j, (slots_ j).2, images_ j, mailbox_ j, len_ j, next_ j,
    log_ j⟩

theorem Sparse.wf_put {α : Type} [DecidableEq α] {d : α} {m : Sparse α} {k : Nat} {v : α} {P : α → Prop}
    (h : canonical d m = true ∧ ∀ e ∈ m, P e.2) (hv : P v) :
    canonical d (put d m k v) = true ∧ ∀ e ∈ put d m k v, P e.2 :=
  ⟨canonical_put d m k v h.1, fun e he => (mem_put he).elim (fun x => x ▸ hv) (h.2 e)⟩

theorem State.setBolt_moves {z s : State} {b : Nat} {v : Bolt} (h : Moves z s) (hv : z.Inv → s.Inv → Bolt.Wf v) :
    Moves z (s.setBolt b v) := by
  refine ⟨⟨h.keeps.pending, h.keeps.out, h.keeps.free, h.keeps.part, h.keeps.serial, h.keeps.svn, h.keeps.topLeaf⟩, fun i => ?_⟩
  have j := h.inv i
  have k := Sparse.wf_put ⟨j.bolts, j.boltMem⟩ (hv i j) (k := b)
  exact ⟨k.1, j.ports, j.slots, k.2, j.sleeveMem, j.slotMem, j.images, j.mailbox, j.stitchLength, j.nextLength,
    j.logged⟩

theorem State.updBolt_moves {z s : State} {b : Nat} {f : Bolt → Bolt} (h : Moves z s)
    (hf : ∀ B, Bolt.Wf B → Bolt.Wf (f B)) : Moves z (s.updBolt b f) :=
  State.setBolt_moves h fun _ i => hf _ (State.wf_bolt i b)

theorem State.updBolts_moves {z s : State} {bs : List Nat} {f : Nat → Bolt → Bolt} (h : Moves z s)
    (hf : ∀ b B, Bolt.Wf B → Bolt.Wf (f b B)) : Moves z (s.updBolts bs f) :=
  Moves.foldl (fun _ b h => State.updBolt_moves h (hf b)) h

theorem State.updSleeve_moves {z s : State} {n : Nat} {f : Sleeve → Sleeve} (h : Moves z s)
    (hf : ∀ v, Sleeve.Wf v → Sleeve.Wf (f v)) : Moves z (s.updSleeve n f) :=
  Moves.upd h (sleeves_ := fun i => Sleeve.wf_map i.sleeveMem fun v hv => by
    split
    · exact hf v hv
    · exact hv)

theorem State.updSlot_moves_of {z s : State} {n : Nat} {f : Slot → Slot} (h : Moves z s)
    (hf : z.Inv → ∀ q, Slot.Wf q → Slot.Wf (f q)) : Moves z (s.updSlot n f) := by
  refine ⟨⟨h.keeps.pending, h.keeps.out, h.keeps.free, h.keeps.part, h.keeps.serial, h.keeps.svn, h.keeps.topLeaf⟩, fun i => ?_⟩
  have j := h.inv i
  have k := Sparse.wf_put ⟨j.slots, j.slotMem⟩ (hf i _ (State.wf_slot j n)) (k := n)
  exact ⟨j.bolts, j.ports, k.1, j.boltMem, j.sleeveMem, k.2, j.images, j.mailbox, j.stitchLength, j.nextLength,
    j.logged⟩

theorem State.updSlot_moves {z s : State} {n : Nat} {f : Slot → Slot} (h : Moves z s)
    (hf : ∀ q, Slot.Wf q → Slot.Wf (f q)) : Moves z (s.updSlot n f) := State.updSlot_moves_of h fun _ => hf

theorem State.updPort_moves {z s : State} {p : Nat} {f : Port → Port} (h : Moves z s) : Moves z (s.updPort p f) :=
  Moves.upd h (ports_ := fun i => canonical_put _ _ _ _ i.ports)

theorem State.emit_moves {z s : State} {o : Output} (h : Moves z s) : Moves z (s.emit o) :=
  Moves.upd h (out_ := List.prefix_append _ _)

theorem State.fresh_moves {z s : State} (h : Moves z s) : Moves z s.fresh.2 := Moves.upd h (free_ := Nat.le_succ _)

end Sys2Proof.Machine
end

