-- ==== Sys2Proof/Laws/MovesBolts.lean ====
section
/-! SUPPORT. The operations and commands of bolts, of memory, and of the host-write phase, registers and mailbox: what each keeps (`Moves`, `Ends`, `Wf`),
one lemma a definition, for the statements over every command. -/
namespace Sys2Proof.Machine
open Sys2Proof

/- One proof after another: the many short proofs here would else each take a thread of their own. -/
set_option Elab.async false


/-! ### Ops -/

theorem State.updPatch_moves {z s : State} {x2 f} (h : Moves z s) : Moves z (s.updPatch x2 f) := by
  unfold State.updPatch; refine Moves.upd ?_; exact h

theorem State.updRun_moves {z s : State} {id f} (h : Moves z s) : Moves z (s.updRun id f) := by
  unfold State.updRun; refine Moves.upd ?_; exact h

theorem State.dropRun_moves {z s : State} {id} (h : Moves z s) : Moves z (s.dropRun id) := by
  unfold State.dropRun; refine Moves.upd ?_; exact h

/-! ### Operands -/

theorem within_moves {z k : State} {bno es} (h : Moves z k) : Ends z (within bno es k) := by
  unfold within; split; exact Ends.fault; apply Ends.next; exact h

theorem Bolt.draw_wf {b bno stitch u i} (w : Bolt.Wf b) : Bolt.Wf (Bolt.draw b bno stitch u i).2 := by
  unfold Bolt.draw; exact w

theorem roundRow_wf {f c b i vs} (w : Bolt.Wf b) : Bolt.Wf (roundRow f c b i vs).2 := by
  induction vs generalizing b i with
  | nil => exact w
  | cons v vs ih =>
    unfold roundRow
    split
    · exact ih (Bolt.draw_wf w)
    · exact ih w

theorem roundBlock_wf {f margin c b i vals} (w : Bolt.Wf b) : Bolt.Wf (roundBlock f margin c b i vals).2.2 := by
  unfold roundBlock
  dsimp only
  split
  · exact w
  · exact roundRow_wf w


theorem roundBlocks_wf {f margin c b i bs} (w : Bolt.Wf b) : Bolt.Wf (roundBlocks f margin c b i bs).2 := by
  induction bs generalizing b i with
  | nil => exact w
  | cons _ bs ih => exact ih (roundBlock_wf w)

theorem State.noteHandOff_moves {z s : State} {id o} (h : Moves z s) : Moves z (s.noteHandOff id o) := by
  unfold State.noteHandOff; apply State.updRun_moves; exact h

theorem handRow_wf {f margin x c b i row} (w : Bolt.Wf b) : Bolt.Wf (handRow f margin x c b i row).2 := by
  unfold handRow; split; apply roundBlocks_wf; exact w; dsimp only; apply roundRow_wf; exact w

theorem handRows_wf {f margin x c b i rows} (w : Bolt.Wf b) : Bolt.Wf (handRows f margin x c b i rows).2 := by
  induction rows generalizing b i with
  | nil => exact w
  | cons _ rows ih => exact ih (handRow_wf w)

theorem Bolt.noteTag_wf {b o x3} (w : Bolt.Wf b) : Bolt.Wf (Bolt.noteTag b o x3) := by
  unfold Bolt.noteTag; exact w

theorem Bolt.write_wf {b a bytes tag} (w : Bolt.Wf b) : Bolt.Wf (Bolt.write b a bytes tag) := by
  unfold Bolt.write; refine ⟨?_, ?_⟩; dsimp only; refine Memory.wf_memWrite _ _ _ ?_; refine Bolt.Wf.store ?_; exact w
  dsimp only; refine Bolt.Wf.copy ?_; exact w

theorem Bolt.placeRows_wf {b v f sel idx rows} (w : Bolt.Wf b) : Bolt.Wf (Bolt.placeRows b v f sel idx rows) := by
  unfold Bolt.placeRows; dsimp only; refine Bolt.wf_foldl ?_ ?_; intro B1 a2 w3; split; apply Bolt.write_wf
  apply Bolt.write_wf; exact w3; apply Bolt.write_wf; exact w3; exact w

theorem State.convert_wf {s : State} {bno b r h vals} (w : Bolt.Wf b) : Bolt.Wf (State.convert s bno b r h vals).bolt :=
  handRows_wf w

theorem State.handOff_moves {z s : State} {bno r v x idx vals} (h : Moves z s) :
    Moves z (State.handOff s bno r v x idx vals) :=
  State.noteHandOff_moves (State.setBolt_moves h fun _ i =>
    Bolt.noteTag_wf (Bolt.placeRows_wf (State.convert_wf (State.wf_bolt i bno))))

/-! ### MemSide -/

theorem State.forgetPages_moves {z s : State} {gone} (h : Moves z s) : Moves z (s.forgetPages gone) := by
  unfold State.forgetPages; refine Moves.upd ?_; exact h

theorem State.basteRegion_moves {z s : State} {id lines} (h : Moves z s) : Moves z (s.basteRegion id lines) := by
  unfold State.basteRegion; dsimp only; apply State.updRun_moves; exact h

theorem State.forgetLines_moves {z s : State} {gone} (h : Moves z s) : Moves z (s.forgetLines gone) := by
  unfold State.forgetLines; refine Moves.upd ?_; exact h

theorem State.pageIsBad_moves {z s : State} {area page} (h : Moves z s) : Moves z (s.pageIsBad area page) := by
  unfold State.pageIsBad; refine Moves.upd ?_; exact h

theorem State.unsettle_moves {z s : State} {lines} (h : Moves z s) : Moves z (s.unsettle lines) := by
  unfold State.unsettle; dsimp only; refine Moves.upd ?_; exact h

theorem State.forgetAreas_moves {z s : State} {areas} (h : Moves z s) : Moves z (s.forgetAreas areas) := by
  unfold State.forgetAreas; apply State.forgetPages_moves; apply State.forgetLines_moves; exact h

theorem State.commitEntries_moves {z s : State} {r} (h : Moves z s) : Moves z (s.commitEntries r) := by
  unfold State.commitEntries; dsimp only; refine Moves.upd ?_; exact h

/-! ### Issue -/

theorem State.closeMeter_moves {z s : State} {id bno} (h : Moves z s) : Moves z (s.closeMeter id bno) := by
  unfold State.closeMeter; apply State.updRun_moves; exact h

theorem Bolt.addFlag_wf {b f} (w : Bolt.Wf b) : Bolt.Wf (Bolt.addFlag b f) := by
  unfold Bolt.addFlag; split; exact w; exact w

theorem Bolt.addFlags_wf {b p} (w : Bolt.Wf b) : Bolt.Wf (Bolt.addFlags b p) := by
  unfold Bolt.addFlags; refine Bolt.wf_foldl ?_ ?_; intro B1 a2 w3; apply Bolt.addFlag_wf; exact w3
  apply Bolt.addFlag_wf; exact w

theorem Bolt.clear_wf {b} (w : Bolt.Wf b) : Bolt.Wf (Bolt.clear b) := by
  unfold Bolt.clear; refine ⟨?_, ?_⟩; dsimp only; refine Bolt.Wf.store ?_; exact w; dsimp only; exact Memory.wf_nil

theorem State.startOn_moves {z s : State} {r bno} (h : Moves z s) : Moves z (State.startOn s r bno) := by
  unfold State.startOn
  split
  · exact State.updRun_moves (State.setBolt_moves h fun _ i =>
      ⟨(Bolt.clear_wf (State.wf_bolt i bno)).store, (State.wf_bolt i bno).store⟩)
  · exact h

theorem State.beginNext_moves {z s : State} {bno} (h : Moves z s) : Moves z (s.beginNext bno) := by
  unfold State.beginNext; split; exact h; split; apply State.startOn_moves; exact h; exact h

theorem State.leave_moves {z s : State} {bno} (h : Moves z s) : Moves z (s.leave bno) := by
  unfold State.leave; apply State.beginNext_moves; apply State.updBolt_moves; exact h; intro B1 w2
  apply Bolt.clear_wf; exact w2

theorem State.meterOn_moves {z s : State} {r bno} (h : Moves z s) : Moves z (s.meterOn r bno) := by
  unfold State.meterOn; dsimp only; apply State.updBolt_moves; apply State.fresh_moves; exact h; intro B1 w2; exact w2

theorem State.endOn_moves {z s : State} {r bno} (h : Moves z s) : Moves z (s.endOn r bno) := by
  unfold State.endOn; apply State.leave_moves; apply State.updRun_moves; apply State.closeMeter_moves
  apply State.meterOn_moves; exact h

theorem Bolt.discard_wf {b} (w : Bolt.Wf b) : Bolt.Wf (Bolt.discard b) := by
  unfold Bolt.discard; refine ⟨?_, ?_⟩; dsimp only; refine Bolt.Wf.copy ?_; exact w; dsimp only
  refine Bolt.Wf.copy ?_; exact w

theorem State.abandon_moves {z s : State} {r bno} (h : Moves z s) : Moves z (s.abandon r bno) := by
  unfold State.abandon; apply State.leave_moves; apply State.updBolt_moves; apply State.closeMeter_moves
  apply State.meterOn_moves; exact h; intro B1 w2; apply Bolt.discard_wf; exact w2

theorem Bolt.after_wf {b a} (w : Bolt.Wf b) : Bolt.Wf (Bolt.after b a) := by
  unfold Bolt.after; exact w

theorem Bolt.issueHere_wf {b x2} (w : Bolt.Wf b) : Bolt.Wf (Bolt.issueHere b x2) := by
  unfold Bolt.issueHere; dsimp only; apply Bolt.after_wf; apply Bolt.addFlag_wf; exact w

theorem Bolt.setQueue_wf {b u l} (w : Bolt.Wf b) : Bolt.Wf (Bolt.setQueue b u l) := by
  unfold Bolt.setQueue; split; exact w; exact w; exact w; exact w; exact w; exact w; exact w

theorem Bolt.enqueue_wf {b us setf also} (w : Bolt.Wf b) : Bolt.Wf (Bolt.enqueue b us setf also) :=
  show Bolt.Wf (List.foldl _ _ _) from Bolt.wf_foldl (fun _ _ => Bolt.setQueue_wf) w

theorem Bolt.issueOn_wf {b us x3 also} (w : Bolt.Wf b) : Bolt.Wf (Bolt.issueOn b us x3 also) := by
  unfold Bolt.issueOn; dsimp only; apply Bolt.after_wf; apply Bolt.enqueue_wf; exact w

theorem State.settle_moves {z s : State} {bno} (h : Moves z s) : Moves z (s.settle bno) := by
  unfold State.settle; split; exact h; split; apply State.endOn_moves; exact h; exact h

theorem State.haltRun_moves {z s : State} {r st detail bno} (h : Moves z s) : Moves z (s.haltRun r st detail bno) := by
  unfold State.haltRun; dsimp only; refine Moves.foldl ?_ ?_; intro s1 a2 h3; split; apply State.abandon_moves
  exact h3; exact h3; apply State.updRun_moves; exact h

theorem State.rampOn_moves {z s : State} {bno} (h : Moves z s) : Moves z (s.rampOn bno) := by
  unfold State.rampOn; dsimp only; split; apply State.fresh_moves; exact h; apply State.updBolt_moves
  apply State.fresh_moves; exact h; intro B1 w2; refine Bolt.wf_foldl ?_ ?_; intro B3 a4 w5; exact w5; exact w2

theorem State.issuable_wf {s : State} {bno b r w} (e : State.issuable s bno = some (b, r, w)) (i : s.Inv) : Bolt.Wf b := by
  unfold State.issuable at e
  dsimp only at e
  repeat' split at e
  all_goals first
    | (cases e; done)
    | (injection e with e; injection e with e1 e2; rw [← e1]; exact State.wf_bolt i bno)


theorem State.word_moves {z s : State} {bno cls op k} (h : Moves z s)
    (hk : ∀ b r w, (z.Inv → Bolt.Wf b) → Ends z (k b r w)) : Ends z (State.word s bno cls op k) := by
  unfold State.word
  split
  · exact Ends.next h
  · rename_i e
    split
    · exact hk _ _ _ fun i => State.issuable_wf e (h.inv i)
    · exact Ends.next h

/-! ### Rail -/

theorem railStep_moves {z s : State} {op bno} (h : Moves z s) : Ends z (railStep op bno s) := by
  unfold railStep; apply State.word_moves; exact h; intro B1 a2 a3 a4; split; apply Ends.next; exact h; dsimp only
  apply Ends.next; apply State.updRun_moves; apply State.setBolt_moves; exact h; intro i5; intro i6
  apply Bolt.after_wf; exact a4 ‹State.Inv _›

theorem execRailForward_moves {z s : State} {bolt} (h : Moves z s) : Ends z (execRailForward bolt s) := by
  unfold execRailForward; apply railStep_moves; exact h

theorem State.handGradient_moves {z s : State} {bno r x4 off tag rows} (h : Moves z s) :
    Moves z (s.handGradient bno r x4 off tag rows) := by
  unfold State.handGradient; split; dsimp only; apply State.updRun_moves; apply State.basteRegion_moves; split
  exact h; apply State.setBolt_moves; exact h; intro i1; intro i2; apply handRows_wf
  exact State.wf_bolt ‹State.Inv _› _; exact h

theorem State.handPatchGradients_moves {z s : State} {bno r gtag sides x sdu t dy} (h : Moves z s) :
    Moves z (s.handPatchGradients bno r gtag sides x sdu t dy) := by
  unfold State.handPatchGradients; refine Moves.foldl ?_ ?_; intro s1 a2 h3; dsimp only
  apply State.handGradient_moves; apply State.handGradient_moves; exact h3; exact h

theorem execRailBackward_moves {z s : State} {bolt} (h : Moves z s) : Ends z (execRailBackward bolt s) := by
  unfold execRailBackward; apply railStep_moves; exact h

/-! ### Report -/

theorem State.event_moves {z s : State} {type sleeve fields} (h : Moves z s) :
    Moves z (s.event type sleeve fields) := by
  unfold State.event; split; refine Moves.upd ?_; exact h; exact h

theorem State.trigger_moves {z s : State} {source id} (h : Moves z s) : Moves z (s.trigger source id) := by
  unfold State.trigger; split; refine Moves.upd ?_; exact h; dsimp only; apply State.event_moves; refine Moves.upd ?_
  refine Moves.foldl ?_ ?_; intro s1 a2 h3; apply State.rampOn_moves; exact h3; apply State.fresh_moves; exact h

theorem State.errorTrigger_moves {z s : State} {bit} (h : Moves z s) : Moves z (s.errorTrigger bit) := by
  unfold State.errorTrigger; split; apply State.trigger_moves; exact h; exact h

theorem State.logError_moves {z s : State} {e} (h : Moves z s) : Moves z (s.logError e) := by
  unfold State.logError; dsimp only; split; refine Moves.upd ?_; exact h; refine Moves.upd ?_; exact h

theorem State.hostAccess_moves {z s : State} {bar off width write} (h : Moves z s) :
    Moves z (s.hostAccess bar off width write) := by
  unfold State.hostAccess; apply State.event_moves; exact h

theorem State.security_moves {z s : State} {source detail} (h : Moves z s) : Moves z (s.security source detail) := by
  unfold State.security; apply State.errorTrigger_moves; apply State.event_moves; exact h

/-! ### Book -/

theorem State.shiftRuns_moves {z s : State} {pick e k cause} (h : Moves z s) :
    Moves z (s.shiftRuns pick e k cause) := by
  unfold State.shiftRuns; apply State.updBolts_moves; refine Moves.upd ?_; exact h; intro a1 B2 w3; exact w3

theorem Time.nextLen_lt {s : State} (i : s.Inv) : s.time.lenNext.getD s.time.len < 4 := by
  have := i.nextLength
  cases e : s.time.lenNext with
  | none => exact i.stitchLength
  | some c => exact this c e

theorem State.ahead_moves {z s : State} (h : Moves z s) : Moves z (State.ahead s) :=
  Moves.upd h (len_ := fun i => Time.nextLen_lt i)

theorem State.edgeAfter_moves {z s : State} {us} (h : Moves z s) : Moves z (s.edgeAfter us).2 := by
  unfold State.edgeAfter; dsimp only; apply State.fresh_moves; exact h

theorem State.dueShift_moves {z s : State} {us} (h : Moves z s) : Moves z (s.dueShift us) := by
  unfold State.dueShift; dsimp only; refine Moves.upd ?_; apply State.edgeAfter_moves; exact h

theorem State.stopRun_moves {z s : State} {id st detail bno} (h : Moves z s) :
    Moves z (s.stopRun id st detail bno) := by
  unfold State.stopRun; split; apply State.haltRun_moves; exact h; exact h

theorem State.losePatch_moves {z s : State} {x2} (h : Moves z s) : Moves z (s.losePatch x2) := by
  unfold State.losePatch; dsimp only; refine Moves.foldl ?_ ?_; intro s1 a2 h3; apply State.stopRun_moves; exact h3
  refine Moves.upd ?_; apply State.updPatch_moves; exact h

theorem State.shiftFrom_moves {z s : State} {e k cause} (h : Moves z s) : Moves z (s.shiftFrom e k cause) := by
  unfold State.shiftFrom; apply State.shiftRuns_moves; exact h

/-! ### Recovery -/

theorem State.moduleReset_moves {z s : State} {stage trip} (h : Moves z s) : Moves z (State.moduleReset s stage trip) :=
  Moves.upd h (mailbox_ := fun _ => ⟨rfl, rfl⟩) (sleeves_ := fun _ => by intro v hv; cases hv) (len_ := fun _ => by decide)
    (next_ := fun _ => by intro c hc; cases hc) (bolts_ := fun _ => ⟨rfl, by intro e he; cases he⟩) (ports_ := fun _ => rfl)
    (slots_ := fun _ => ⟨rfl, by intro e he; cases he⟩) (log_ := fun _ => by intro p hp; cases hp)

theorem State.fatal_moves {z s : State} {source where_} (h : Moves z s) : Moves z (s.fatal source where_) := by
  unfold State.fatal; dsimp only; apply State.moduleReset_moves; apply State.logError_moves; exact h

theorem State.orderShift_moves {z s : State} {node} (h : Moves z s) : Moves z (s.orderShift node) := by
  unfold State.orderShift; dsimp only; split; apply State.emit_moves; refine Moves.upd ?_; exact h
  apply State.dueShift_moves; refine Moves.upd ?_; exact h

theorem Bolt.unravelled_wf {b} (w : Bolt.Wf b) : Bolt.Wf (Bolt.unravelled b) := by
  unfold Bolt.unravelled; dsimp only; refine ⟨?_, ?_⟩; dsimp only; exact Memory.wf_nil; dsimp only
  refine Bolt.Wf.copy ?_; apply Bolt.clear_wf; exact w

theorem State.reportUnravel_moves {z s : State} (h : Moves z s) : Moves z s.reportUnravel := by
  unfold State.reportUnravel; split; exact h; split; apply State.orderShift_moves; exact h; apply State.emit_moves
  exact h

theorem State.unravelFrom_moves {z s : State} {die source where_ sleeve} (h : Moves z s) :
    Moves z (s.unravelFrom die source where_ sleeve) := by
  unfold State.unravelFrom; split; apply State.logError_moves; exact h; dsimp only; apply State.reportUnravel_moves
  apply State.event_moves; apply State.logError_moves; apply State.shiftFrom_moves; apply State.updBolts_moves
  refine Moves.upd ?_; apply State.errorTrigger_moves; exact h; intro a1 B2 w3; apply Bolt.unravelled_wf; exact w3

theorem State.contained_moves {z s : State} {e} (h : Moves z s) : Moves z (s.contained e) := by
  unfold State.contained; apply State.errorTrigger_moves; apply State.logError_moves; exact h

/-! ### Vector -/

theorem vectorStep_moves {z s : State} {f bno} (h : Moves z s) : Ends z (vectorStep f bno s) := by
  unfold vectorStep; apply State.word_moves; exact h; intro B1 a2 a3 a4; dsimp only; split; apply Ends.next; exact h
  split; apply within_moves; apply State.setBolt_moves; exact h; intro i5; intro i6; apply Bolt.after_wf
  exact a4 ‹State.Inv _›; apply within_moves; apply State.handOff_moves; apply State.setBolt_moves; exact h; intro i7
  intro i8; apply Bolt.issueOn_wf; exact a4 ‹State.Inv _›

theorem execVectorMultiply_moves {z s : State} {bolt} (h : Moves z s) : Ends z (execVectorMultiply bolt s) := by
  unfold execVectorMultiply; apply vectorStep_moves; exact h

theorem execVectorTanh_moves {z s : State} {bolt} (h : Moves z s) : Ends z (execVectorTanh bolt s) := by
  unfold execVectorTanh; apply vectorStep_moves; exact h

theorem execVectorMaximum_moves {z s : State} {bolt} (h : Moves z s) : Ends z (execVectorMaximum bolt s) := by
  unfold execVectorMaximum; apply vectorStep_moves; exact h

theorem execVectorSilu_moves {z s : State} {bolt} (h : Moves z s) : Ends z (execVectorSilu bolt s) := by
  unfold execVectorSilu; apply vectorStep_moves; exact h

theorem execVectorSigmoid_moves {z s : State} {bolt} (h : Moves z s) : Ends z (execVectorSigmoid bolt s) := by
  unfold execVectorSigmoid; apply vectorStep_moves; exact h

theorem execVectorAbsoluteValue_moves {z s : State} {bolt} (h : Moves z s) :
    Ends z (execVectorAbsoluteValue bolt s) := by
  unfold execVectorAbsoluteValue; apply vectorStep_moves; exact h

theorem execVectorGelu_moves {z s : State} {bolt} (h : Moves z s) : Ends z (execVectorGelu bolt s) := by
  unfold execVectorGelu; apply vectorStep_moves; exact h

theorem execVectorReciprocal_moves {z s : State} {bolt} (h : Moves z s) : Ends z (execVectorReciprocal bolt s) := by
  unfold execVectorReciprocal; apply vectorStep_moves; exact h

theorem writeHalves_wf {b v cols vals ds} (w : Bolt.Wf b) : Bolt.Wf (writeHalves b v cols vals ds) :=
  show Bolt.Wf (List.foldl _ _ _) from Bolt.wf_foldl (fun _ _ => Bolt.write_wf) w

theorem execVectorSquareRoot_moves {z s : State} {bolt} (h : Moves z s) : Ends z (execVectorSquareRoot bolt s) := by
  unfold execVectorSquareRoot; apply vectorStep_moves; exact h

theorem execVectorSubtract_moves {z s : State} {bolt} (h : Moves z s) : Ends z (execVectorSubtract bolt s) := by
  unfold execVectorSubtract; apply vectorStep_moves; exact h

theorem execVectorReciprocalSquareRoot_moves {z s : State} {bolt} (h : Moves z s) :
    Ends z (execVectorReciprocalSquareRoot bolt s) := by
  unfold execVectorReciprocalSquareRoot; apply vectorStep_moves; exact h

theorem execVectorEqual_moves {z s : State} {bolt} (h : Moves z s) : Ends z (execVectorEqual bolt s) := by
  unfold execVectorEqual; apply vectorStep_moves; exact h

theorem execVectorNegate_moves {z s : State} {bolt} (h : Moves z s) : Ends z (execVectorNegate bolt s) := by
  unfold execVectorNegate; apply vectorStep_moves; exact h

theorem execVectorLog2_moves {z s : State} {bolt} (h : Moves z s) : Ends z (execVectorLog2 bolt s) := by
  unfold execVectorLog2; apply vectorStep_moves; exact h

theorem execVectorFma_moves {z s : State} {bolt} (h : Moves z s) : Ends z (execVectorFma bolt s) := by
  unfold execVectorFma; apply vectorStep_moves; exact h

theorem execTwoPlyAdd_moves {z s : State} {bolt} (h : Moves z s) : Ends z (execTwoPlyAdd bolt s) := by
  unfold execTwoPlyAdd
  refine State.word_moves h fun b r w hb => ?_
  dsimp only
  split
  · exact Ends.next h
  · split
    · exact Ends.next (State.haltRun_moves h)
    · refine within_moves (State.updRun_moves (State.setBolt_moves h fun i _ => Bolt.issueOn_wf ?_))
      have w1 : Bolt.Wf { b with chain := none, chainTags := [], chainFlags := [] } := hb i
      exact writeHalves_wf (ds := plyDraws b (vectorWord w) (b.view (vectorWord w).d))
        (writeHalves_wf (ds := plyDraws b (vectorWord w) (b.view (vectorWord w).c)) w1)

theorem execVectorDivision_moves {z s : State} {bolt} (h : Moves z s) : Ends z (execVectorDivision bolt s) := by
  unfold execVectorDivision; apply vectorStep_moves; exact h

theorem execVectorAdd_moves {z s : State} {bolt} (h : Moves z s) : Ends z (execVectorAdd bolt s) := by
  unfold execVectorAdd; apply vectorStep_moves; exact h

theorem execVectorCopy_moves {z s : State} {bolt} (h : Moves z s) : Ends z (execVectorCopy bolt s) := by
  unfold execVectorCopy; apply vectorStep_moves; exact h

theorem execVectorExp2_moves {z s : State} {bolt} (h : Moves z s) : Ends z (execVectorExp2 bolt s) := by
  unfold execVectorExp2; apply vectorStep_moves; exact h

theorem execVectorRowMaximum_moves {z s : State} {bolt} (h : Moves z s) : Ends z (execVectorRowMaximum bolt s) := by
  unfold execVectorRowMaximum; apply vectorStep_moves; exact h

theorem execVectorNaturalLog_moves {z s : State} {bolt} (h : Moves z s) : Ends z (execVectorNaturalLog bolt s) := by
  unfold execVectorNaturalLog; apply vectorStep_moves; exact h

theorem execVectorRowSum_moves {z s : State} {bolt} (h : Moves z s) : Ends z (execVectorRowSum bolt s) := by
  unfold execVectorRowSum; apply vectorStep_moves; exact h

theorem execVectorLessThan_moves {z s : State} {bolt} (h : Moves z s) : Ends z (execVectorLessThan bolt s) := by
  unfold execVectorLessThan; apply vectorStep_moves; exact h

theorem execVectorExp_moves {z s : State} {bolt} (h : Moves z s) : Ends z (execVectorExp bolt s) := by
  unfold execVectorExp; apply vectorStep_moves; exact h

theorem execVectorMinimum_moves {z s : State} {bolt} (h : Moves z s) : Ends z (execVectorMinimum bolt s) := by
  unfold execVectorMinimum; apply vectorStep_moves; exact h

/-! ### Matrix -/

theorem Bolt.warmUp_wf {b arrays reads writes} (w : Bolt.Wf b) : Bolt.Wf (Bolt.warmUp b arrays reads writes) := by
  unfold Bolt.warmUp; dsimp only; refine Bolt.wf_foldl ?_ ?_; intro B1 a2 w3; exact w3; exact w

theorem Bolt.issueMatrix_wf {b x arrays lastAddr epi reads writes} (w : Bolt.Wf b) :
    Bolt.Wf (Bolt.issueMatrix b x arrays lastAddr epi reads writes) := by
  refine Bolt.after_wf ?_
  have h : Bolt.Wf ((b.warmUp arrays reads writes).enqueue (b.matrixUnits arrays) (wordHdr x).setf
    (flagsOf (b.rail.toList ++ epi))) := Bolt.enqueue_wf (Bolt.warmUp_wf w)
  exact h

theorem State.handDarnGradients_moves {z s : State} {bno r gtag n own tr xt dy} (h : Moves z s) :
    Moves z (s.handDarnGradients bno r gtag n own tr xt dy) := by
  unfold State.handDarnGradients; dsimp only; refine Moves.foldl ?_ ?_; intro s1 a2 h3; refine Moves.foldl ?_ ?_
  intro s4 a5 h6; apply State.handGradient_moves; exact h6; exact h3; exact h

theorem forwardForm_moves {z s : State} {bno b r x5 lastAddr ps drawn es} (h : Moves z s) (wb : z.Inv → Bolt.Wf b) :
    Ends z (forwardForm s bno b r x5 lastAddr ps drawn es) := by
  unfold forwardForm; dsimp only; split; apply Ends.next; apply State.haltRun_moves; exact h; split
  apply within_moves; apply State.setBolt_moves; exact h; intro i1; intro i2; apply Bolt.issueMatrix_wf
  exact wb ‹State.Inv _›; apply within_moves; apply State.handOff_moves; apply State.updRun_moves
  apply State.setBolt_moves; exact h; intro i3; intro i4; apply Bolt.issueMatrix_wf; exact wb ‹State.Inv _›

theorem execMatrixConvolution_moves {z s : State} {bolt} (h : Moves z s) : Ends z (execMatrixConvolution bolt s) := by
  unfold execMatrixConvolution; apply State.word_moves; exact h; intro B1 a2 a3 a4; dsimp only; split; apply Ends.next
  exact h; split; apply Ends.next; exact h; apply forwardForm_moves; exact h; exact a4

theorem execMatrixPlain_moves {z s : State} {bolt} (h : Moves z s) : Ends z (execMatrixPlain bolt s) := by
  unfold execMatrixPlain; apply State.word_moves; exact h; intro B1 a2 a3 a4; dsimp only; split; apply Ends.next
  exact h; apply forwardForm_moves; exact h; exact a4

theorem execMatrixBackward_moves {z s : State} {bolt} (h : Moves z s) : Ends z (execMatrixBackward bolt s) := by
  unfold execMatrixBackward; apply State.word_moves; exact h; intro B1 a2 a3 a4; dsimp only; split; apply Ends.next
  exact h; split; apply Ends.next; exact h; split; apply Ends.next; apply State.haltRun_moves; exact h
  apply within_moves; split; split; apply State.handOff_moves; apply State.setBolt_moves; exact h; intro i5; intro i6
  apply Bolt.issueMatrix_wf; exact a4 ‹State.Inv _›; apply State.handOff_moves; apply State.handOff_moves
  apply State.setBolt_moves; exact h; intro i7; intro i8; apply Bolt.issueMatrix_wf; exact a4 ‹State.Inv _›
  apply State.handDarnGradients_moves; apply State.handPatchGradients_moves; split; apply State.handOff_moves
  apply State.setBolt_moves; exact h; intro i9; intro i10; apply Bolt.issueMatrix_wf; exact a4 ‹State.Inv _›
  apply State.handOff_moves; apply State.handOff_moves; apply State.setBolt_moves; exact h; intro i11; intro i12
  apply Bolt.issueMatrix_wf; exact a4 ‹State.Inv _›

/-! ### Stack -/

theorem execStackPopT_moves {z s : State} {bolt} (h : Moves z s) : Ends z (execStackPopT bolt s) := by
  unfold execStackPopT; apply State.word_moves; exact h; intro B1 a2 a3 a4; dsimp only; split; apply Ends.next
  exact h; split; apply Ends.next; apply State.haltRun_moves; exact h; split; apply Ends.next
  apply State.haltRun_moves; exact h; split; apply Ends.next; apply State.haltRun_moves; exact h; split
  apply Ends.next; apply State.haltRun_moves; exact h; split; apply Ends.next; apply State.haltRun_moves; exact h
  apply Ends.next; apply State.updRun_moves; apply State.setBolt_moves; exact h; intro i5; intro i6
  apply Bolt.issueOn_wf; exact a4 ‹State.Inv _›

theorem State.pushFrame_moves {z s : State} {id bno lane ln fr} (h : Moves z s) :
    Moves z (s.pushFrame id bno lane ln fr) := by
  unfold State.pushFrame; apply State.updRun_moves; apply State.basteRegion_moves; exact h

theorem execStackPushT_moves {z s : State} {bolt} (h : Moves z s) : Ends z (execStackPushT bolt s) := by
  unfold execStackPushT; apply State.word_moves; exact h; intro B1 a2 a3 a4; dsimp only; split; apply Ends.next
  exact h; split; apply Ends.next; apply State.haltRun_moves; exact h; split; apply Ends.next
  apply State.haltRun_moves; exact h; apply Ends.next; apply State.pushFrame_moves; apply State.setBolt_moves; exact h
  intro i5; intro i6; apply Bolt.issueOn_wf; exact a4 ‹State.Inv _›

theorem execStackPush_moves {z s : State} {bolt} (h : Moves z s) : Ends z (execStackPush bolt s) := by
  unfold execStackPush; apply State.word_moves; exact h; intro B1 a2 a3 a4; dsimp only; split; apply Ends.next
  exact h; split; apply Ends.next; apply State.haltRun_moves; exact h; split; apply Ends.next
  apply State.haltRun_moves; exact h; split; split; split; apply Ends.next; apply State.haltRun_moves; exact h
  apply within_moves; apply State.pushFrame_moves; apply State.noteHandOff_moves; apply State.setBolt_moves; exact h
  intro i5; intro i6; apply Bolt.issueOn_wf; apply Bolt.noteTag_wf; apply State.convert_wf; exact a4 ‹State.Inv _›
  split; apply Ends.next; apply State.haltRun_moves; exact h; apply within_moves; apply State.pushFrame_moves
  apply State.noteHandOff_moves; apply State.setBolt_moves; exact h; intro i7; intro i8; apply Bolt.issueOn_wf
  apply Bolt.noteTag_wf; apply State.convert_wf; exact a4 ‹State.Inv _›; split; split; apply Ends.next
  apply State.haltRun_moves; exact h; apply within_moves; apply State.pushFrame_moves; apply State.setBolt_moves
  exact h; intro i9; intro i10; apply Bolt.issueOn_wf; exact a4 ‹State.Inv _›; split; apply Ends.next
  apply State.haltRun_moves; exact h; apply within_moves; apply State.pushFrame_moves; apply State.setBolt_moves
  exact h; intro i11; intro i12; apply Bolt.issueOn_wf; exact a4 ‹State.Inv _›

theorem execStackPop_moves {z s : State} {bolt} (h : Moves z s) : Ends z (execStackPop bolt s) := by
  unfold execStackPop; apply State.word_moves; exact h; intro B1 a2 a3 a4; dsimp only; split; apply Ends.next; exact h
  split; apply Ends.next; apply State.haltRun_moves; exact h; split; apply Ends.next; apply State.haltRun_moves
  exact h; split; apply Ends.next; apply State.haltRun_moves; exact h; split; apply Ends.next
  apply State.haltRun_moves; exact h; split; apply Ends.next; apply State.haltRun_moves; exact h; apply within_moves
  apply State.updRun_moves; apply State.setBolt_moves; exact h; intro i5; intro i6; apply Bolt.issueOn_wf
  apply Bolt.placeRows_wf; exact a4 ‹State.Inv _›

/-! ### Ports -/

theorem State.drain_moves {z s : State} {port} (h : Moves z s) : Moves z (s.drain port) := by
  unfold State.drain; dsimp only; split; exact h; refine Moves.foldl ?_ ?_; intro s1 a2 h3; apply State.emit_moves
  exact h3; apply State.updPort_moves; exact h

theorem State.sendSegment_moves {z s : State} {port g} (h : Moves z s) : Moves z (s.sendSegment port g) := by
  unfold State.sendSegment; split; apply State.drain_moves; apply State.updPort_moves; exact h; exact h

theorem State.sendMessage_moves {z s : State} {port dst key vc len m} (h : Moves z s) :
    Moves z (s.sendMessage port dst key vc len m).1 := by
  unfold State.sendMessage; dsimp only; refine Moves.foldl ?_ ?_; intro s1 a2 h3; apply State.sendSegment_moves
  exact h3; apply State.emit_moves; refine Moves.upd ?_; exact h

theorem State.sendSeam_moves {z s : State} {run port dst key vc len m} (h : Moves z s) :
    Moves z (s.sendSeam run port dst key vc len m) := by
  unfold State.sendSeam; dsimp only; refine Moves.upd ?_; apply State.sendMessage_moves; exact h

/-! ### Stream -/

theorem Bolt.land_wf {b tags es ms} (w : Bolt.Wf b) : Bolt.Wf (Bolt.land b tags es ms) := by
  unfold Bolt.land; refine ⟨?_, ?_⟩; dsimp only; refine Memory.wf_foldl ?_ ?_; intro a1 a2 a3
  refine Memory.wf_memSet _ _ _ ?_; exact a3; refine Bolt.Wf.store ?_; exact w; dsimp only; refine Bolt.Wf.copy ?_
  exact w

theorem Bolt.baseRegs_wf {b l} (w : Bolt.Wf b) : Bolt.Wf { b with baseRegs := l } := w

theorem execStreamTload_moves {z s : State} {bolt} (h : Moves z s) : Ends z (execStreamTload bolt s) := by
  unfold execStreamTload
  refine State.word_moves h fun b r w hb => ?_
  dsimp only
  split
  · exact Ends.next h
  · split
    · split
      · exact Ends.next h
      · split
        · exact Ends.next (State.haltRun_moves (State.setBolt_moves h fun i _ => hb i))
        · split
          · refine within_moves (State.setBolt_moves h fun i _ => Bolt.issueOn_wf ?_)
            exact Bolt.baseRegs_wf (b := Bolt.land _ _ _ _) (Bolt.land_wf (hb i))
          · exact Ends.next (State.haltRun_moves h)
    · split
      · exact Ends.next (State.haltRun_moves h)
      · split
        · refine within_moves (State.setBolt_moves h fun i _ => Bolt.issueOn_wf ?_)
          exact Bolt.baseRegs_wf (b := Bolt.land _ _ _ _) (Bolt.land_wf (hb i))
        · exact Ends.next (State.haltRun_moves h)
      · exact Ends.next h
    · exact Ends.next h

theorem State.sendSpan_moves {z s : State} {r node l} (h : Moves z s) : Moves z (s.sendSpan r node l) := by
  unfold State.sendSpan; split; exact h; dsimp only; apply State.sendSeam_moves; exact h

theorem execStreamStore_moves {z s : State} {bolt} (h : Moves z s) : Ends z (execStreamStore bolt s) := by
  unfold execStreamStore; apply State.word_moves; exact h; intro B1 a2 a3 a4; dsimp only; split; apply Ends.next
  exact h; split; apply Ends.next; apply State.haltRun_moves; exact h; split; split; apply Ends.next; exact h; split
  apply Ends.next; apply State.haltRun_moves; apply State.setBolt_moves; exact h; intro i5; intro i6
  exact a4 ‹State.Inv _›; split; apply Ends.next; exact h; apply within_moves; apply State.setBolt_moves
  apply State.updRun_moves; refine Moves.foldl ?_ ?_; intro s7 a8 h9; apply State.sendSpan_moves; exact h9; exact h
  intro i10; intro i11; apply Bolt.issueOn_wf; exact a4 ‹State.Inv _›; apply within_moves; apply State.setBolt_moves
  apply State.updRun_moves; exact h; intro i12; intro i13; apply Bolt.issueOn_wf; exact a4 ‹State.Inv _›
  apply Ends.next; exact h

theorem execTranslationWalk_moves {z s : State} {bolt dva} (h : Moves z s) :
    Ends z (execTranslationWalk bolt dva s) := by
  unfold execTranslationWalk; apply Ends.next; split; exact h; split; exact h; dsimp only; split
  apply State.haltRun_moves; apply State.updBolt_moves; exact h; intro B1 w2; exact w2; apply State.updBolt_moves
  exact h; intro B3 w4; exact w4

theorem State.keepLines_moves {z s : State} {sl lines} (h : Moves z s) : Moves z (State.keepLines s sl lines) := by
  unfold State.keepLines
  dsimp only
  rw [List.append_assoc]
  exact Moves.upd h (out_ := List.prefix_append _ _)

theorem State.hostRead_moves {z s : State} {v ps} (h : Moves z s) : Moves z (s.hostRead v ps).1 := by
  unfold State.hostRead; dsimp only; split; exact h; split; dsimp only; apply State.emit_moves; exact h; dsimp only
  apply State.keepLines_moves; exact h

theorem execStreamLoad_moves {z s : State} {bolt host} (h : Moves z s) : Ends z (execStreamLoad bolt host s) := by
  unfold execStreamLoad
  refine State.word_moves h fun b r w hb => ?_
  dsimp only
  split
  · exact Ends.next h
  · split
    · split
      · exact Ends.next h
      · split
        · exact Ends.next (State.haltRun_moves (State.setBolt_moves h fun i _ => hb i))
        · split
          · exact Ends.next (State.haltRun_moves h)
          · refine within_moves (State.setBolt_moves h fun i _ => Bolt.issueOn_wf ?_)
            exact Bolt.baseRegs_wf (b := Bolt.land _ _ _ _) (Bolt.land_wf (hb i))
    · split
      · exact Ends.next h
      · split
        · split
          · exact Ends.next (State.haltRun_moves (State.hostRead_moves h))
          · refine within_moves (State.setBolt_moves (State.hostRead_moves h) fun i _ => Bolt.issueOn_wf ?_)
            exact Bolt.baseRegs_wf (b := Bolt.land _ _ _ _) (Bolt.land_wf (hb i))
        · exact Ends.next (State.hostRead_moves h)
    · split
      · exact Ends.next (State.haltRun_moves h)
      · exact Ends.next h
      · split
        · exact Ends.next (State.haltRun_moves h)
        · refine within_moves (State.setBolt_moves h fun i _ => Bolt.issueOn_wf ?_)
          exact Bolt.baseRegs_wf (b := Bolt.land _ _ _ _) (Bolt.land_wf (hb i))
    · exact Ends.next h

theorem execRotate_moves {z s : State} {bolt} (h : Moves z s) : Ends z (execRotate bolt s) := by
  unfold execRotate; apply State.word_moves; exact h; intro B1 a2 a3 a4; dsimp only; split; apply Ends.next; exact h
  apply within_moves; split; apply State.updRun_moves; apply State.updBolt_moves; apply State.handOff_moves
  apply State.setBolt_moves; exact h; intro i5; intro i6; apply Bolt.issueOn_wf; exact a4 ‹State.Inv _›; intro B7 w8
  exact w8; apply State.handOff_moves; apply State.setBolt_moves; exact h; intro i9; intro i10; apply Bolt.issueOn_wf
  exact a4 ‹State.Inv _›

/-! ### MemoryEvents -/

theorem State.sendGroup_moves {z s : State} {q} (h : Moves z s) : Moves z (s.sendGroup q) := by
  unfold State.sendGroup; dsimp only; split; exact h; refine Moves.foldl ?_ ?_; intro s1 a2 h3; apply State.emit_moves
  exact h3; refine Moves.upd ?_; exact h

theorem State.sendGroups_moves {z s : State} (h : Moves z s) : Moves z s.sendGroups := by
  unfold State.sendGroups; refine Moves.foldl ?_ ?_; intro s1 a2 h3; apply State.sendGroup_moves; exact h3; exact h

theorem State.countUncorrectable_moves {z s : State} {die} (h : Moves z s) : Moves z (s.countUncorrectable die) := by
  unfold State.countUncorrectable; dsimp only; refine Moves.upd ?_; exact h

theorem Sleeve.undone_wf {v old ids} (ho : ∀ o ∈ old, Sleeve.Wf o) (w : Sleeve.Wf v) : Sleeve.Wf (Sleeve.undone v old ids) := by
  unfold Sleeve.undone
  split
  · exact w
  · rename_i o e
    exact ho o (List.mem_of_find?_eq_some e)

theorem State.sparesEmpty_moves {z s : State} (h : Moves z s) : Moves z s.sparesEmpty := by
  unfold State.sparesEmpty; split; exact h; apply State.event_moves; refine Moves.upd ?_; exact h

theorem State.switchCopied_moves {z s : State} {e} (h : Moves z s) : Moves z (s.switchCopied e) := by
  unfold State.switchCopied; dsimp only; apply State.event_moves; apply State.logError_moves; refine Moves.upd ?_
  split; apply State.updSleeve_moves; exact h; intro B1 w2; exact w2; refine Moves.upd ?_; exact h

theorem execBasePageRefetch_moves {z s : State} {slot page data} (h : Moves z s) :
    Ends z (execBasePageRefetch slot page data s) := by
  unfold execBasePageRefetch; apply Ends.next; split; dsimp only; split; apply State.sparesEmpty_moves
  refine Moves.upd ?_; apply State.updSlot_moves; exact h; intro B1 w2; refine Memory.wf_memWrite _ _ _ ?_; exact w2
  apply State.switchCopied_moves; refine Moves.upd ?_; apply State.fresh_moves; refine Moves.upd ?_
  apply State.updSlot_moves; exact h; intro B3 w4; refine Memory.wf_memWrite _ _ _ ?_; exact w4; exact h

theorem State.integrity_moves {z s : State} {holds die} (h : Moves z s) : Moves z (s.integrity holds die) := by
  unfold State.integrity; dsimp only; split; apply State.errorTrigger_moves; refine Moves.upd ?_; exact h
  apply State.security_moves; refine Moves.upd ?_; exact h

theorem State.undoTo_moves {z s : State} {p} (h : Moves z s) (hp : s.Inv → LogPoint.Wf p) : Moves z (State.undoTo s p) := by
  unfold State.undoTo
  dsimp only
  refine State.updBolts_moves (Moves.upd h (sleeves_ := fun i => ?_) (next_ := fun i => (hp i).2)
    (log_ := fun _ q hq => by cases hq)) fun _ B w => ?_
  · exact Sleeve.wf_map i.sleeveMem fun _ => Sleeve.undone_wf (hp i).1
  · split
    · exact w
    · exact w

theorem State.undoCommits_moves {z s : State} (h : Moves z s) : Moves z (State.undoCommits s) := by
  unfold State.undoCommits
  dsimp only
  split
  · exact h
  · split
    · exact State.fresh_moves h
    · rename_i p l e
      refine State.undoTo_moves (State.fresh_moves h) fun i => i.logged p ?_
      exact (List.dropWhile_sublist _).subset ((List.drop_sublist _ _).subset (e ▸ List.mem_cons_self))

theorem State.loseFrame_moves {z s : State} {b lane} (h : Moves z s) : Moves z (s.loseFrame b lane) := by
  unfold State.loseFrame; dsimp only; split; apply State.updRun_moves; apply State.updBolt_moves; exact h; intro B1 w2
  exact w2; apply State.updBolt_moves; exact h; intro B3 w4; exact w4

theorem execHostReadPoison_moves {z s : State} {bolt addr} (h : Moves z s) :
    Ends z (execHostReadPoison bolt addr s) := by
  unfold execHostReadPoison; apply Ends.next; split; exact h; dsimp only; apply State.haltRun_moves; split; exact h
  split; exact h; refine Moves.upd ?_; exact h

theorem execPageRetire_moves {z s : State} {area dva} (h : Moves z s) : Ends z (execPageRetire area dva s) := by
  unfold execPageRetire; dsimp only; apply Ends.next; split; exact h; split; apply State.sparesEmpty_moves; exact h
  refine Moves.upd ?_; apply State.fresh_moves; exact h

theorem State.badSomewhere_moves {z s : State} {area} (h : Moves z s) : Moves z (s.badSomewhere area) := by
  unfold State.badSomewhere; dsimp only; apply State.pageIsBad_moves; apply State.fresh_moves; exact h

theorem State.badLine_moves {z s : State} {die x3} (h : Moves z s) : Moves z (s.badLine die x3) := by
  unfold State.badLine; split; dsimp only; apply State.pageIsBad_moves; apply State.contained_moves
  apply State.updSleeve_moves; exact h; intro B1 w2; exact w2; apply State.badSomewhere_moves
  apply State.contained_moves; refine Moves.upd ?_; exact h; dsimp only; split; exact h; split; apply State.emit_moves
  apply State.contained_moves; apply State.updSlot_moves; apply State.pageIsBad_moves; exact h; intro B3 w4; exact w4
  apply State.contained_moves; apply State.updSlot_moves; apply State.pageIsBad_moves; exact h; intro B5 w6; exact w6
  apply State.badSomewhere_moves; apply State.contained_moves; apply State.losePatch_moves; exact h
  apply State.badSomewhere_moves; apply State.contained_moves; apply State.loseFrame_moves; refine Moves.upd ?_
  exact h; apply State.unravelFrom_moves; exact h; apply State.unravelFrom_moves; apply State.undoCommits_moves
  exact h; dsimp only; split; apply State.contained_moves; exact h; apply State.losePatch_moves
  apply State.contained_moves; exact h

theorem execPatrolScrub_moves {z s : State} {corrected} (h : Moves z s) : Ends z (execPatrolScrub corrected s) := by
  unfold execPatrolScrub; dsimp only; apply Ends.next; split; apply State.sparesEmpty_moves; refine Moves.foldl ?_ ?_
  intro s1 a2 h3; refine Moves.upd ?_; exact h3; exact h; refine Moves.foldl ?_ ?_; intro s4 a5 h6
  refine Moves.upd ?_; exact h6; exact h

theorem State.waitPage_moves {z s : State} {q} (h : Moves z s) : Moves z (s.waitPage q) := by
  unfold State.waitPage; refine Moves.upd ?_; exact h

theorem execLineUncorrectable_moves {z s : State} {holds die integrity} (h : Moves z s) :
    Ends z (execLineUncorrectable holds die integrity s) := by
  unfold execLineUncorrectable; dsimp only; apply Ends.next; apply State.badLine_moves; split
  apply State.integrity_moves; apply State.countUncorrectable_moves; exact h; apply State.countUncorrectable_moves
  exact h

theorem execLineSettle_moves {z s : State} {area line} (h : Moves z s) : Ends z (execLineSettle area line s) := by
  unfold execLineSettle; apply Ends.next; apply State.forgetLines_moves; exact h

theorem execHostTranslationFault_moves {z s : State} {bolt addr} (h : Moves z s) :
    Ends z (execHostTranslationFault bolt addr s) := by
  unfold execHostTranslationFault; apply Ends.next; split; exact h; dsimp only; split; apply State.haltRun_moves
  exact h; split; apply State.sendGroup_moves; apply State.waitPage_moves; apply State.haltRun_moves; exact h
  apply State.haltRun_moves; exact h

/-! ### HostWrites -/

theorem State.msix_moves {z s : State} {v} (h : Moves z s) : Moves z (s.msix v) := by
  unfold State.msix; split; exact h; split; refine Moves.upd ?_; exact h; split; apply State.emit_moves; exact h
  refine Moves.upd ?_; exact h

theorem State.sendPending_moves {z s : State} (h : Moves z s) : Moves z s.sendPending := by
  unfold State.sendPending; split; exact h; dsimp only; refine Moves.foldl ?_ ?_; intro s1 a2 h3
  apply State.msix_moves; exact h3; refine Moves.upd ?_; exact h

theorem State.dropKept_moves {z s : State} {pasid addr n} (h : Moves z s) : Moves z (s.dropKept pasid addr n) := by
  unfold State.dropKept; dsimp only; refine Moves.upd ?_; exact h

theorem State.sendWrite_moves {z s : State} {o} (h : Moves z s) : Moves z (s.sendWrite o) := by
  unfold State.sendWrite; split; refine Moves.foldl ?_ ?_; intro s1 a2 h3; apply State.emit_moves; exact h3
  apply State.dropKept_moves; exact h; apply State.emit_moves; apply State.dropKept_moves; exact h
  apply State.emit_moves; exact h

theorem State.updCq_moves {z s : State} {o q f} (h : Moves z s) : Moves z (s.updCq o q f) := by
  unfold State.updCq; split; refine Moves.upd ?_; exact h; apply State.updSleeve_moves; exact h; intro B1 w2; exact w2

theorem State.fillCq_moves {z s : State} {o q} (h : Moves z s) : Moves z (s.fillCq o q) := by
  unfold State.fillCq; split; exact h; apply State.updCq_moves; apply State.emit_moves; exact h

theorem State.putRecord_moves {z s : State} {o c r} (h : Moves z s) : Moves z (s.putRecord o c r) := by
  unfold State.putRecord; dsimp only; apply State.updCq_moves; apply State.emit_moves; apply State.dropKept_moves
  exact h

theorem State.pumpFrom_moves {z s : State} {cs held} (h : Moves z s) : Moves z (State.pumpFrom s cs held).1 := by
  induction cs generalizing s held with
  | nil => exact h
  | cons c cs ih =>
    have h1 : Moves z (if c.issued then s else c.writes.foldl State.sendWrite s) := by
      split
      · exact h
      · exact Moves.foldl (fun _ _ h => State.sendWrite_moves h) h
    unfold State.pumpFrom
    dsimp only
    split
    · exact ih h
    · split
      · exact ih h1
      · split
        · refine ih ?_
          split
          · exact State.fillCq_moves h1
          · exact h1
        · exact ih (State.putRecord_moves h1)

theorem State.putEvent_moves {z s : State} {e} (h : Moves z s) : Moves z (s.putEvent e) := by
  unfold State.putEvent; dsimp only; refine Moves.upd ?_; apply State.emit_moves; apply State.dropKept_moves; exact h

theorem State.writeEvents_moves {z s : State} {es w} (h : Moves z s) : Moves z (State.writeEvents s es w).1 := by
  induction es generalizing s w with
  | nil => exact h
  | cons e es ih =>
    unfold State.writeEvents
    split
    · exact ih (Moves.upd h)
    · have h1 : Moves z (if s.evq.owed then
          ({ s with evq := { s.evq with owed := false } } : State).putEvent
            ⟨0, 255, s.time.stitch.toNat, detailOf [(16, 2, s.evq.lost.toNat)]⟩
          else s) := by
        split
        · exact State.putEvent_moves (Moves.upd h)
        · exact h
      dsimp only
      generalize (if s.evq.owed then _ else s : State) = s1 at h1
      split
      · exact ih (Moves.upd h1)
      · exact ih (State.putEvent_moves h1)

theorem State.pump_moves {z s : State} (h : Moves z s) : Moves z s.pump := by
  have h1 : Moves z ({ (s.pumpFrom s.hif.commits []).1 with hif := { (s.pumpFrom s.hif.commits []).1.hif with
      commits := (s.pumpFrom s.hif.commits []).2 } } : State) := Moves.upd (State.pumpFrom_moves h)
  have h4 : ∀ (t : State) (l d : List Nat), Moves z t → Moves z (l.foldl State.msix { t with hif := { t.hif with msixDue := d } }) :=
    fun t l d ht => Moves.foldl (fun _ _ h => State.msix_moves h) (Moves.upd ht)
  unfold State.pump
  split
  · exact h
  · dsimp only
    split
    · exact h4 _ _ _ h1
    · split
      · exact State.msix_moves (State.writeEvents_moves (Moves.upd (h4 _ _ _ h1)))
      · exact State.writeEvents_moves (Moves.upd (h4 _ _ _ h1))

theorem State.squashCollectives_moves {z s : State} {p} (h : Moves z s) : Moves z (s.squashCollectives p) := by
  unfold State.squashCollectives; refine Moves.foldl ?_ ?_; intro s1 a2 h3; apply State.emit_moves; exact h3; exact h

theorem Bolt.disowned_wf {b} (w : Bolt.Wf b) : Bolt.Wf (Bolt.disowned b) := by
  unfold Bolt.disowned; dsimp only; refine ⟨?_, ?_⟩; dsimp only; exact Memory.wf_nil; dsimp only
  refine Bolt.Wf.copy ?_; apply Bolt.clear_wf; exact w

theorem State.tearSleeve_moves {z s : State} {v} (h : Moves z s) : Moves z (s.tearSleeve v) := by
  unfold State.tearSleeve; dsimp only; apply State.updBolts_moves; apply State.forgetAreas_moves
  refine Moves.upd ?_ (sleeves_ := ?_); apply State.squashCollectives_moves; exact h; intro i1
  exact Sleeve.wf_filter ‹State.Inv _›.sleeveMem; intro a4 B5 w6; apply Bolt.disowned_wf; exact w6

theorem State.flushMsix_moves {z s : State} (h : Moves z s) : Moves z s.flushMsix := by
  unfold State.flushMsix; split; refine Moves.foldl ?_ ?_; intro s1 a2 h3; apply State.msix_moves; exact h3
  refine Moves.upd ?_; exact h; exact h

theorem State.answer_moves {z s : State} {err} (h : Moves z s) : Moves z (s.answer err) := by
  unfold State.answer; dsimp only; split; exact h; apply State.pump_moves; split; refine Moves.upd ?_; exact h
  refine Moves.upd ?_; exact h

theorem State.endSession_moves {z s : State} (h : Moves z s) : Moves z s.endSession := by
  unfold State.endSession; refine Moves.upd ?_; exact h

theorem State.hostReset_moves {z s : State} {cause} (h : Moves z s) : Moves z (s.hostReset cause) := by
  unfold State.hostReset; dsimp only; refine Moves.upd ?_ (mailbox_ := ?_); apply State.endSession_moves; exact h
  intro i1; exact ⟨rfl, rfl⟩

theorem State.releaseInv_moves {z s : State} (h : Moves z s) : Moves z s.releaseInv := by
  unfold State.releaseInv; dsimp only; refine Moves.foldl ?_ ?_; intro s1 a2 h3; apply State.emit_moves; exact h3
  refine Moves.upd ?_; exact h

theorem State.tearAll_moves {z s : State} (h : Moves z s) : Moves z s.tearAll := by
  unfold State.tearAll; refine Moves.foldl ?_ ?_; intro s1 B2 h3; apply State.tearSleeve_moves; exact h3; exact h

/-! ### ConfigSpace -/

theorem State.writeBar_moves {z s : State} {n high v} (h : Moves z s) : Moves z (s.writeBar n high v) := by
  unfold State.writeBar; dsimp only; refine Moves.upd ?_; exact h

theorem State.writeConfigWord_moves {z s : State} {off v} (h : Moves z s) : Moves z (s.writeConfigWord off v) := by
  unfold State.writeConfigWord; split; apply State.writeBar_moves; exact h; apply State.writeBar_moves; exact h
  apply State.writeBar_moves; exact h; apply State.writeBar_moves; exact h; apply State.writeBar_moves; exact h
  apply State.writeBar_moves; exact h; split; refine Moves.upd ?_; exact h; split; apply State.pump_moves
  apply State.flushMsix_moves; refine Moves.upd ?_; exact h; exact h; apply State.sendPending_moves
  refine Moves.upd ?_; exact h; split; apply State.hostReset_moves; exact h; refine Moves.upd ?_; exact h; split
  exact h; refine Moves.upd ?_; exact h

theorem State.writeConfig_moves {z s : State} {off width v} (h : Moves z s) : Moves z (s.writeConfig off width v) := by
  unfold State.writeConfig; split; dsimp only; apply State.writeConfigWord_moves; exact h; exact h

/-! ### HostIf -/

theorem State.ioWrite_moves {z s t : State} (h : Moves z s) (ht : Moves z t) : Moves z (State.ioWrite s t) := by
  unfold State.ioWrite
  split
  · exact ht
  · exact h

theorem State.writeSnapStatus_moves {z s : State} {value} (h : Moves z s) : Moves z (s.writeSnapStatus value) := by
  unfold State.writeSnapStatus; split; refine Moves.upd ?_; exact h; exact h

theorem execSnapshotRelease_moves {z s : State} {value} (h : Moves z s) : Ends z (execSnapshotRelease value s) := by
  unfold execSnapshotRelease; apply Ends.next; apply State.ioWrite_moves; exact h; apply State.writeSnapStatus_moves
  exact h

theorem State.writeEvqCtrl_moves {z s : State} {value} (h : Moves z s) : Moves z (s.writeEvqCtrl value) := by
  unfold State.writeEvqCtrl; dsimp only; refine Moves.upd ?_; exact h

theorem execEvqEnable_moves {z s : State} {value} (h : Moves z s) : Ends z (execEvqEnable value s) := by
  unfold execEvqEnable; apply Ends.next; apply State.ioWrite_moves; exact h; apply State.writeEvqCtrl_moves; exact h

theorem State.updSq_moves {z s : State} {o q f} (h : Moves z s) : Moves z (s.updSq o q f) := by
  unfold State.updSq; split; refine Moves.upd ?_; exact h; apply State.updSleeve_moves; exact h; intro B1 w2; exact w2

theorem State.stopQueue_moves {z s : State} {o q st slot} (h : Moves z s) : Moves z (s.stopQueue o q st slot) := by
  unfold State.stopQueue; apply State.event_moves; apply State.updSq_moves; exact h

theorem State.doorbell_moves {z s : State} {page value} (h : Moves z s) : Moves z (s.doorbell page value) := by
  unfold State.doorbell; dsimp only; split; apply State.hostAccess_moves; exact h; split; apply State.hostAccess_moves
  exact h; split; apply State.updSq_moves; exact h; split; apply State.updSq_moves; exact h
  apply State.stopQueue_moves; exact h

theorem execSqDoorbell_moves {z s : State} {page width value} (h : Moves z s) :
    Ends z (execSqDoorbell page width value s) := by
  unfold execSqDoorbell; apply Ends.next; apply State.ioWrite_moves; exact h; split; apply State.doorbell_moves
  exact h; apply State.hostAccess_moves; exact h

theorem execShadowLowWordRead_moves {z s : State} {bar off width} (h : Moves z s) :
    Ends z (execShadowLowWordRead bar off width s) := by
  unfold execShadowLowWordRead; dsimp only; apply Ends.next; split; apply State.emit_moves; exact h; split
  apply State.emit_moves; exact h; split; apply State.emit_moves; exact h; split; apply State.emit_moves; exact h
  split; apply State.emit_moves; refine Moves.upd ?_; exact h; split; split; apply State.emit_moves
  refine Moves.upd ?_; exact h; apply State.emit_moves; exact h; split; apply State.emit_moves; exact h; split
  apply State.emit_moves; apply State.hostAccess_moves; exact h; apply State.emit_moves; exact h

theorem execMsixUnmask_moves {z s : State} {vector} (h : Moves z s) : Ends z (execMsixUnmask vector s) := by
  unfold execMsixUnmask; apply Ends.next; apply State.ioWrite_moves; exact h; split; apply State.sendPending_moves
  refine Moves.upd ?_; exact h; exact h

theorem State.writeMsix_moves {z s : State} {off width v} (h : Moves z s) : Moves z (s.writeMsix off width v) := by
  unfold State.writeMsix; dsimp only; apply State.sendPending_moves; refine Moves.upd ?_; exact h

/-! ### Mailbox -/

theorem State.mbxDone_moves {z s : State} {op st payload} (h : Moves z s) : Moves z (State.mbxDone s op st payload) :=
  by
  unfold State.mbxDone
  dsimp only
  generalize leBytes 2 op ++ [st] ++ List.replicate 13 0 ++ payload = all
  exact Moves.upd h (mailbox_ := fun i => ⟨i.mailbox.1, Memory.wf_memWrite _ _ _ Memory.wf_nil⟩)

theorem State.mbxRequest_moves {z s : State} {x op open_ k} (h : Moves z s) (hk : ∀ s, Moves z s → Moves z (k s)) :
    Moves z (State.mbxRequest s x op open_ k) := by
  unfold State.mbxRequest
  split
  · exact h
  · split
    · exact Moves.upd h
    · dsimp only
      split
      · exact State.mbxDone_moves (Moves.upd h)
      · split
        · exact State.mbxDone_moves (Moves.upd h)
        · split
          · exact State.mbxDone_moves (Moves.upd h)
          · exact hk _ (Moves.upd h)

theorem State.mbxCheck_moves {z s : State} {op cs k} (h : Moves z s) (hk : ∀ s, Moves z s → Moves z (k s)) :
    Moves z (State.mbxCheck s op cs k) := by
  induction cs with
  | nil => exact hk s h
  | cons c cs ih =>
    unfold State.mbxCheck
    split
    · exact State.mbxDone_moves h
    · exact ih

theorem State.mbxDefer_moves {z s : State} {r} (h : Moves z s) : Moves z (s.mbxDefer r) := by
  unfold State.mbxDefer; refine Moves.upd ?_; exact h

theorem execCloseSession_moves {z s : State} {x1} (h : Moves z s) : Ends z (execCloseSession x1 s) := by
  unfold execCloseSession; apply Ends.next; apply State.mbxRequest_moves; exact h; intro s1 h2
  apply State.mbxCheck_moves; exact h2; intro s3 h4; apply State.mbxDefer_moves; exact h4

theorem State.writeSlot_moves {z s : State} {offset data} (h : Moves z s) : Moves z (State.writeSlot s offset data) := by
  unfold State.writeSlot
  split
  · exact Moves.upd h (images_ := fun i => ⟨Memory.wf_memWrite _ _ _ i.images.1, i.images.2⟩)
  · exact Moves.upd h (images_ := fun i => ⟨i.images.1, Memory.wf_memWrite _ _ _ i.images.2⟩)

theorem execCreateSleeve_moves {z s : State} {x1 bolts memGib cxl seam power} (h : Moves z s) :
    Ends z (execCreateSleeve x1 bolts memGib cxl seam power s) := by
  unfold execCreateSleeve; apply Ends.next; apply State.mbxRequest_moves; exact h; intro s1 h2
  apply State.mbxCheck_moves; exact h2; intro s3 h4; apply State.mbxDefer_moves; exact h4

theorem execBindPasid_moves {z s : State} {x1 pasid} (h : Moves z s) : Ends z (execBindPasid x1 pasid s) := by
  unfold execBindPasid; apply Ends.next; apply State.mbxRequest_moves; exact h; intro s1 h2; dsimp only
  apply State.mbxCheck_moves; exact h2; intro s3 h4; apply State.mbxDefer_moves; exact h4

theorem execKeyEstablish_moves {z s : State} {x1 kind ciphertext} (h : Moves z s) :
    Ends z (execKeyEstablish x1 kind ciphertext s) := by
  unfold execKeyEstablish; apply Ends.next; apply State.mbxRequest_moves; exact h; intro s1 h2
  apply State.mbxCheck_moves; exact h2; intro s3 h4; dsimp only; apply State.mbxDone_moves; refine Moves.upd ?_
  apply State.fresh_moves; exact h4

theorem execFwWrite_moves {z s : State} {x1 offset data} (h : Moves z s) : Ends z (execFwWrite x1 offset data s) := by
  unfold execFwWrite; apply Ends.next; apply State.mbxRequest_moves; exact h; intro s1 h2; apply State.mbxCheck_moves
  exact h2; intro s3 h4; apply State.mbxDone_moves; apply State.writeSlot_moves; refine Moves.upd ?_; exact h4

theorem execOpenSession_moves {z s : State} {x1 major pasid} (h : Moves z s) :
    Ends z (execOpenSession x1 major pasid s) := by
  unfold execOpenSession; apply Ends.next; apply State.mbxRequest_moves; exact h; intro s1 h2; dsimp only; split
  apply State.mbxDone_moves; exact h2; split; split; apply State.mbxDone_moves; exact h2; split
  apply State.mbxDone_moves; exact h2; split; apply State.mbxDone_moves; exact h2; split; apply State.mbxDone_moves
  apply State.security_moves; exact h2; apply State.mbxDone_moves; refine Moves.upd ?_; apply State.fresh_moves
  exact h2; split; apply State.mbxDone_moves; exact h2; split; apply State.mbxDone_moves; exact h2; split
  apply State.mbxDone_moves; exact h2; split; apply State.mbxDone_moves; apply State.security_moves; exact h2
  apply State.mbxDone_moves; refine Moves.upd ?_; apply State.fresh_moves; exact h2

theorem execDestroySleeve_moves {z s : State} {x1} (h : Moves z s) : Ends z (execDestroySleeve x1 s) := by
  unfold execDestroySleeve; apply Ends.next; apply State.mbxRequest_moves; exact h; intro s1 h2
  apply State.mbxCheck_moves; exact h2; intro s3 h4; apply State.mbxDefer_moves; exact h4

theorem execResetSleeve_moves {z s : State} {x1} (h : Moves z s) : Ends z (execResetSleeve x1 s) := by
  unfold execResetSleeve; apply Ends.next; apply State.mbxRequest_moves; exact h; intro s1 h2
  apply State.mbxCheck_moves; exact h2; intro s3 h4; apply State.mbxDefer_moves; exact h4

theorem execUnbindPasid_moves {z s : State} {x1 pasid} (h : Moves z s) : Ends z (execUnbindPasid x1 pasid s) := by
  unfold execUnbindPasid; apply Ends.next; apply State.mbxRequest_moves; exact h; intro s1 h2; split
  apply State.mbxDone_moves; exact h2; apply State.mbxCheck_moves; exact h2; intro s3 h4; apply State.mbxDefer_moves
  exact h4

theorem execCreateCq_moves {z s : State} {x1 cq vector pasid base slots head} (h : Moves z s) :
    Ends z (execCreateCq x1 cq vector pasid base slots head s) := by
  unfold execCreateCq; apply Ends.next; apply State.mbxRequest_moves; exact h; intro s1 h2; split
  apply State.mbxDone_moves; exact h2; apply State.mbxCheck_moves; exact h2; intro s3 h4; apply State.mbxDefer_moves
  exact h4

theorem execCreateSq_moves {z s : State} {x1 queue cq seq0 pasid base slots} (h : Moves z s) :
    Ends z (execCreateSq x1 queue cq seq0 pasid base slots s) := by
  unfold execCreateSq; apply Ends.next; apply State.mbxRequest_moves; exact h; intro s1 h2; split
  apply State.mbxDone_moves; exact h2; apply State.mbxCheck_moves; exact h2; intro s3 h4; apply State.mbxDefer_moves
  exact h4

theorem execDeleteQueue_moves {z s : State} {x1 isCq number} (h : Moves z s) :
    Ends z (execDeleteQueue x1 isCq number s) := by
  unfold execDeleteQueue; apply Ends.next; apply State.mbxRequest_moves; exact h; intro s1 h2; split
  apply State.mbxDone_moves; exact h2; dsimp only; apply State.mbxCheck_moves; exact h2; intro s3 h4
  apply State.mbxDefer_moves; exact h4

theorem execRestartSq_moves {z s : State} {x1 queue seq0 ci} (h : Moves z s) :
    Ends z (execRestartSq x1 queue seq0 ci s) := by
  unfold execRestartSq; apply Ends.next; apply State.mbxRequest_moves; exact h; intro s1 h2; split
  apply State.mbxDone_moves; exact h2; split; apply State.mbxDone_moves; exact h2; apply State.mbxCheck_moves
  exact h2; intro s3 h4; apply State.mbxDefer_moves; exact h4

theorem execKemGet_moves {z s : State} {x1} (h : Moves z s) : Ends z (execKemGet x1 s) := by
  unfold execKemGet; apply Ends.next; apply State.mbxRequest_moves; exact h; intro s1 h2; dsimp only
  apply State.mbxDone_moves; exact h2

theorem State.mbxDoorbell_moves {z s : State} {value} (h : Moves z s) : Ends z (s.mbxDoorbell value) := by
  unfold State.mbxDoorbell; dsimp only; split; apply execOpenSession_moves; exact h; apply execCloseSession_moves
  exact h; apply execCreateSleeve_moves; exact h; apply execDestroySleeve_moves; exact h; apply execResetSleeve_moves
  exact h; apply execBindPasid_moves; exact h; apply execUnbindPasid_moves; exact h; apply execCreateCq_moves; exact h
  apply execCreateSq_moves; exact h; apply execDeleteQueue_moves; exact h; apply execRestartSq_moves; exact h
  apply execKemGet_moves; exact h; apply execKeyEstablish_moves; exact h; apply Ends.next; exact h; apply Ends.next
  exact h; apply Ends.next; apply State.mbxRequest_moves; exact h; intro s1 h2; apply State.mbxDone_moves; exact h2

theorem State.writeArea_moves {z s : State} {off width v} (h : Moves z s) : Moves z (s.writeArea off width v) := by
  unfold State.writeArea; split; apply State.hostAccess_moves; exact h; refine Moves.upd ?_ (mailbox_ := ?_); exact h
  intro i1; exact ⟨Memory.wf_memWrite _ _ _ ‹State.Inv _›.mailbox.1, ‹State.Inv _›.mailbox.2⟩

theorem execFwActivate_moves {z s : State} {x1 verdict} (h : Moves z s) : Ends z (execFwActivate x1 verdict s) := by
  unfold execFwActivate; apply Ends.next; apply State.mbxRequest_moves; exact h; intro s1 h2; split
  apply State.mbxDone_moves; exact h2; split; apply State.mbxDone_moves; exact h2; apply State.mbxDone_moves
  refine Moves.upd ?_; exact h2

theorem State.seedRead_moves {z s : State} {slot} (h : Moves z s) : Moves z (s.seedRead slot) := by
  unfold State.seedRead; dsimp only; split; exact h; split; split; apply State.emit_moves; exact h; exact h; split
  apply State.emit_moves; exact h; exact h

theorem execRegisterWrite_moves {z s : State} {bar off width value} (h : Moves z s) :
    Ends z (execRegisterWrite bar off width value s) := by
  have e1 : ∀ v, Moves z { s with evq := { s.evq with base := v } } := fun _ => Moves.upd h
  have e2 : ∀ v, Moves z { s with evq := { s.evq with head := v } } := fun _ => Moves.upd h
  have e3 : ∀ v, Moves z { s with snap := { s.snap with ctrl := v } } := fun _ => Moves.upd h
  have e4 : Moves z { s with mbx := { s.mbx with errBusy := false } } := Moves.upd h
  have e6 : ∀ o v, Moves z { s with hif := s.hif.setComp o v } := fun _ _ => Moves.upd h
  have e5 : ∀ n v, Moves z (s.updSleeve n fun x => { x with latTol := v }) := fun _ _ => State.updSleeve_moves h fun _ w => w
  unfold execRegisterWrite
  show Ends z (ite _ _ (Host.Outcome.next (s.ioWrite _)))
  by_cases hc : bar = 0 ∧ off = 0x1FF0 ∧ width = 8
  · rw [if_pos hc]
    exact State.mbxDoorbell_moves h
  · rw [if_neg hc]
    refine Ends.next (State.ioWrite_moves h ?_)
    repeat' first
      | exact h
      | exact State.hostAccess_moves h
      | exact State.writeConfig_moves h
      | exact State.writeArea_moves h
      | exact State.writeEvqCtrl_moves h
      | exact State.writeSnapStatus_moves h
      | exact State.doorbell_moves h
      | exact State.writeMsix_moves h
      | exact e1 _
      | exact e2 _
      | exact e3 _
      | exact e4
      | exact e5 _ _
      | exact e6 _ _
      | refine Moves.ite ?_ ?_

/-! ### Sequencer -/

theorem branchStep_moves {z s : State} {op cond bolt} (h : Moves z s) : Ends z (branchStep op cond bolt s) := by
  unfold branchStep; apply State.word_moves; exact h; intro B1 a2 a3 a4; dsimp only; apply Ends.next
  apply State.setBolt_moves; exact h; intro i5; intro i6; split; apply Bolt.issueHere_wf; exact a4 ‹State.Inv _›
  apply Bolt.issueHere_wf; exact a4 ‹State.Inv _›

theorem Bolt.resume_wf {b} (w : Bolt.Wf b) : Bolt.Wf (Bolt.resume b) := by
  unfold Bolt.resume; split; apply Bolt.issueHere_wf; exact w; exact w

theorem State.resumeColl_moves {z s : State} {coll id} (h : Moves z s) : Moves z (s.resumeColl coll id) := by
  unfold State.resumeColl; split; exact h; apply State.updBolts_moves; exact h; intro a1 B2 w3; split
  apply Bolt.resume_wf; exact w3; exact w3

theorem State.updColl_moves {z s : State} {coll f} (h : Moves z s) : Moves z (s.updColl coll f) := by
  unfold State.updColl; refine Moves.upd ?_; exact h

theorem State.clearArrivals_moves {z s : State} {coll id} (h : Moves z s) : Moves z (s.clearArrivals coll id) := by
  unfold State.clearArrivals; refine Moves.upd ?_; exact h

theorem State.sendRelease_moves {z s : State} {coll id} (h : Moves z s) : Moves z (s.sendRelease coll id) := by
  unfold State.sendRelease; apply State.resumeColl_moves; apply State.emit_moves; apply State.updColl_moves
  apply State.clearArrivals_moves; exact h

theorem State.allArrived_moves {z s : State} {coll id c} (h : Moves z s) : Moves z (s.allArrived coll id c) := by
  unfold State.allArrived; split; apply State.sendRelease_moves; exact h; apply State.updColl_moves
  apply State.clearArrivals_moves; exact h

theorem State.passUp_moves {z s : State} {coll id total} (h : Moves z s) : Moves z (s.passUp coll id total) := by
  unfold State.passUp; split; apply State.emit_moves; apply State.clearArrivals_moves; exact h; exact h

theorem State.countArrivals_moves {z s : State} {coll id n} (h : Moves z s) : Moves z (s.countArrivals coll id n) := by
  unfold State.countArrivals; dsimp only; split; split; split; apply State.allArrived_moves; refine Moves.upd ?_
  exact h; refine Moves.upd ?_; exact h; apply State.passUp_moves; refine Moves.upd ?_; exact h
  apply State.passUp_moves; refine Moves.upd ?_; exact h

theorem State.arrive_moves {z s : State} {r id} (h : Moves z s) : Moves z (s.arrive r id) := by
  unfold State.arrive; split; exact h; apply State.countArrivals_moves; exact h

theorem State.arriveIfAll_moves {z s : State} {r id} (h : Moves z s) : Moves z (s.arriveIfAll r id) := by
  unfold State.arriveIfAll; split; apply State.arrive_moves; exact h; exact h

theorem execBarrierCollective_moves {z s : State} {bolt} (h : Moves z s) : Ends z (execBarrierCollective bolt s) := by
  unfold execBarrierCollective; apply State.word_moves; exact h; intro B1 a2 a3 a4; dsimp only; apply Ends.next
  apply State.arriveIfAll_moves; apply State.setBolt_moves; exact h; intro i5; intro i6; exact a4 ‹State.Inv _›

theorem State.arriveComplete_moves {z s : State} {id} (h : Moves z s) : Moves z (s.arriveComplete id) := by
  unfold State.arriveComplete; split; exact h; split; exact h; split; exact h; apply State.countArrivals_moves
  apply State.updRun_moves; exact h

theorem execBranchEnd_moves {z s : State} {bolt} (h : Moves z s) : Ends z (execBranchEnd bolt s) := by
  unfold execBranchEnd; apply State.word_moves; exact h; intro B1 a2 a3 a4; dsimp only; apply Ends.next
  apply State.arriveComplete_moves; apply State.settle_moves; split; apply State.setBolt_moves; exact h; intro i5
  intro i6; apply Bolt.issueHere_wf; exact a4 ‹State.Inv _›; apply State.arriveIfAll_moves; apply State.setBolt_moves
  exact h; intro i7; intro i8; apply Bolt.issueHere_wf; exact a4 ‹State.Inv _›

theorem Bolt.complete_wf {b u} (w : Bolt.Wf b) : Bolt.Wf (Bolt.complete b u) := by
  unfold Bolt.complete
  split
  · exact w
  · dsimp only
    split
    · split
      · exact w
      · exact Bolt.wf_ite (Bolt.setQueue_wf w) (Bolt.addFlags_wf (Bolt.setQueue_wf (Bolt.setQueue_wf w)))
    · exact w
    · exact Bolt.addFlags_wf (Bolt.setQueue_wf w)

theorem execBranchNe_moves {z s : State} {bolt} (h : Moves z s) : Ends z (execBranchNe bolt s) := by
  unfold execBranchNe; apply branchStep_moves; exact h

theorem execDrain_moves {z s : State} {bolt} (h : Moves z s) : Ends z (execDrain bolt s) := by
  unfold execDrain; apply State.word_moves; exact h; intro B1 a2 a3 a4; apply Ends.next; apply State.setBolt_moves
  exact h; intro i5; intro i6; split; apply Bolt.issueHere_wf; exact a4 ‹State.Inv _›; exact a4 ‹State.Inv _›

theorem execBarrierBolts_moves {z s : State} {bolt} (h : Moves z s) : Ends z (execBarrierBolts bolt s) := by
  unfold execBarrierBolts; apply State.word_moves; exact h; intro B1 a2 a3 a4; dsimp only; apply Ends.next
  apply State.setBolt_moves; exact h; intro i5; intro i6; exact a4 ‹State.Inv _›

theorem Bolt.takeFlags_wf {b m count} (w : Bolt.Wf b) : Bolt.Wf (Bolt.takeFlags b m count) := by
  unfold Bolt.takeFlags; exact w

theorem Bolt.passWait_wf {b x m count clear} (w : Bolt.Wf b) : Bolt.Wf (Bolt.passWait b x m count clear) := by
  refine Bolt.issueHere_wf ?_
  show Bolt.Wf (if clear then b.takeFlags m count else b)
  split
  · exact Bolt.takeFlags_wf w
  · exact w

theorem execWait_moves {z s : State} {bolt} (h : Moves z s) : Ends z (execWait bolt s) := by
  unfold execWait; apply State.word_moves; exact h; intro B1 a2 a3 a4; dsimp only; apply Ends.next
  apply State.setBolt_moves; exact h; intro i5; intro i6; split; apply Bolt.passWait_wf; exact a4 ‹State.Inv _›
  exact a4 ‹State.Inv _›

theorem execBarrierRelease_moves {z s : State} {bolt} (h : Moves z s) : Ends z (execBarrierRelease bolt s) := by
  unfold execBarrierRelease; apply Ends.next; split; exact h; split; exact h; split; split; apply State.updBolts_moves
  exact h; intro a1 B2 w3; apply Bolt.resume_wf; exact w3; exact h; exact h

theorem execWaitRelease_moves {z s : State} {bolt} (h : Moves z s) : Ends z (execWaitRelease bolt s) := by
  unfold execWaitRelease
  refine Ends.next ?_
  split
  · exact h
  · dsimp only
    split
    · exact h
    · split
      · split
        · exact State.setBolt_moves h fun _ i => Bolt.passWait_wf (State.wf_bolt i bolt)
        · exact h
      · split
        · exact State.setBolt_moves h fun _ i => Bolt.issueHere_wf (State.wf_bolt i bolt)
        · exact h
      · exact h

theorem execSnap_moves {z s : State} {bolt} (h : Moves z s) : Ends z (execSnap bolt s) := by
  unfold execSnap; apply State.word_moves; exact h; intro B1 a2 a3 a4; dsimp only; apply Ends.next
  apply State.updBolt_moves; split; apply State.trigger_moves; exact h; exact h; intro B5 w6; apply Bolt.issueHere_wf
  exact w6

theorem execPrimitiveComplete_moves {z s : State} {bolt unit} (h : Moves z s) :
    Ends z (execPrimitiveComplete bolt unit s) := by
  unfold execPrimitiveComplete; apply Ends.next; split; exact h; split; exact h; apply State.arriveComplete_moves
  apply State.settle_moves; apply State.updBolt_moves; apply State.meterOn_moves; exact h; intro B1 w2
  apply Bolt.complete_wf; exact w2

theorem execLoop_moves {z s : State} {bolt} (h : Moves z s) : Ends z (execLoop bolt s) := by
  unfold execLoop; apply State.word_moves; exact h; intro B1 a2 a3 a4; dsimp only; apply Ends.next
  apply State.setBolt_moves; exact h; intro i5; intro i6; split; split; apply Bolt.after_wf; apply Bolt.addFlag_wf
  exact a4 ‹State.Inv _›; apply Bolt.addFlag_wf; exact a4 ‹State.Inv _›; split; apply Bolt.after_wf
  apply Bolt.addFlag_wf; exact a4 ‹State.Inv _›; apply Bolt.addFlag_wf; exact a4 ‹State.Inv _›

theorem execStat_moves {z s : State} {bolt} (h : Moves z s) : Ends z (execStat bolt s) := by
  unfold execStat; apply State.word_moves; exact h; intro B1 a2 a3 a4; dsimp only; apply Ends.next
  apply State.setBolt_moves; exact h; intro i5; intro i6; apply Bolt.issueHere_wf; exact a4 ‹State.Inv _›

theorem execBranchLast_moves {z s : State} {bolt} (h : Moves z s) : Ends z (execBranchLast bolt s) := by
  unfold execBranchLast; apply branchStep_moves; exact h

theorem execBranchEq_moves {z s : State} {bolt} (h : Moves z s) : Ends z (execBranchEq bolt s) := by
  unfold execBranchEq; apply branchStep_moves; exact h

theorem execBranchLt_moves {z s : State} {bolt} (h : Moves z s) : Ends z (execBranchLt bolt s) := by
  unfold execBranchLt; apply branchStep_moves; exact h

theorem execBranchAlways_moves {z s : State} {bolt} (h : Moves z s) : Ends z (execBranchAlways bolt s) := by
  unfold execBranchAlways; apply branchStep_moves; exact h

theorem execBranchGe_moves {z s : State} {bolt} (h : Moves z s) : Ends z (execBranchGe bolt s) := by
  unfold execBranchGe; apply branchStep_moves; exact h

/-! ### Reduction -/

theorem State.sendTo_moves {z s : State} {g p i ring len b ranks} (h : Moves z s) :
    Moves z (s.sendTo g p i ring len b ranks) := by
  unfold State.sendTo; refine Moves.foldl ?_ ?_; intro s1 a2 h3; dsimp only; apply State.sendSeam_moves; exact h3
  exact h

theorem State.sendBlock_moves {z s : State} {g p i total len b} (h : Moves z s) :
    Moves z (s.sendBlock g p i total len b) := by
  unfold State.sendBlock; apply State.sendTo_moves; exact h

theorem State.setPost_moves {z s : State} {p} (h : Moves z s) : Moves z (s.setPost p) := by
  unfold State.setPost; refine Moves.upd ?_; exact h

theorem State.startPass_moves {z s : State} {g p which pass len b} (h : Moves z s) :
    Moves z (s.startPass g p which pass len b) := by
  unfold State.startPass; dsimp only; refine Moves.foldl ?_ ?_; intro s1 a2 h3; apply State.sendBlock_moves; exact h3
  apply State.setPost_moves; exact h

theorem State.beginPost_moves {z s : State} {g p} (h : Moves z s) : Moves z (s.beginPost g p) := by
  unfold State.beginPost; dsimp only; split; refine Moves.foldl ?_ ?_; intro s1 a2 h3; apply State.sendTo_moves
  exact h3; exact h; apply State.sendTo_moves; apply State.startPass_moves; exact h

theorem State.beginNextPost_moves {z s : State} {g} (h : Moves z s) : Moves z (s.beginNextPost g) := by
  unfold State.beginNextPost; split; apply State.beginPost_moves; exact h; exact h

theorem State.addPost_moves {z s : State} {r g p} (h : Moves z s) : Moves z (s.addPost r g p) := by
  unfold State.addPost; dsimp only; split; split; apply State.beginNextPost_moves; apply State.updRun_moves
  refine Moves.upd ?_; exact h; apply State.updRun_moves; refine Moves.upd ?_; exact h; split
  apply State.beginNextPost_moves; refine Moves.upd ?_; exact h; refine Moves.upd ?_; exact h

theorem execReduceTensor_moves {z s : State} {bolt} (h : Moves z s) : Ends z (execReduceTensor bolt s) := by
  unfold execReduceTensor; apply State.word_moves; exact h; intro B1 a2 a3 a4; dsimp only; split; apply Ends.next
  exact h; split; apply Ends.next; exact h; apply within_moves; apply State.addPost_moves; apply State.setBolt_moves
  exact h; intro i5; intro i6; apply Bolt.issueOn_wf; exact a4 ‹State.Inv _›

theorem State.adderMismatch_moves {z s : State} {r} (h : Moves z s) : Moves z (s.adderMismatch r) := by
  unfold State.adderMismatch; apply State.unravelFrom_moves; exact h

theorem State.startBlocks_moves {z s : State} {r g p work which pass} (h : Moves z s) :
    Moves z (s.startBlocks r g p work which pass) := by
  unfold State.startBlocks; split; apply State.startPass_moves; exact h; apply State.adderMismatch_moves; exact h

theorem State.mismatch_moves {z s : State} {p} (h : Moves z s) : Moves z (s.mismatch p) := by
  unfold State.mismatch; dsimp only; apply State.emit_moves; apply State.updRun_moves; apply State.logError_moves
  exact h

theorem State.takeBlock_moves {z s : State} {r g p i block} (h : Moves z s) : Moves z (s.takeBlock r g p i block) := by
  unfold State.takeBlock; split; exact h; dsimp only; split; exact h; split; apply State.mismatch_moves; exact h
  split; split; apply State.adderMismatch_moves; exact h; split; apply State.sendBlock_moves
  apply State.setPost_moves; exact h; apply State.setPost_moves; exact h; apply State.sendBlock_moves
  apply State.setPost_moves; exact h

theorem State.unpack_moves {z s : State} {r p vals n} (h : Moves z s) : Moves z (s.unpack r p vals n) := by
  unfold State.unpack; dsimp only; apply State.updRun_moves; split; apply State.updRun_moves
  apply State.basteRegion_moves; exact h; apply State.setBolt_moves; exact h; intro i1; intro i2
  apply Bolt.noteTag_wf; apply Bolt.placeRows_wf; exact State.wf_bolt ‹State.Inv _› _

theorem State.finishPost_moves {z s : State} {r g p vals n} (h : Moves z s) : Moves z (s.finishPost r g p vals n) := by
  unfold State.finishPost; apply State.arriveComplete_moves; apply State.beginNextPost_moves
  apply State.setPost_moves; apply State.unpack_moves; exact h

theorem State.endExponents_moves {z s : State} {r g p} (h : Moves z s) : Moves z (s.endExponents r g p) := by
  unfold State.endExponents; dsimp only; apply State.startBlocks_moves; exact h

theorem State.escalationFits_moves {z s : State} {g p n} (h : Moves z s) : Moves z (s.escalationFits g p n).2 := by
  unfold State.escalationFits; dsimp only; apply State.fresh_moves; exact h

theorem State.endBlocks_moves {z s : State} {r g p} (h : Moves z s) : Moves z (s.endBlocks r g p) := by
  unfold State.endBlocks; split; apply State.mismatch_moves; exact h; dsimp only; split; split
  apply State.startBlocks_moves; apply State.escalationFits_moves; exact h; apply State.setPost_moves
  apply State.escalationFits_moves; exact h; apply State.finishPost_moves; exact h

theorem execReductionPassEnd_moves {z s : State} {group} (h : Moves z s) : Ends z (execReductionPassEnd group s) := by
  unfold execReductionPassEnd; apply Ends.next; split; exact h; split; exact h; split; exact h; dsimp only; split
  exact h; split; split; apply State.finishPost_moves; exact h; exact h; split; exact h; split; split
  apply State.endExponents_moves; exact h; exact h; apply State.endBlocks_moves; exact h

theorem State.takeShape_moves {z s : State} {r g p rank l} (h : Moves z s) : Moves z (s.takeShape r g p rank l) := by
  unfold State.takeShape; split; exact h; dsimp only; split; apply State.sendTo_moves; apply State.setPost_moves
  exact h; apply State.haltRun_moves; apply State.sendTo_moves; apply State.setPost_moves; exact h

theorem execReduceGradient_moves {z s : State} {bolt} (h : Moves z s) : Ends z (execReduceGradient bolt s) := by
  unfold execReduceGradient; apply State.word_moves; exact h; intro B1 a2 a3 a4; dsimp only; split; apply Ends.next
  exact h; split; apply Ends.next; exact h; split; apply Ends.next; apply State.haltRun_moves; exact h
  apply Ends.next; apply State.addPost_moves; apply State.updRun_moves; apply State.setBolt_moves; exact h; intro i5
  intro i6; apply Bolt.issueOn_wf; exact a4 ‹State.Inv _›

theorem State.takeExponent_moves {z s : State} {r g p i v} (h : Moves z s) : Moves z (s.takeExponent r g p i v) := by
  unfold State.takeExponent; split; exact h; split; apply State.haltRun_moves; exact h; dsimp only; split
  split; apply State.sendBlock_moves; apply State.setPost_moves; exact h; apply State.setPost_moves; exact h
  apply State.sendBlock_moves; apply State.setPost_moves; exact h; exact h

theorem State.takeE1_moves {z s : State} {g p i rank bytes} (h : Moves z s) : Moves z (s.takeE1 g p i rank bytes) := by
  unfold State.takeE1; split; exact h; dsimp only; apply State.sendTo_moves; apply State.setPost_moves; exact h

theorem execReductionBlockArrive_moves {z s : State} {group index block} (h : Moves z s) :
    Ends z (execReductionBlockArrive group index block s) := by
  unfold execReductionBlockArrive; apply Ends.next; split; exact h; split; exact h; split; exact h; split; split
  exact h; apply State.takeExponent_moves; exact h; split; exact h; apply State.takeShape_moves; exact h; split
  exact h; apply State.takeBlock_moves; exact h; split; apply State.takeE1_moves; exact h; exact h

end Sys2Proof.Machine
end

