-- ==== Sys2Proof/Laws/MovesQueue.lean ====
section
/-! SUPPORT. Reading, admission, commits and rows of the queue commands: what each keeps (`Moves`, `Ends`, `Wf`),
one lemma a definition, for the statements over every command. -/
namespace Sys2Proof.Machine
open Sys2Proof

/- One proof after another: the many short proofs here would else each take a thread of their own. -/
set_option Elab.async false


/-! ### Admission -/

theorem State.refuse_moves {z s : State} {r st detail bno} (h : Moves z s) : Moves z (s.refuse r st detail bno) := by
  unfold State.refuse; refine Moves.upd ?_; exact h

theorem State.resolveClaim_wf {s now e b c} (w : Bolt.Wf b) : Bolt.Wf (State.resolveClaim s now e b c).1 := by
  unfold State.resolveClaim; split; exact w; dsimp only; split; exact w; split; split; dsimp only
  refine Bolt.wf_foldl ?_ ?_; intro B1 a2 w3; exact w3; exact w; split; exact w; dsimp only
  refine Bolt.wf_foldl ?_ ?_; intro B4 a5 w6; exact w6; exact w; split; exact w; dsimp only
  refine Bolt.wf_foldl ?_ ?_; intro B7 a8 w9; exact w9; exact w

theorem State.beginExits_moves {z s : State} {bolts tau} (h : Moves z s) : Moves z (s.beginExits bolts tau) := by
  unfold State.beginExits; split; split; refine Moves.upd ?_; exact h; exact h; apply State.updBolts_moves; exact h
  intro a1 B2 w3; split; exact w3; exact w3

theorem State.addList_moves {z s : State} {node m seqNo stitches arrivals} (h : Moves z s) :
    Moves z (s.addList node m seqNo stitches arrivals) := by
  unfold State.addList; dsimp only; refine Moves.upd ?_; exact h

theorem State.resolveClaims_wf {s now e b cs} (w : Bolt.Wf b) : Bolt.Wf (State.resolveClaims s now e b cs).1 := by
  induction cs generalizing b with
  | nil => exact w
  | cons _ cs ih => exact ih (State.resolveClaim_wf w)

/-- Bolts replaced one after another by bolts found at the start. -/
theorem State.setBolts_moves {z s : State} {l : List Nat} {f : Nat → Bolt} (h : Moves z s)
    (hf : s.Inv → ∀ b, Bolt.Wf (f b)) : Moves z (l.foldl (fun s b => s.setBolt b (f b)) s) := by
  have keeps : ∀ (l : List Nat) (t : State), Keeps t (l.foldl (fun s b => s.setBolt b (f b)) t) := by
    intro l
    induction l with
    | nil => exact fun t => (Moves.refl t).keeps
    | cons b l ih => exact fun t =>
      let k := ih (t.setBolt b (f b))
      ⟨k.pending, k.out, k.free, k.part, k.serial, k.svn, k.topLeaf⟩
  have inv : ∀ (l : List Nat) (t : State), s.Inv → t.Inv → (l.foldl (fun s b => s.setBolt b (f b)) t).Inv := by
    intro l
    induction l with
    | nil => exact fun _ _ j => j
    | cons b l ih => exact fun t i j => ih _ i ((State.setBolt_moves (Moves.refl t) fun _ _ => hf i b).inv j)
  exact Moves.trans h ⟨keeps l s, fun i => inv l s i i⟩

theorem State.claimIn_moves {z s : State} {r claims e} (h : Moves z s) : Moves z (State.claimIn s r claims e).1 := by
  unfold State.claimIn
  dsimp only
  rw [List.foldl_map]
  exact State.setBolts_moves h fun i b => State.resolveClaims_wf (State.wf_bolt i b)

theorem State.enter_moves {z s : State} {r e costs tau} (h : Moves z s) : Moves z (s.enter r e costs tau) := by
  unfold State.enter; dsimp only; apply State.beginExits_moves; refine Moves.upd ?_; exact h

theorem firstFit_mem {α : Type} {weigh : Nat → Option α} {n e e' : Nat} {w : α}
    (h : firstFit weigh n e = some (e', w)) : weigh e' = some w := by
  induction n generalizing e with
  | zero => cases h
  | succ n ih =>
    unfold firstFit at h
    split at h
    · rename_i w' hw
      injection h with h
      injection h with h1 h2
      subst h1 h2
      exact hw
    · exact ih h

theorem State.placeAgain_moves {z s : State} {r costs} (h : Moves z s) : Moves z (State.placeAgain s r costs) := by
  have h0 := State.dropRun_moves (id := r.id) h
  unfold State.placeAgain
  dsimp only
  split
  · rename_i x
    have := firstFit_mem x
    split at this
    · injection this with e
      exact State.enter_moves (e ▸ State.claimIn_moves h0)
    · cases this
  · exact State.enter_moves h0

theorem State.sendList_moves {z s : State} {m seqNo stitches arrivals} (h : Moves z s) :
    Moves z (s.sendList m seqNo stitches arrivals) := by
  unfold State.sendList; split; apply State.addList_moves; exact h; apply State.emit_moves; exact h

theorem State.updAccepted_moves {z s : State} {o f} (h : Moves z s) : Moves z (s.updAccepted o f) := by
  unfold State.updAccepted; split; refine Moves.upd ?_; exact h; apply State.updSleeve_moves; exact h; intro B1 w2
  exact w2

/-! ### Reading -/

theorem State.candidatesFrom_moves {z s : State} {weigh fuel n e} (h : Moves z s)
    (hw : ∀ s e c t, Moves z s → weigh s e = some (c, t) → Moves z t) :
    Moves z (State.candidatesFrom s weigh fuel n e).2 := by
  induction fuel generalizing s n e with
  | zero => exact h
  | succ fuel ih =>
    unfold State.candidatesFrom
    split
    · exact h
    · split
      · rename_i c t x
        exact ih (hw s e c t h x)
      · exact ih h

theorem State.priceRun_moves {z s : State} {v r a p claims e c t} (h : Moves z s)
    (x : State.priceRun s v r a p claims e = some (c, t)) : Moves z t := by
  obtain ⟨y, _, hx⟩ := Option.map_eq_some_iff.mp x
  injection hx with x1 x2
  exact x2 ▸ State.claimIn_moves h

theorem State.weighRun_moves {z s : State} {v r a p claims tau e c t} (h : Moves z s)
    (x : State.weighRun s v r a p claims tau e = some (c, t)) : Moves z t := by
  unfold State.weighRun at x
  dsimp only at x
  split at x
  · cases x
  · rename_i y
    split at x
    · injection x with x
      injection x with x1 x2
      exact x2 ▸ State.priceRun_moves h y
    · cases x

theorem State.placeRun_moves {z s : State} {v r a p xs tau} (h : Moves z s) : Moves z (State.placeRun s v r a p xs tau) := by
  unfold State.placeRun
  dsimp only
  split
  · split
    · rename_i x
      exact State.enter_moves (State.weighRun_moves h (firstFit_mem x))
    · exact State.refuse_moves h
  · rename_i m _
    have h0 : ∀ d, Moves z { s with domain := d } := fun _ => Moves.upd h
    split
    · exact State.refuse_moves (h0 _)
    · split
      · exact State.refuse_moves (h0 _)
      · refine State.sendList_moves (State.beginExits_moves (Moves.upd ?_))
        exact State.candidatesFrom_moves (h0 _) fun _ _ _ _ h x => State.weighRun_moves h x

theorem State.placeFixed_moves {z s : State} {r tau} (h : Moves z s) : Moves z (s.placeFixed r tau) := by
  unfold State.placeFixed; dsimp only; split; apply State.enter_moves; exact h; apply State.refuse_moves; exact h

theorem State.placeWaiting_moves {z s : State} {id tau} (h : Moves z s) : Moves z (s.placeWaiting id tau) := by
  unfold State.placeWaiting; split; exact h; split; split; apply State.refuse_moves; apply State.dropRun_moves
  exact h; apply State.placeRun_moves; apply State.dropRun_moves; exact h; exact h; apply State.placeFixed_moves
  apply State.dropRun_moves; exact h

theorem State.askPages_moves {z s : State} {r as granted} (h : Moves z s) : Moves z (s.askPages r as granted) := by
  unfold State.askPages; dsimp only; split; refine Moves.foldl ?_ ?_; intro s1 a2 h3; apply State.emit_moves; exact h3
  exact h; refine Moves.foldl ?_ ?_; intro s4 a5 h6; apply State.waitPage_moves; exact h6; refine Moves.foldl ?_ ?_
  intro s7 a8 h9; apply State.emit_moves; exact h9; exact h

theorem State.admitRun_moves {z s : State} {r a pagesGranted tau} (h : Moves z s) :
    Moves z (s.admitRun r a pagesGranted tau) := by
  unfold State.admitRun; split; apply State.refuse_moves; exact h; split; apply State.refuse_moves; exact h
  dsimp only; split; apply State.refuse_moves; exact h; split; apply State.refuse_moves; exact h; split
  apply State.refuse_moves; exact h; split; apply State.refuse_moves; exact h; split; apply State.refuse_moves
  exact h; split; apply State.refuse_moves; exact h; split; refine Moves.upd ?_; apply State.askPages_moves
  apply State.updSleeve_moves; exact h; intro B1 w2; exact w2; apply State.placeRun_moves; apply State.askPages_moves
  apply State.updSleeve_moves; exact h; intro B3 w4; exact w4

theorem State.placeOrWait_moves {z s : State} {r tau} (h : Moves z s) : Moves z (s.placeOrWait r tau) := by
  unfold State.placeOrWait; split; refine Moves.upd ?_; exact h; apply State.placeFixed_moves; exact h

theorem State.admitUpdate_moves {z s : State} {r u ps pagesGranted tau} (h : Moves z s) :
    Moves z (s.admitUpdate r u ps pagesGranted tau) := by
  unfold State.admitUpdate; split; apply State.refuse_moves; exact h; split; apply State.refuse_moves; exact h; split
  apply State.refuse_moves; exact h; split; apply State.refuse_moves; exact h; split; apply State.refuse_moves
  exact h; dsimp only; split; apply State.refuse_moves; exact h; split; apply State.refuse_moves
  apply State.fresh_moves; exact h; split; apply State.refuse_moves; apply State.fresh_moves; exact h; split; split
  split; apply State.refuse_moves; apply State.fresh_moves; exact h; apply State.placeOrWait_moves
  apply State.askPages_moves; apply State.fresh_moves; exact h; split; apply State.refuse_moves
  apply State.fresh_moves; exact h; apply State.placeOrWait_moves; apply State.askPages_moves; apply State.fresh_moves
  exact h; split; split; apply State.refuse_moves; apply State.fresh_moves; exact h; apply State.placeOrWait_moves
  apply State.askPages_moves; apply State.fresh_moves; exact h; split; apply State.refuse_moves
  apply State.fresh_moves; exact h; apply State.placeOrWait_moves; apply State.askPages_moves; apply State.fresh_moves
  exact h

theorem State.killRun_moves {z s : State} {id st} (h : Moves z s) : Moves z (s.killRun id st) := by
  unfold State.killRun; apply State.stopRun_moves; exact h

theorem State.readKill_moves {z s : State} {r t} (h : Moves z s) : Moves z (s.readKill r t) := by
  unfold State.readKill; split; apply State.refuse_moves; exact h; split; split; apply State.refuse_moves; exact h
  dsimp only; apply State.refuse_moves; refine Moves.foldl ?_ ?_; intro s1 a2 h3; apply State.killRun_moves; exact h3
  apply State.killRun_moves; exact h; apply State.refuse_moves; exact h

theorem State.admitPlain_moves {z s : State} {r pagesGranted tau} (h : Moves z s) :
    Moves z (s.admitPlain r pagesGranted tau) := by
  unfold State.admitPlain; dsimp only; split; apply State.refuse_moves; exact h; split; split
  apply State.refuse_moves; exact h; apply State.placeOrWait_moves; apply State.askPages_moves; exact h; split
  apply State.refuse_moves; exact h; apply State.placeOrWait_moves; apply State.askPages_moves; exact h

theorem State.acceptCommand_moves {z s : State} {o queue slot bytes aux} (h : Moves z s) :
    Moves z (s.acceptCommand o queue slot bytes aux) := by
  unfold State.acceptCommand; dsimp only; split; apply State.refuse_moves; apply State.updAccepted_moves
  refine Moves.upd ?_; apply State.fresh_moves; exact h; split; apply State.refuse_moves
  apply State.updAccepted_moves; refine Moves.upd ?_; apply State.fresh_moves; exact h; split
  apply State.admitRun_moves; apply State.updAccepted_moves; refine Moves.upd ?_; apply State.fresh_moves; exact h
  apply State.admitUpdate_moves; apply State.updAccepted_moves; refine Moves.upd ?_; apply State.fresh_moves; exact h
  apply State.readKill_moves; apply State.updAccepted_moves; refine Moves.upd ?_; apply State.fresh_moves; exact h
  apply State.admitPlain_moves; apply State.updAccepted_moves; refine Moves.upd ?_; apply State.fresh_moves; exact h

theorem State.countHeader_moves {z s : State} {o} (h : Moves z s) : Moves z (s.countHeader o) := by
  unfold State.countHeader; dsimp only; split; refine Moves.upd ?_; exact h; apply State.updSleeve_moves
  refine Moves.upd ?_; exact h; intro B1 w2; exact w2

theorem State.readSlot_moves {z s : State} {o q bytes aux} (h : Moves z s) : Moves z (s.readSlot o q bytes aux) := by
  unfold State.readSlot; dsimp only; split; apply State.acceptCommand_moves; apply State.countHeader_moves
  apply State.updSq_moves; apply State.emit_moves; apply State.emit_moves; exact h; split; apply State.updSq_moves
  apply State.emit_moves; apply State.emit_moves; exact h; apply State.stopQueue_moves; refine Moves.upd ?_
  apply State.refuse_moves; apply State.emit_moves; apply State.emit_moves; exact h

theorem execDescriptorRead_moves {z s : State} {o queue bytes aux} (h : Moves z s) :
    Ends z (execDescriptorRead o queue bytes aux s) := by
  unfold execDescriptorRead; apply Ends.next; split; exact h; split; apply State.readSlot_moves; exact h; exact h

theorem State.placeWaiters_moves {z s : State} {tau fuel} (h : Moves z s) : Moves z (State.placeWaiters s tau fuel) := by
  induction fuel generalizing s with
  | zero => exact h
  | succ fuel ih =>
    unfold State.placeWaiters
    split
    · exact ih (State.placeWaiting_moves h)
    · exact h

theorem execDescriptorReread_moves {z s : State} {o queue bytes aux} (h : Moves z s) :
    Ends z (execDescriptorReread o queue bytes aux s) := by
  unfold execDescriptorReread; apply Ends.next; split; exact h; split; apply State.readSlot_moves; exact h; exact h

/-! ### Commit -/

theorem State.withdraw_moves {z s : State} {id} (h : Moves z s) : Moves z (s.withdraw id) := by
  unfold State.withdraw; split; exact h; split; split; apply State.updRun_moves; exact h; exact h
  apply State.stopRun_moves; exact h

theorem State.withdrawAll_moves {z s : State} {id} (h : Moves z s) : Moves z (s.withdrawAll id) := by
  unfold State.withdrawAll; refine Moves.foldl ?_ ?_; intro s1 a2 h3; apply State.withdraw_moves; exact h3; exact h

theorem State.releaseSent_moves {z s : State} {id committed} (h : Moves z s) :
    Moves z (s.releaseSent id committed) := by
  unfold State.releaseSent; refine Moves.upd ?_; exact h

theorem State.complete_moves {z s : State} {r st d} (h : Moves z s) : Moves z (s.complete r st d) := by
  unfold State.complete; dsimp only; refine Moves.upd ?_; apply State.releaseSent_moves; apply State.dropRun_moves
  apply State.updAccepted_moves; split; exact h; apply State.withdrawAll_moves; exact h

theorem Sleeve.commitLine_wf {v l} (w : Sleeve.Wf v) : Sleeve.Wf (Sleeve.commitLine v l) := by
  unfold Sleeve.commitLine; refine Memory.wf_memWrite _ _ _ ?_; exact w

theorem State.deliver_moves {z s : State} {wins sl a bytes} (h : Moves z s) :
    Moves z (s.deliver wins sl a bytes).1 := by
  unfold State.deliver; split; exact h; split; dsimp only; apply State.unsettle_moves; apply State.updSleeve_moves
  exact h; intro B1 w2; refine Memory.wf_memWrite _ _ _ ?_; exact w2; split; exact h; exact h

theorem State.fail_moves {z s : State} {r st detail bolt} (h : Moves z s) : Moves z (s.fail r st detail bolt) := by
  unfold State.fail; apply State.complete_moves; exact h

theorem State.commitBasting_moves {z s : State} {wins r} (h : Moves z s) : Moves z (State.commitBasting s wins r).1 := by
  refine State.deliver_moves (Moves.foldl (fun _ _ h => State.updBolt_moves h fun _ w => w) ?_)
  refine Moves.upd (s := s.updSleeve _ _) (State.updSleeve_moves h fun v w => ?_)
  exact Sleeve.wf_foldl (fun _ _ => Sleeve.commitLine_wf) w

theorem State.commitRun_moves {z s : State} {wins r} (h : Moves z s) : Moves z (s.commitRun wins r) := by
  unfold State.commitRun; dsimp only; split; apply State.complete_moves; apply State.deliver_moves; exact h
  apply State.complete_moves; apply State.commitBasting_moves; exact h

/-! ### PatchState -/

theorem handEach_wf {k b l} (hk : ∀ b t vs, Bolt.Wf b → Bolt.Wf (k b t vs).bolt) (w : Bolt.Wf b) :
    Bolt.Wf (handEach k b l).2 := by
  induction l generalizing b with
  | nil => exact w
  | cons x l ih => exact ih (hk b x.1 x.2 w)

theorem State.updatePatch_wf {s : State} {r u bno b p} (w : Bolt.Wf b) :
    Bolt.Wf (State.updatePatch s r u bno b p).bolt := by
  have wm : ∀ p' k vs B, Bolt.Wf B → Bolt.Wf (handMoment r bno B s.time.stitch p' k vs).bolt := fun _ _ _ _ => handRow_wf
  refine handEach_wf (fun _ _ _ => handRow_wf) ?_
  split
  · exact handEach_wf (fun _ _ _ => wm _ _ _ _) (handEach_wf (fun _ _ _ => wm _ _ _ _) w)
  · exact handEach_wf (fun _ _ _ => wm _ _ _ _) w

theorem State.updateEach_wf {s : State} {r u bno b hs} (w : Bolt.Wf b) : Bolt.Wf (State.updateEach s r u bno b hs).2 := by
  induction hs generalizing b with
  | nil => exact w
  | cons x hs ih =>
    unfold State.updateEach
    split
    · exact ih w
    · exact ih (State.updatePatch_wf w)

theorem State.measure_moves {z s : State} {r} (h : Moves z s) : Moves z (State.measure s r).2 := by
  unfold State.measure
  have go : ∀ (l : List Nat) (x : Run × State), Moves z x.2 → Moves z (l.foldl (fun (x : Run × State) b =>
      let f := x.2.fresh
      ({ x.1 with measured := put 0 x.1.measured b (min (look 0 r.costs b) (Config.elapsed f.1)) }, f.2)) x).2 := by
    intro l
    induction l with
    | nil => exact fun _ h => h
    | cons b l ih => exact fun x h => ih _ (State.fresh_moves h)
  exact go _ _ h

theorem State.refreshPockets_moves {z s : State} {x2} (h : Moves z s) : Moves z (s.refreshPockets x2) := by
  unfold State.refreshPockets; dsimp only; apply State.updBolts_moves; exact h; intro a1 B2 w3; exact w3

theorem State.commitUpdate_moves {z s : State} {wins r u ps} (h : Moves z s) :
    Moves z (s.commitUpdate wins r u ps) := by
  unfold State.commitUpdate; split; apply State.fail_moves; exact h; dsimp only; split; apply State.complete_moves
  apply State.deliver_moves; apply State.measure_moves; exact h; apply State.complete_moves; apply State.deliver_moves
  refine Moves.foldl ?_ ?_; intro s1 a2 h3; apply State.unsettle_moves; apply State.refreshPockets_moves
  apply State.updPatch_moves; exact h3; apply State.setBolt_moves; apply State.measure_moves; exact h; intro i4
  intro i5; apply State.updateEach_wf; exact State.wf_bolt ‹State.Inv _› _

/-! ### QueueCmds -/

theorem State.onSleeve_moves {z s : State} {r k} (h : Moves z s) (hk : ∀ v, Moves z (k v)) :
    Moves z (State.onSleeve s r k) := by
  unfold State.onSleeve
  split
  · exact State.fail_moves h
  · exact hk _

theorem State.done_moves {z s : State} {r d} (h : Moves z s) : Moves z (s.done r d) := by
  unfold State.done; apply State.complete_moves; exact h

theorem State.commitSetRecipe_moves {z s : State} {r cls kind e} (h : Moves z s) :
    Moves z (s.commitSetRecipe r cls kind e) := by
  unfold State.commitSetRecipe; apply State.onSleeve_moves; exact h; intro B1; split; apply State.fail_moves; exact h
  apply State.done_moves; apply State.updSleeve_moves; exact h; intro B2 w3; exact w3

theorem State.runOf_moves {z s : State} {x2 b} (h : Moves z s) : Moves z (s.runOf x2 b).2 := by
  unfold State.runOf; split; exact h; dsimp only; refine Moves.upd ?_; exact h

theorem State.committing_moves {z s k : State} {r} (h : Moves z s) (hk : Moves z k) : Moves z (s.committing r k) := by
  unfold State.committing
  split
  · exact State.fail_moves h
  · exact hk

theorem State.commandRow_moves {z s : State} {x b k} (h : Moves z s) (hk : ∀ s r, Moves z s → Moves z (k s r)) :
    Moves z (State.commandRow s x b k) := by
  unfold State.commandRow
  dsimp only
  split
  · exact State.fail_moves (State.runOf_moves h)
  · exact State.committing_moves (State.runOf_moves h) (hk _ _ (State.runOf_moves h))

theorem execUpdate_moves {z s : State} {x1 block patches} (h : Moves z s) :
    Ends z (execUpdate x1 block patches s) := by
  unfold execUpdate; apply Ends.next; apply State.commandRow_moves; exact h; intro s1 a2 h3; split
  apply State.fail_moves; exact h3; apply State.commitUpdate_moves; exact h3

theorem State.newKeySet_moves {z s : State} {owner} (h : Moves z s) : Moves z (s.newKeySet owner).2 := by
  unfold State.newKeySet; dsimp only; refine Moves.upd ?_; exact h

theorem State.dropJobKey_moves {z s : State} {key} (h : Moves z s) : Moves z (s.dropJobKey key) := by
  unfold State.dropJobKey; split; exact h; refine Moves.upd ?_; exact h

theorem State.endGroups_moves {z s : State} {gs} (h : Moves z s) : Moves z (s.endGroups gs) := by
  unfold State.endGroups; dsimp only; refine Moves.foldl ?_ ?_; intro s1 a2 h3; apply State.dropJobKey_moves; exact h3
  refine Moves.upd ?_; exact h

theorem State.commitDestroyGroup_moves {z s : State} {r g} (h : Moves z s) : Moves z (s.commitDestroyGroup r g) := by
  unfold State.commitDestroyGroup; apply State.onSleeve_moves; exact h; intro B1; split; apply State.fail_moves
  exact h; split; apply State.fail_moves; exact h; dsimp only; apply State.done_moves; apply State.endGroups_moves
  apply State.updSleeve_moves; exact h; intro B2 w3; exact w3

theorem execDestroyGroup_moves {z s : State} {x1 group} (h : Moves z s) : Ends z (execDestroyGroup x1 group s) := by
  unfold execDestroyGroup; apply Ends.next; apply State.commandRow_moves; exact h; intro s1 a2 h3
  apply State.commitDestroyGroup_moves; exact h3

theorem State.commitDeregPatch_moves {z s : State} {r x3} (h : Moves z s) : Moves z (s.commitDeregPatch r x3) := by
  unfold State.commitDeregPatch; apply State.onSleeve_moves; exact h; intro B1; split; apply State.fail_moves; exact h
  split; apply State.fail_moves; exact h; dsimp only; apply State.done_moves; apply State.forgetAreas_moves
  refine Moves.upd ?_; apply State.updBolts_moves; exact h; intro a2 B3 w4; exact w4

theorem State.commitLoadPattern_moves {z s : State} {r image len} (h : Moves z s) :
    Moves z (s.commitLoadPattern r image len) := by
  unfold State.commitLoadPattern; apply State.onSleeve_moves; exact h; intro B1; split; apply State.fail_moves
  exact h; split; apply State.fail_moves; exact h; dsimp only; apply State.done_moves; apply State.updSleeve_moves
  apply State.fresh_moves; exact h; intro B2 w3; exact w3

theorem execLoadPattern_moves {z s : State} {x1 image imageLen} (h : Moves z s) :
    Ends z (execLoadPattern x1 image imageLen s) := by
  unfold execLoadPattern; apply Ends.next; apply State.commandRow_moves; exact h; intro s1 a2 h3
  apply State.commitLoadPattern_moves; exact h3

theorem execSetRecipe_moves {z s : State} {x1 cls kind entry} (h : Moves z s) :
    Ends z (execSetRecipe x1 cls kind entry s) := by
  unfold execSetRecipe; apply Ends.next; apply State.commandRow_moves; exact h; intro s1 a2 h3
  apply State.commitSetRecipe_moves; exact h3

theorem Sleeve.dropLeaves_wf {v gone} (w : Sleeve.Wf v) : Sleeve.Wf (Sleeve.dropLeaves v gone) := by
  unfold Sleeve.dropLeaves; refine Memory.wf_filter _ _ ?_; exact w

theorem State.commitConfigStack_moves {z s : State} {r bolt lane size} (h : Moves z s) :
    Moves z (s.commitConfigStack r bolt lane size) := by
  unfold State.commitConfigStack; apply State.onSleeve_moves; exact h; intro B1; dsimp only; split
  apply State.fail_moves; exact h; split; apply State.fail_moves; exact h; split; apply State.fail_moves; exact h
  apply State.done_moves; apply State.forgetAreas_moves; apply State.updBolt_moves; exact h; intro B2 w3; exact w3

theorem State.windowGone_moves {z s0 : State} {sl x3} (h : Moves z s0) : Moves z (State.windowGone s0 sl x3) := by
  unfold State.windowGone; dsimp only; refine Moves.foldl ?_ ?_; intro s1 a2 h3; apply State.stopRun_moves; exact h3
  apply State.updSleeve_moves; exact h; intro B4 w5; exact w5

theorem State.commitSetWindow_moves {z s : State} {r x3} (h : Moves z s) : Moves z (s.commitSetWindow r x3) := by
  unfold State.commitSetWindow; apply State.onSleeve_moves; exact h; intro B1; split; apply State.fail_moves; exact h
  split; apply State.fail_moves; exact h; dsimp only; apply State.done_moves; split; apply State.windowGone_moves
  apply State.updSleeve_moves; exact h; intro B2 w3; exact w3; apply State.updSleeve_moves; exact h; intro B4 w5
  exact w5

theorem execSetWindow_moves {z s : State} {x1 window r x4 pasid base len} (h : Moves z s) :
    Ends z (execSetWindow x1 window r x4 pasid base len s) := by
  unfold execSetWindow; apply Ends.next; apply State.commandRow_moves; exact h; intro s1 a2 h3
  apply State.commitSetWindow_moves; exact h3

theorem execRun_moves {z s : State} {x1 args} (h : Moves z s) : Ends z (execRun x1 args s) := by
  unfold execRun; apply Ends.next; split; split; exact h; split; refine Moves.foldl ?_ ?_; intro s1 a2 h3
  apply State.beginNext_moves; exact h3; exact h; split; apply State.committing_moves; exact h
  apply State.commitRun_moves; exact h; exact h; split; apply State.refuse_moves; refine Moves.upd ?_; exact h
  apply State.admitRun_moves; refine Moves.upd ?_; exact h

theorem State.present_moves {z s : State} {node b} (h : Moves z s) : Moves z (s.present node b) := by
  unfold State.present; dsimp only; split; refine Moves.foldl ?_ ?_; intro s1 a2 h3; apply State.emit_moves; exact h3
  refine Moves.upd ?_; exact h; refine Moves.upd ?_; exact h

theorem State.commitCreateGroup_moves {z s : State} {r b} (h : Moves z s) : Moves z (s.commitCreateGroup r b) := by
  unfold State.commitCreateGroup; apply State.onSleeve_moves; exact h; intro B1; split; apply State.fail_moves
  exact h; split; apply State.fail_moves; exact h; split; apply State.fail_moves; exact h; dsimp only
  apply State.done_moves; split; apply State.present_moves; refine Moves.upd ?_; exact h; apply State.emit_moves
  refine Moves.upd ?_; exact h

theorem State.commitExportPatch_moves {z s : State} {wins ps r x5 dest len} (h : Moves z s) :
    Moves z (s.commitExportPatch wins ps r x5 dest len) := by
  unfold State.commitExportPatch; apply State.onSleeve_moves; exact h; intro B1; split; apply State.fail_moves
  exact h; apply State.fail_moves; exact h; dsimp only; split; apply State.fail_moves; exact h; split
  apply State.fail_moves; exact h; split; split; apply State.fail_moves; apply State.fresh_moves; exact h
  apply State.done_moves; apply State.fresh_moves; exact h; apply State.done_moves; apply State.deliver_moves
  apply State.fresh_moves; exact h

theorem execKill_moves {z s : State} {x1 target} (h : Moves z s) : Ends z (execKill x1 target s) := by
  unfold execKill; apply Ends.next; split; apply State.refuse_moves; refine Moves.upd ?_; exact h
  apply State.readKill_moves; refine Moves.upd ?_; exact h

theorem State.commitUnmap_moves {z s : State} {r base len} (h : Moves z s) : Moves z (s.commitUnmap r base len) := by
  unfold State.commitUnmap; apply State.onSleeve_moves; exact h; intro B1; dsimp only; split; apply State.done_moves
  exact h; split; apply State.fail_moves; exact h; split; apply State.fail_moves; exact h; apply State.done_moves
  apply State.forgetPages_moves; apply State.forgetLines_moves; apply State.updSleeve_moves; exact h; intro B2 w3
  apply Sleeve.dropLeaves_wf; exact w3

theorem execUnmap_moves {z s : State} {x1 base len} (h : Moves z s) : Ends z (execUnmap x1 base len s) := by
  unfold execUnmap; apply Ends.next; apply State.commandRow_moves; exact h; intro s1 a2 h3
  apply State.commitUnmap_moves; exact h3

theorem State.commitRegPatch_moves {z s : State} {r d i} (h : Moves z s) : Moves z (s.commitRegPatch r d i) := by
  unfold State.commitRegPatch; apply State.onSleeve_moves; exact h; intro B1; dsimp only; split
  apply State.fail_moves; exact h; split; apply State.fail_moves; exact h; split; apply State.fail_moves; exact h
  split; apply State.fail_moves; exact h; split; apply State.fail_moves; exact h; split; apply State.fail_moves
  exact h; split; apply State.fail_moves; exact h; apply State.done_moves; apply State.unsettle_moves
  refine Moves.upd ?_; apply State.fresh_moves; exact h

theorem execRegPatch_moves {z s : State} {x1 desc image} (h : Moves z s) : Ends z (execRegPatch x1 desc image s) := by
  unfold execRegPatch; apply Ends.next; apply State.commandRow_moves; exact h; intro s1 a2 h3
  apply State.commitRegPatch_moves; exact h3

theorem State.commitDeregTenant_moves {z s : State} {r t} (h : Moves z s) : Moves z (s.commitDeregTenant r t) := by
  unfold State.commitDeregTenant; apply State.onSleeve_moves; exact h; intro B1; split; apply State.fail_moves
  exact h; split; apply State.fail_moves; exact h; dsimp only; apply State.done_moves; apply State.forgetAreas_moves
  refine Moves.upd ?_; exact h

theorem execDeregTenant_moves {z s : State} {x1 tenant} (h : Moves z s) : Ends z (execDeregTenant x1 tenant s) := by
  unfold execDeregTenant; apply Ends.next; apply State.commandRow_moves; exact h; intro s1 a2 h3
  apply State.commitDeregTenant_moves; exact h3

theorem execCreateGroup_moves {z s : State} {x1 block} (h : Moves z s) : Ends z (execCreateGroup x1 block s) := by
  unfold execCreateGroup; apply Ends.next; apply State.commandRow_moves; exact h; intro s1 a2 h3
  apply State.commitCreateGroup_moves; exact h3

theorem execExportPatch_moves {z s : State} {x1 patch dest destLen} (h : Moves z s) :
    Ends z (execExportPatch x1 patch dest destLen s) := by
  unfold execExportPatch; apply Ends.next; apply State.commandRow_moves; exact h; intro s1 a2 h3
  apply State.commitExportPatch_moves; exact h3

theorem State.commitFence_moves {z s : State} {r} (h : Moves z s) : Moves z (s.commitFence r) := by
  unfold State.commitFence; apply State.done_moves; exact h

theorem State.commitFreePattern_moves {z s : State} {r hd} (h : Moves z s) : Moves z (s.commitFreePattern r hd) := by
  unfold State.commitFreePattern; apply State.onSleeve_moves; exact h; intro B1; split; apply State.fail_moves
  exact h; split; apply State.fail_moves; exact h; dsimp only; apply State.done_moves; apply State.updBolts_moves
  apply State.updSleeve_moves; exact h; intro B2 w3; exact w3; intro a4 B5 w6; exact w6

theorem execFreePattern_moves {z s : State} {x1 handle} (h : Moves z s) : Ends z (execFreePattern x1 handle s) := by
  unfold execFreePattern; apply Ends.next; apply State.commandRow_moves; exact h; intro s1 a2 h3
  apply State.commitFreePattern_moves; exact h3

theorem State.commitRegTenant_moves {z s : State} {r t key} (h : Moves z s) : Moves z (s.commitRegTenant r t key) := by
  unfold State.commitRegTenant; apply State.onSleeve_moves; exact h; intro B1; split; apply State.fail_moves; exact h
  split; apply State.fail_moves; exact h; split; apply State.fail_moves; exact h; split; apply State.fail_moves
  exact h; dsimp only; apply State.done_moves; refine Moves.upd ?_; apply State.newKeySet_moves; exact h

theorem execRegTenant_moves {z s : State} {x1 tenant key} (h : Moves z s) :
    Ends z (execRegTenant x1 tenant key s) := by
  unfold execRegTenant; apply Ends.next; apply State.commandRow_moves; exact h; intro s1 a2 h3
  apply State.commitRegTenant_moves; exact h3

theorem State.commitClearWindow_moves {z s : State} {r x3} (h : Moves z s) : Moves z (s.commitClearWindow r x3) := by
  unfold State.commitClearWindow; apply State.onSleeve_moves; exact h; intro B1; split; apply State.fail_moves
  exact h; dsimp only; apply State.done_moves; apply State.windowGone_moves; apply State.updSleeve_moves; exact h
  intro B2 w3; exact w3

theorem execClearWindow_moves {z s : State} {x1 window} (h : Moves z s) : Ends z (execClearWindow x1 window s) := by
  unfold execClearWindow; apply Ends.next; apply State.commandRow_moves; exact h; intro s1 a2 h3
  apply State.commitClearWindow_moves; exact h3

theorem State.windowLost_moves {z s : State} {sl x3} (h : Moves z s) : Moves z (s.windowLost sl x3) := by
  unfold State.windowLost; dsimp only; refine Moves.foldl ?_ ?_; intro s1 a2 h3; apply State.stopRun_moves; exact h3
  exact h

theorem State.commitMap_moves {z s : State} {r base len page x6 node} (h : Moves z s) :
    Moves z (s.commitMap r base len page x6 node) := by
  unfold State.commitMap; apply State.onSleeve_moves; exact h; intro B1; dsimp only; split; apply State.fail_moves
  exact h; split; apply State.fail_moves; exact h; split; apply State.fail_moves; exact h; split
  apply State.fail_moves; exact h; apply State.done_moves; apply State.updSleeve_moves; apply State.fresh_moves
  exact h; intro B2 w3; exact w3

theorem execMap_moves {z s : State} {x1 base len page writable node} (h : Moves z s) :
    Ends z (execMap x1 base len page writable node s) := by
  unfold execMap; apply Ends.next; apply State.commandRow_moves; exact h; intro s1 a2 h3; apply State.commitMap_moves
  exact h3

theorem execConfigStack_moves {z s : State} {x1 bolt lane size} (h : Moves z s) :
    Ends z (execConfigStack x1 bolt lane size s) := by
  unfold execConfigStack; apply Ends.next; apply State.commandRow_moves; exact h; intro s1 a2 h3
  apply State.commitConfigStack_moves; exact h3

theorem execFence_moves {z s : State} {x1} (h : Moves z s) : Ends z (execFence x1 s) := by
  unfold execFence; apply Ends.next; apply State.commandRow_moves; exact h; intro s1 a2 h3
  apply State.commitFence_moves; exact h3

theorem execDeregPatch_moves {z s : State} {x1 patch} (h : Moves z s) : Ends z (execDeregPatch x1 patch s) := by
  unfold execDeregPatch; apply Ends.next; apply State.commandRow_moves; exact h; intro s1 a2 h3
  apply State.commitDeregPatch_moves; exact h3

/-! ### AdminCmds -/

theorem State.armSnap_moves {z s : State} {target offset id source} (h : Moves z s) :
    Moves z (s.armSnap target offset id source) := by
  unfold State.armSnap; refine Moves.upd ?_; exact h

theorem State.sendTrigger_moves {z s : State} {id target offset} (h : Moves z s) :
    Moves z (s.sendTrigger id target offset) := by
  unfold State.sendTrigger; dsimp only; split; apply State.armSnap_moves; apply State.emit_moves; exact h
  apply State.emit_moves; exact h

theorem State.commitSnapshotDomain_moves {z s : State} {r id target offset} (h : Moves z s) :
    Moves z (s.commitSnapshotDomain r id target offset) := by
  unfold State.commitSnapshotDomain; split; apply State.fail_moves; exact h; split; apply State.fail_moves; exact h
  apply State.done_moves; apply State.sendTrigger_moves; exact h

theorem execSnapshotDomain_moves {z s : State} {x1 snapId target offset} (h : Moves z s) :
    Ends z (execSnapshotDomain x1 snapId target offset s) := by
  unfold execSnapshotDomain; apply Ends.next; apply State.commandRow_moves; exact h; intro s1 a2 h3
  apply State.commitSnapshotDomain_moves; exact h3

theorem State.commitSetStitch_moves {z s : State} {r code} (h : Moves z s) : Moves z (State.commitSetStitch s r code) := by
  have h1 : Moves z { s with time := { s.time with lenNext := some (code % 4) } } :=
    Moves.upd h (next_ := fun _ c e => by injection e with e; rw [← e]; exact Nat.mod_lt _ (by decide))
  unfold State.commitSetStitch
  split
  · exact State.fail_moves h
  · split
    · exact State.fail_moves h
    · refine State.done_moves ?_
      split
      · exact h1
      · exact State.emit_moves h1

theorem execSetStitch_moves {z s : State} {x1 code} (h : Moves z s) : Ends z (execSetStitch x1 code s) := by
  unfold execSetStitch; apply Ends.next; apply State.commandRow_moves; exact h; intro s1 a2 h3
  apply State.commitSetStitch_moves; exact h3

theorem State.commitSetFloor_moves {z s : State} {r floor} (h : Moves z s) : Moves z (s.commitSetFloor r floor) := by
  unfold State.commitSetFloor; dsimp only; split; apply State.fail_moves; exact h; split; apply State.fail_moves
  exact h; split; apply State.fail_moves; exact h; split; apply State.fail_moves; exact h; apply State.done_moves
  refine Moves.upd ?_; exact h

theorem State.commitTelemetry_moves {z s : State} {wins r kind dest len} (h : Moves z s) :
    Moves z (s.commitTelemetry wins r kind dest len) := by
  unfold State.commitTelemetry; split; apply State.fail_moves; exact h; dsimp only; split; apply State.done_moves
  exact h; apply State.done_moves; apply State.deliver_moves; exact h

theorem execTelemetryLink_moves {z s : State} {x1 dest destLen} (h : Moves z s) :
    Ends z (execTelemetryLink x1 dest destLen s) := by
  unfold execTelemetryLink; apply Ends.next; apply State.commandRow_moves; exact h; intro s1 a2 h3
  apply State.commitTelemetry_moves; exact h3

theorem State.commitSnapshot_moves {z s : State} {r id target offset} (h : Moves z s) :
    Moves z (s.commitSnapshot r id target offset) := by
  unfold State.commitSnapshot; split; apply State.fail_moves; exact h; apply State.done_moves
  apply State.armSnap_moves; exact h

theorem execSnapshot_moves {z s : State} {x1 snapId target offset} (h : Moves z s) :
    Ends z (execSnapshot x1 snapId target offset s) := by
  unfold execSnapshot; apply Ends.next; apply State.commandRow_moves; exact h; intro s1 a2 h3
  apply State.commitSnapshot_moves; exact h3

theorem execTelemetryErrorLog_moves {z s : State} {x1 dest destLen} (h : Moves z s) :
    Ends z (execTelemetryErrorLog x1 dest destLen s) := by
  unfold execTelemetryErrorLog; apply Ends.next; apply State.commandRow_moves; exact h; intro s1 a2 h3
  apply State.commitTelemetry_moves; exact h3

theorem execTelemetryPower_moves {z s : State} {x1 dest destLen} (h : Moves z s) :
    Ends z (execTelemetryPower x1 dest destLen s) := by
  unfold execTelemetryPower; apply Ends.next; apply State.commandRow_moves; exact h; intro s1 a2 h3
  apply State.commitTelemetry_moves; exact h3

theorem execTelemetryDomain_moves {z s : State} {x1 dest destLen} (h : Moves z s) :
    Ends z (execTelemetryDomain x1 dest destLen s) := by
  unfold execTelemetryDomain; apply Ends.next; apply State.commandRow_moves; exact h; intro s1 a2 h3
  apply State.commitTelemetry_moves; exact h3

theorem State.commitOpenIngest_moves {z s : State} {r pasid base len} (h : Moves z s) :
    Moves z (s.commitOpenIngest r pasid base len) := by
  unfold State.commitOpenIngest; dsimp only; apply State.done_moves; refine Moves.foldl ?_ ?_; intro s1 a2 h3
  apply State.seedRead_moves; exact h3; refine Moves.upd ?_; exact h

theorem execTelemetrySlowdown_moves {z s : State} {x1 dest destLen} (h : Moves z s) :
    Ends z (execTelemetrySlowdown x1 dest destLen s) := by
  unfold execTelemetrySlowdown; apply Ends.next; apply State.commandRow_moves; exact h; intro s1 a2 h3
  apply State.commitTelemetry_moves; exact h3

theorem execOpenIngest_moves {z s : State} {x1 pasid base len} (h : Moves z s) :
    Ends z (execOpenIngest x1 pasid base len s) := by
  unfold execOpenIngest; apply Ends.next; apply State.commandRow_moves; exact h; intro s1 a2 h3
  apply State.commitOpenIngest_moves; exact h3

theorem execSetFloor_moves {z s : State} {x1 floor} (h : Moves z s) : Ends z (execSetFloor x1 floor s) := by
  unfold execSetFloor; apply Ends.next; apply State.commandRow_moves; exact h; intro s1 a2 h3
  apply State.commitSetFloor_moves; exact h3

/-! ### Plan -/

theorem State.gateOf_wf {s : State} {p bno} (i : s.Inv) : Bolt.Wf (State.gateOf s p bno) := by
  have w := State.wf_bolt i bno
  unfold State.gateOf
  dsimp only
  repeat' split
  all_goals exact w

theorem State.gatesPlanned_moves {z s : State} (h : Moves z s) : Moves z s.gatesPlanned := by
  unfold State.gatesPlanned; dsimp only; apply State.updBolts_moves; exact h; intro a1 B2 w3; exact w3

theorem State.planStitch_moves {z s : State} (h : Moves z s) : Moves z s.planStitch := by
  unfold State.planStitch; dsimp only; refine Moves.upd ?_; apply State.updBolts_moves; exact h; intro a1 B2 w3
  exact w3

/-! ### BoltEvents -/

theorem execDroopRecover_moves {z s : State} {bolt} (h : Moves z s) : Ends z (execDroopRecover bolt s) := by
  unfold execDroopRecover; apply Ends.next; apply State.updBolt_moves; exact h; intro B1 w2; exact w2

theorem execDroopSlackExhausted_moves {z s : State} {bolt} (h : Moves z s) :
    Ends z (execDroopSlackExhausted bolt s) := by
  unfold execDroopSlackExhausted; apply Ends.next; split; apply State.updBolt_moves; exact h; intro B1 w2; exact w2
  exact h

theorem State.updUnit_moves {z s : State} {bolt array f} (h : Moves z s) : Moves z (s.updUnit bolt array f) := by
  unfold State.updUnit; apply State.updBolt_moves; exact h; intro B1 w2; exact w2

theorem execMatrixUnitCold_moves {z s : State} {bolt array} (h : Moves z s) :
    Ends z (execMatrixUnitCold bolt array s) := by
  unfold execMatrixUnitCold; apply Ends.next; dsimp only; split; apply State.updUnit_moves; exact h; exact h

theorem execDroopDetect_moves {z s : State} {bolt stretch} (h : Moves z s) :
    Ends z (execDroopDetect bolt stretch s) := by
  unfold execDroopDetect; apply Ends.next; apply State.updBolt_moves; exact h; intro B1 w2; exact w2

theorem execBeadMeterOverrun_moves {z s : State} {bolt} (h : Moves z s) : Ends z (execBeadMeterOverrun bolt s) := by
  unfold execBeadMeterOverrun; apply Ends.next; split; exact h; split; exact h; dsimp only; apply State.leave_moves
  apply State.updBolt_moves; apply State.event_moves; apply State.updRun_moves; apply State.updBolt_moves; exact h
  intro B1 w2; exact w2; intro B3 w4; apply Bolt.discard_wf; exact w4

theorem execPocketFill_moves {z s : State} {bolt patch layer} (h : Moves z s) :
    Ends z (execPocketFill bolt patch layer s) := by
  unfold execPocketFill; apply Ends.next; split; exact h; split; exact h; apply State.updBolt_moves; exact h
  intro B1 w2; exact w2

theorem execBoltStartSlot_moves {z s : State} {bolt} (h : Moves z s) : Ends z (execBoltStartSlot bolt s) := by
  unfold execBoltStartSlot; apply Ends.next; split; exact h; split; exact h; split; refine Moves.foldl ?_ ?_
  intro s1 a2 h3; split; exact h3; apply State.updUnit_moves; exact h3; exact h; exact h

theorem execKeeperStallTimeout_moves {z s : State} {bolt array} (h : Moves z s) :
    Ends z (execKeeperStallTimeout bolt array s) := by
  unfold execKeeperStallTimeout; apply Ends.next; split; exact h; apply State.updUnit_moves; exact h

end Sys2Proof.Machine
end

