-- ==== Sys2Proof/Laws/MovesHem.lean ====
section
/-! SUPPORT. The hem, the edge and the host link: what each keeps (`Moves`, `Ends`, `Wf`),
one lemma a definition, for the statements over every command. -/
namespace Sys2Proof.Machine
open Sys2Proof

/- One proof after another: the many short proofs here would else each take a thread of their own. -/
set_option Elab.async false


/-! ### Hem -/

theorem State.underNewPlan_moves {z s : State} (h : Moves z s) : Moves z s.underNewPlan := by
  unfold State.underNewPlan; refine Moves.upd ?_; exact h

theorem State.replaceDependents_moves {z s : State} {id} (h : Moves z s) : Moves z (s.replaceDependents id) := by
  unfold State.replaceDependents; refine Moves.foldl ?_ ?_; intro s1 a2 h3; split; exact h3; split
  apply State.placeAgain_moves; exact h3; exact h3; exact h

theorem State.weighReplanned_moves {z s : State} {r claims e c t} (h : Moves z s)
    (x : State.weighReplanned s r claims e = some (c, t)) : Moves z t := by
  unfold State.weighReplanned at x
  split at x
  · split at x
    · obtain ⟨y, hy, hx⟩ := Option.map_eq_some_iff.mp x
      injection hx with h1 h2
      have m := State.weighRun_moves (State.underNewPlan_moves (Moves.refl s)) hy
      exact h2 ▸ Moves.trans h (Moves.upd (Moves.refl s) (bolts_ := fun i => ⟨(m.inv i).bolts, (m.inv i).boltMem⟩))
    · cases x
  · cases x

theorem State.listAgain_moves {z s : State} {r cause late failStatus} (h : Moves z s) :
    Moves z (State.listAgain s r cause late failStatus) := by
  have h0 : Moves z (({ s with posts := s.posts.filter fun p => p.run != r.id } : State).dropRun r.id) :=
    State.dropRun_moves (Moves.upd h)
  unfold State.listAgain
  dsimp only
  split
  · exact State.fail_moves h
  · refine State.replaceDependents_moves (State.sendList_moves (Moves.upd ?_))
    refine State.candidatesFrom_moves h0 fun s e c t hs x => ?_
    split at x
    · exact State.weighReplanned_moves hs x
    · split at x
      · injection x with x
        injection x with x1 x2
        exact x2 ▸ State.claimIn_moves hs
      · cases x

theorem State.readmit_moves {z s : State} {r costs cause} (h : Moves z s) : Moves z (s.readmit r costs cause) := by
  unfold State.readmit; dsimp only; apply State.replaceDependents_moves; apply State.placeAgain_moves
  refine Moves.upd ?_; exact h

theorem State.recut_moves {z s : State} {r} (h : Moves z s) : Moves z (s.recut r) := by
  unfold State.recut; dsimp only; split; apply State.fail_moves; split; apply State.updSleeve_moves; exact h
  intro B1 w2; exact w2; exact h; split; apply State.listAgain_moves; exact h; apply State.readmit_moves; exact h

theorem State.keepEscs_moves {z s : State} {r} (h : Moves z s) : Moves z (s.keepEscs r) := by
  unfold State.keepEscs; dsimp only; refine Moves.upd ?_; exact h

theorem State.leaveSpan_moves {z s : State} {m} (h : Moves z s) : Moves z (s.leaveSpan m) := by
  unfold State.leaveSpan; refine Moves.foldl ?_ ?_; intro s1 a2 h3; split; apply State.updSlot_moves; exact h3
  intro B4 w5; exact w5; exact h3; exact h

theorem State.removeGroup_moves {z s : State} {r} (h : Moves z s) : Moves z (s.removeGroup r) := by
  unfold State.removeGroup; split; exact h; dsimp only; refine Moves.upd ?_; apply State.leaveSpan_moves; exact h

theorem State.dropCollective_moves {z s : State} {r emergency} (h : Moves z s) :
    Moves z (s.dropCollective r emergency) := by
  unfold State.dropCollective; split; apply State.listAgain_moves; exact h; split; apply State.recut_moves; exact h
  split; apply State.listAgain_moves; exact h; split; split; apply State.listAgain_moves; apply State.keepEscs_moves
  exact h; split; apply State.fail_moves; exact h; apply State.listAgain_moves; exact h; apply State.fail_moves
  apply State.removeGroup_moves; exact h

theorem State.cutAll_moves {z s : State} (h : Moves z s) : Moves z s.cutAll := by
  unfold State.cutAll; dsimp only; refine Moves.foldl ?_ ?_; intro s1 a2 h3; split; apply State.recut_moves; exact h3
  exact h3; split; exact h; apply State.shiftFrom_moves; exact h

theorem State.cutHem_moves {z s : State} (h : Moves z s) : Moves z s.cutHem := by
  unfold State.cutHem; refine Moves.foldl ?_ ?_; intro s1 a2 h3; split; apply State.dropCollective_moves; exact h3
  exact h3; apply State.cutAll_moves; exact h

theorem State.rebuildTables_moves {z s : State} (h : Moves z s) : Moves z s.rebuildTables := by
  unfold State.rebuildTables; refine Moves.upd ?_; exact h

theorem State.resetSleeve_moves {z s : State} {v destroy} (h : Moves z s) : Moves z (s.resetSleeve v destroy) := by
  unfold State.resetSleeve; dsimp only; apply State.updSleeve_moves; apply State.updBolts_moves; refine Moves.upd ?_
  refine Moves.foldl ?_ ?_; intro s1 a2 h3; split; exact h3; apply State.haltRun_moves; exact h3
  apply State.squashCollectives_moves; exact h; intro a4 B5 w6; exact w6; intro B7 w8; exact w8

theorem State.heldBack_moves {z s : State} (h : Moves z s) : Moves z s.heldBack.2 := by
  unfold State.heldBack; split; dsimp only; apply State.fresh_moves; exact h; exact h

theorem State.takeDecision_moves {z s : State} {coll release} (h : Moves z s) :
    Moves z (s.takeDecision coll release) := by
  unfold State.takeDecision; refine Moves.upd ?_; exact h

theorem State.decide__moves {z s : State} {coll release} (h : Moves z s) : Moves z (s.decide_ coll release) := by
  unfold State.decide_; dsimp only; apply State.takeDecision_moves; apply State.emit_moves; refine Moves.upd ?_
  exact h

theorem State.abortUndecided_moves {z s : State} (h : Moves z s) : Moves z s.abortUndecided := by
  unfold State.abortUndecided; split; refine Moves.foldl ?_ ?_; intro s1 a2 h3; apply State.decide__moves; exact h3
  exact h; exact h

theorem State.holdBack_moves {z s : State} {ids} (h : Moves z s) : Moves z (s.holdBack ids) := by
  unfold State.holdBack; split; exact h; dsimp only; refine Moves.upd ?_; apply State.shiftFrom_moves; exact h

theorem State.settleFills_moves {z s : State} (h : Moves z s) : Moves z s.settleFills := by
  unfold State.settleFills; dsimp only; apply State.updBolts_moves; exact h; intro a1 B2 w3; exact w3

theorem State.closeMeters_moves {z s : State} (h : Moves z s) : Moves z s.closeMeters := by
  unfold State.closeMeters; refine Moves.foldl ?_ ?_; intro s1 a2 h3; split; apply State.closeMeter_moves
  apply State.meterOn_moves; exact h3; exact h3; exact h

theorem State.dropAcknowledged_moves {z s : State} (h : Moves z s) : Moves z s.dropAcknowledged := by
  unfold State.dropAcknowledged; split; exact h; dsimp only; refine Moves.upd ?_; apply State.fresh_moves; exact h

theorem State.endFills_moves {z s : State} (h : Moves z s) : Moves z s.endFills := by
  unfold State.endFills; dsimp only; apply State.updBolts_moves; exact h; intro a1 B2 w3; exact w3

theorem State.stopIssue_moves {z s : State} (h : Moves z s) : Moves z s.stopIssue := by
  unfold State.stopIssue; apply State.updBolts_moves; exact h; intro a1 B2 w3; apply Bolt.clear_wf; split; exact w3
  apply Bolt.discard_wf; exact w3

theorem State.commitRow_moves {z s : State} {wins ps r} (h : Moves z s) : Moves z (s.commitRow wins ps r) := by
  unfold State.commitRow; split; apply State.commitRun_moves; exact h; apply State.commitUpdate_moves; exact h
  apply State.done_moves; exact h; apply State.commitFence_moves; exact h; apply State.commitRegTenant_moves; exact h
  apply State.commitDeregTenant_moves; exact h; apply State.commitRegPatch_moves; exact h
  apply State.commitDeregPatch_moves; exact h; apply State.commitExportPatch_moves; exact h
  apply State.commitLoadPattern_moves; exact h; apply State.commitFreePattern_moves; exact h
  apply State.commitSetRecipe_moves; exact h; apply State.commitConfigStack_moves; exact h
  apply State.commitMap_moves; exact h; apply State.commitUnmap_moves; exact h; apply State.commitSetWindow_moves
  exact h; apply State.commitClearWindow_moves; exact h; apply State.commitCreateGroup_moves; exact h
  apply State.commitDestroyGroup_moves; exact h; apply State.commitSnapshot_moves; exact h
  apply State.commitSnapshotDomain_moves; exact h; apply State.commitTelemetry_moves; exact h
  apply State.commitSetStitch_moves; exact h; apply State.commitSetFloor_moves; exact h
  apply State.commitOpenIngest_moves; exact h

theorem State.logCommit_moves {z s : State} {id} (h : Moves z s) : Moves z (State.logCommit s id) := by
  unfold State.logCommit
  dsimp only
  refine Moves.upd h (log_ := fun i p hp => ?_)
  rcases List.mem_append.mp hp with hp | hp
  · exact i.logged p hp
  · rw [List.mem_singleton.mp hp]
    exact ⟨i.sleeveMem, i.nextLength⟩

theorem State.commitAll_moves {z s : State} {wins ps ids} (h : Moves z s) : Moves z (State.commitAll s wins ps ids) := by
  induction ids generalizing s with
  | nil => exact h
  | cons id ids ih =>
    unfold State.commitAll
    split
    · exact ih h
    · split
      · exact ih h
      · dsimp only
        split
        · exact ih (State.fail_moves h)
        · exact ih (State.commitRow_moves (State.logCommit_moves h))

theorem State.updBolts_sleeves {s : State} {bs f} : (State.updBolts s bs f).sleeves = s.sleeves := by
  unfold State.updBolts
  induction bs generalizing s with
  | nil => rfl
  | cons _ _ ih => exact ih

theorem State.takeBolts_moves {z s : State} {sl bolts} (h : Moves z s) : Moves z (State.takeBolts s sl bolts) := by
  refine State.updBolts_moves h fun _ B w => ?_
  show Bolt.Wf (if B.lastOwner = some sl then B else B.disowned)
  split
  · exact w
  · exact Bolt.disowned_wf w

theorem State.addSleeve_moves {z s : State} {id bolts memGib cxl seam power} (h : Moves z s) :
    Moves z (State.addSleeve s id bolts memGib cxl seam power) :=
  Moves.upd (s := State.takeBolts (State.newKeySet s id).2 id bolts) (State.takeBolts_moves (State.newKeySet_moves h))
    (sleeves_ := fun i => Sleeve.wf_append (by
      have e : ((State.newKeySet s id).2.takeBolts id bolts).sleeves = (State.newKeySet s id).2.sleeves := State.updBolts_sleeves
      rw [← e]; exact i.sleeveMem) Memory.wf_nil)

theorem State.emptyLost_moves {z s : State} {st} (h : Moves z s) : Moves z (s.emptyLost st) := by
  unfold State.emptyLost; split; apply State.updBolt_moves; exact h; intro B1 w2; exact w2; exact h

theorem State.recordStop_moves {z s : State} {id} (h : Moves z s) : Moves z (s.recordStop id) := by
  unfold State.recordStop; split; exact h; split; exact h; apply State.fail_moves; apply State.emptyLost_moves
  exact h

theorem State.recordStops_moves {z s : State} (h : Moves z s) : Moves z s.recordStops := by
  unfold State.recordStops; dsimp only; refine Moves.foldl ?_ ?_; intro s1 a2 h3; apply State.recordStop_moves
  exact h3; refine Moves.foldl ?_ ?_; intro s4 a5 h6; apply State.recordStop_moves; exact h6; refine Moves.foldl ?_ ?_
  intro s7 a8 h9; apply State.recordStop_moves; exact h9; exact h

theorem State.unbind_moves {z s : State} {sl pasid} (h : Moves z s) : Moves z (s.unbind sl pasid) := by
  unfold State.unbind; split; exact h; dsimp only; refine Moves.upd ?_; apply State.recordStops_moves
  refine Moves.foldl ?_ ?_; intro s1 a2 h3; apply State.windowLost_moves; exact h3; apply State.updSleeve_moves
  exact h; intro B4 w5; exact w5

theorem State.updCqs_moves {z s : State} {o f} (h : Moves z s) : Moves z (s.updCqs o f) := by
  unfold State.updCqs; split; refine Moves.upd ?_; exact h; apply State.updSleeve_moves; exact h; intro B1 w2
  exact w2

theorem State.updSqs_moves {z s : State} {o f} (h : Moves z s) : Moves z (s.updSqs o f) := by
  unfold State.updSqs; split; refine Moves.upd ?_; exact h; apply State.updSleeve_moves; exact h; intro B1 w2
  exact w2

theorem State.applyReq_moves {z s : State} {q} (h : Moves z s) : Moves z (s.applyReq q) := by
  unfold State.applyReq; dsimp only; split; apply State.mbxDone_moves; apply State.addSleeve_moves; exact h; split
  exact h; split; split; apply State.resetSleeve_moves; exact h; exact h; apply State.mbxDone_moves; exact h; split
  exact h; split; split; apply State.resetSleeve_moves; exact h; exact h; apply State.mbxDone_moves; exact h
  apply State.mbxDone_moves; apply State.updSleeve_moves; exact h; intro B1 w2; exact w2; split
  apply State.unbind_moves; exact h; apply State.mbxDone_moves; apply State.unbind_moves; exact h
  apply State.mbxDone_moves; apply State.updCqs_moves; exact h; apply State.mbxDone_moves; apply State.updSqs_moves
  exact h; split; split; split; apply State.mbxDone_moves; exact h; apply State.mbxDone_moves
  apply State.updCqs_moves; exact h; split; apply State.mbxDone_moves; exact h; apply State.mbxDone_moves
  apply State.updCqs_moves; exact h; split; split; apply State.mbxDone_moves; exact h; apply State.mbxDone_moves
  apply State.updSqs_moves; exact h; split; apply State.mbxDone_moves; exact h; apply State.mbxDone_moves
  apply State.updSqs_moves; exact h; apply State.mbxDone_moves; apply State.updSqs_moves; exact h
  apply State.mbxDone_moves; apply State.endSession_moves; exact h

theorem State.applyMailbox_moves {z s : State} (h : Moves z s) : Moves z s.applyMailbox := by
  unfold State.applyMailbox; split; apply State.applyReq_moves; exact h; exact h

theorem State.switchPages_moves {z s : State} (h : Moves z s) : Moves z s.switchPages := by
  unfold State.switchPages; refine Moves.foldl ?_ ?_; intro s1 a2 h3; apply State.switchCopied_moves; exact h3
  refine Moves.upd ?_; exact h

theorem State.emptyLanes_moves {z s : State} {v} (h : Moves z s) : Moves z (s.emptyLanes v) := by
  unfold State.emptyLanes; apply State.updBolts_moves; exact h; intro a1 B2 w3; exact w3

theorem State.drainResets_moves {z s : State} (h : Moves z s) : Moves z s.drainResets := by
  unfold State.drainResets; refine Moves.foldl ?_ ?_; intro s1 B2 h3; split; apply State.updSleeve_moves
  apply State.emptyLanes_moves; exact h3; intro B4 w5; exact w5; exact h3; exact h

theorem State.windowsGone_moves {z s : State} {wins} (h : Moves z s) : Moves z (s.windowsGone wins) := by
  unfold State.windowsGone; dsimp only; refine Moves.foldl ?_ ?_; intro s1 a2 h3; apply State.windowLost_moves
  exact h3; refine Moves.upd ?_ (sleeves_ := ?_); exact h; intro i4; refine Sleeve.wf_map ‹State.Inv _›.sleeveMem ?_
  intro B7 w8; exact w8

theorem State.deviceSide_moves {z s : State} (h : Moves z s) : Moves z (State.deviceSide s) := by
  unfold State.deviceSide
  dsimp only
  apply State.applyMailbox_moves; apply State.switchPages_moves; apply State.rebuildTables_moves
  apply State.recordStops_moves; apply State.drainResets_moves; apply State.windowsGone_moves; apply State.endFills_moves
  apply State.cutHem_moves; apply State.stopIssue_moves; apply State.commitAll_moves; apply State.settleFills_moves
  apply State.closeMeters_moves; apply State.dropAcknowledged_moves; apply State.holdBack_moves
  exact State.heldBack_moves (State.abortUndecided_moves h)

theorem State.sendPlan_moves {z s : State} (h : Moves z s) : Moves z s.sendPlan := by
  unfold State.sendPlan; refine Moves.foldl ?_ ?_; intro s1 a2 h3; apply State.emit_moves; exact h3
  apply State.emit_moves; exact h

theorem State.sendNextPlan_moves {z s : State} (h : Moves z s) : Moves z s.sendNextPlan := by
  have m : Moves s ({ s with domain := { s.domain with plan := s.domain.plan + 1 } } : State).sendPlan :=
    State.sendPlan_moves (Moves.upd (Moves.refl s))
  exact Moves.upd h (out_ := m.keeps.out)

theorem State.planAnew_moves {z s : State} (h : Moves z s) : Moves z s.planAnew := by
  unfold State.planAnew; split; exact h; dsimp only; refine Moves.upd ?_; apply State.edgeAfter_moves; exact h

theorem State.dropMember_moves {z s : State} {node} (h : Moves z s) : Moves z (s.dropMember node) := by
  unfold State.dropMember; dsimp only; apply State.sendNextPlan_moves; apply State.planAnew_moves; refine Moves.upd ?_
  exact h

theorem State.dropAdrift_moves {z s : State} (h : Moves z s) : Moves z s.dropAdrift := by
  unfold State.dropAdrift; split; exact h; dsimp only; refine Moves.foldl ?_ ?_; intro s1 a2 h3
  apply State.dropMember_moves; exact h3; apply State.fresh_moves; exact h

theorem State.takePlace_moves {z s : State} {r no p} (h : Moves z s) : Moves z (s.takePlace r no p) := by
  unfold State.takePlace; dsimp only; apply State.updRun_moves; exact h

theorem State.takePlacement_moves {z s : State} {m seqNo no outcome st} (h : Moves z s) :
    Moves z (s.takePlacement m seqNo no outcome st) := by
  unfold State.takePlacement; split; split; exact h; refine Moves.upd ?_; exact h; split; apply State.stopRun_moves
  exact h; split; apply State.takePlace_moves; exact h; exact h

theorem State.giveStitch_moves {z s : State} {c e st} (h : Moves z s) : Moves z (s.giveStitch c e st) := by
  unfold State.giveStitch; dsimp only; apply State.takePlacement_moves; apply State.emit_moves; refine Moves.upd ?_
  exact h

theorem State.settleColl_moves {z s : State} {c} (h : Moves z s) : Moves z (s.settleColl c) := by
  unfold State.settleColl; split; exact h; apply State.giveStitch_moves; exact h; apply State.giveStitch_moves
  exact h

theorem State.settleColls_moves {z s : State} (h : Moves z s) : Moves z s.settleColls := by
  unfold State.settleColls; refine Moves.foldl ?_ ?_; intro s1 a2 h3; apply State.settleColl_moves; exact h3; exact h

theorem State.markReady_moves {z s : State} (h : Moves z s) : Moves z s.markReady := by
  unfold State.markReady; refine Moves.foldl ?_ ?_; intro s1 a2 h3; split; apply State.emit_moves; refine Moves.upd ?_
  exact h3; exact h3; exact h

theorem State.mailboxIrq_moves {z s : State} (h : Moves z s) : Moves z s.mailboxIrq := by
  unfold State.mailboxIrq; split; apply State.msix_moves; refine Moves.upd ?_; exact h; exact h

theorem State.finishResets_moves {z s : State} (h : Moves z s) : Moves z s.finishResets := by
  unfold State.finishResets; refine Moves.foldl ?_ ?_; intro s1 B2 h3; split; split; apply State.mbxDone_moves
  apply State.endGroups_moves; apply State.tearSleeve_moves; exact h3; apply State.mbxDone_moves
  apply State.updSleeve_moves; exact h3; intro B4 w5; exact w5; exact h3; exact h

theorem execHostWriteGo_moves {z s : State} (h : Moves z s) : Ends z (execHostWriteGo s) := by
  unfold execHostWriteGo; apply Ends.next; apply State.finishResets_moves; apply State.releaseInv_moves
  apply State.answer_moves; exact h

theorem State.freeSlot_moves {z s : State} {n} (h : Moves z s) : Moves z (s.freeSlot n) := by
  unfold State.freeSlot; dsimp only; split; apply State.updSlot_moves; exact h; intro B1 w2; exact Memory.wf_nil
  refine Moves.upd ?_; apply State.updSlot_moves; exact h; intro B3 w4; exact Memory.wf_nil

theorem State.retireSlots_moves {z s : State} (h : Moves z s) : Moves z (State.retireSlots s) := by
  have h1 : Moves z ((List.range 4).foldl (fun (s : State) n => if (s.slot n).state = .retiring then s.freeSlot n else s) s) :=
    Moves.foldl (fun _ _ h => Moves.ite (State.freeSlot_moves h) h) h
  unfold State.retireSlots
  dsimp only
  generalize List.foldl _ s _ = s1 at h1
  have h2 : Moves z (s1.bases.pendingRetire.foldl (fun (s : State) h => match s.slotOf h with
      | some n => s.updSlot n fun q => { q with state := .retiring, mem := [], layers := [], got := [], refetch := [], lost := [] }
      | none => s) s1) := by
    refine Moves.foldl (fun s x h => ?_) h1
    split
    · exact State.updSlot_moves h fun _ _ => Memory.wf_nil
    · exact h
  generalize List.foldl _ s1 _ = s2 at h2
  exact Moves.upd h2

theorem State.dropColls_moves {z s : State} (h : Moves z s) : Moves z s.dropColls := by
  unfold State.dropColls; dsimp only; refine Moves.upd ?_; exact h

theorem State.againColl_moves {z s : State} {a} (h : Moves z s) : Moves z (s.againColl a) := by
  unfold State.againColl; dsimp only; apply State.giveStitch_moves; refine Moves.upd ?_; exact h

theorem State.againColls_moves {z s : State} (h : Moves z s) : Moves z s.againColls := by
  unfold State.againColls; dsimp only; refine Moves.foldl ?_ ?_; intro s1 a2 h3; apply State.againColl_moves; exact h3
  refine Moves.upd ?_; exact h

theorem State.commitSwitches_moves {z s : State} (h : Moves z s) : Moves z s.commitSwitches := by
  unfold State.commitSwitches; dsimp only; refine Moves.upd ?_; exact h

theorem State.tearHem_moves {z s : State} (h : Moves z s) : Moves z s.tearHem := by
  unfold State.tearHem; split; apply State.tearAll_moves; exact h; exact h

theorem State.mirrorHem_moves {z s : State} (h : Moves z s) : Moves z s.mirrorHem := by
  unfold State.mirrorHem; split; apply State.emit_moves; exact h; exact h

theorem State.supplyTrigger_moves {z s : State} (h : Moves z s) : Moves z s.supplyTrigger := by
  unfold State.supplyTrigger; split; apply State.errorTrigger_moves; refine Moves.upd ?_; exact h; exact h

theorem State.tellLatency_moves {z s : State} (h : Moves z s) : Moves z s.tellLatency := by
  unfold State.tellLatency; dsimp only; refine Moves.upd ?_; refine Moves.foldl ?_ ?_; intro s1 a2 h3; split; exact h3
  apply State.emit_moves; exact h3; exact h

theorem State.checkHold_moves {z s : State} (h : Moves z s) : Moves z s.checkHold := by
  unfold State.checkHold; split; apply State.hostReset_moves; exact h; exact h

theorem State.hem_moves {z s : State} (h : Moves z s) : Moves z s.hem := by
  unfold State.hem; dsimp only; apply State.checkHold_moves; apply State.mailboxIrq_moves
  apply State.finishResets_moves; apply State.pump_moves; apply State.planStitch_moves
  apply State.supplyTrigger_moves; split; apply State.tellLatency_moves; apply State.mirrorHem_moves
  apply State.dropAdrift_moves; apply State.markReady_moves; apply State.retireSlots_moves
  apply State.commitSwitches_moves; apply State.settleColls_moves; apply State.againColls_moves
  apply State.dropColls_moves; apply State.deviceSide_moves; apply State.tearHem_moves; apply State.updBolts_moves
  refine Moves.upd ?_; exact h; intro a1 B2 w3; exact w3; apply State.mirrorHem_moves; apply State.dropAdrift_moves
  apply State.markReady_moves; apply State.retireSlots_moves; apply State.commitSwitches_moves
  apply State.settleColls_moves; apply State.againColls_moves; apply State.dropColls_moves
  apply State.deviceSide_moves; apply State.tearHem_moves; apply State.updBolts_moves; refine Moves.upd ?_; exact h
  intro a4 B5 w6; exact w6

theorem execHemStart_moves {z s : State} (h : Moves z s) : Ends z (execHemStart s) := by
  unfold execHemStart; apply Ends.next; split; apply State.hem_moves; exact h; exact h

theorem execHostWriteGoErr_moves {z s : State} (h : Moves z s) : Ends z (execHostWriteGoErr s) := by
  unfold execHostWriteGoErr; apply Ends.next; apply State.finishResets_moves; apply State.releaseInv_moves
  apply State.answer_moves; exact h

/-! ### Edge -/

theorem State.stepDown_moves {z s : State} {manager} (h : Moves z s) : Moves z (s.stepDown manager) := by
  unfold State.stepDown; refine Moves.upd ?_; exact h

theorem State.sendEdge_moves {z s : State} {k} (h : Moves z s) : Moves z (s.sendEdge k) := by
  unfold State.sendEdge; split; exact h; apply State.emit_moves; exact h

theorem State.takeOver_moves {z s : State} (h : Moves z s) : Moves z s.takeOver := by
  unfold State.takeOver; dsimp only; apply State.event_moves; apply State.dueShift_moves; apply State.sendPlan_moves
  refine Moves.upd ?_; exact h

theorem State.roleEdge_moves {z s : State} (h : Moves z s) : Moves z s.roleEdge := by
  unfold State.roleEdge; split; exact h; dsimp only; split; split; apply State.takeOver_moves; refine Moves.upd ?_
  exact h; refine Moves.upd ?_; exact h; split; refine Moves.upd ?_; apply State.stepDown_moves; refine Moves.upd ?_
  exact h; refine Moves.upd ?_; exact h

theorem State.collsEdge_moves {z s : State} {k} (h : Moves z s) : Moves z (s.collsEdge k) := by
  unfold State.collsEdge; refine Moves.upd ?_; exact h

theorem State.shiftEdge_moves {z s : State} {received} (h : Moves z s) : Moves z (s.shiftEdge received) := by
  unfold State.shiftEdge; dsimp only; split; refine Moves.upd ?_; exact h; refine Moves.upd ?_
  apply State.shiftRuns_moves; refine Moves.upd ?_; exact h

theorem Bolt.atEdge_wf {b key short} (w : Bolt.Wf b) : Bolt.Wf (Bolt.atEdge b key short) := by
  unfold Bolt.atEdge; exact w

theorem State.boltEdge_moves {z s : State} {bno} (h : Moves z s) : Moves z (s.boltEdge bno) := by
  unfold State.boltEdge; dsimp only; apply State.updBolt_moves; apply State.fresh_moves; exact h; intro B1 w2
  apply Bolt.atEdge_wf; exact w2

theorem State.recoverEdge_moves {z s : State} (h : Moves z s) : Moves z s.recoverEdge := by
  unfold State.recoverEdge; dsimp only; refine Moves.foldl ?_ ?_; intro s1 a2 h3; apply State.emit_moves; exact h3
  refine Moves.upd ?_; split; split; split; refine Moves.upd ?_; refine Moves.upd ?_; exact h; refine Moves.upd ?_
  exact h; split; refine Moves.upd ?_; exact h; exact h; split; refine Moves.upd ?_; exact h; exact h

theorem State.resendMsg_moves {z s : State} {o} (h : Moves z s) : Moves z (s.resendMsg o) := by
  unfold State.resendMsg; split; dsimp only; refine Moves.foldl ?_ ?_; intro s1 a2 h3; apply State.sendSegment_moves
  exact h3; apply State.emit_moves; exact h; apply State.emit_moves; exact h

theorem State.resendEdge_moves {z s : State} (h : Moves z s) : Moves z s.resendEdge := by
  unfold State.resendEdge; split; exact h; refine Moves.foldl ?_ ?_; intro s1 a2 h3; apply State.resendMsg_moves
  exact h3; refine Moves.upd ?_; exact h

theorem State.wakePorts_moves {z s : State} {rested} (h : Moves z s) : Moves z (s.wakePorts rested) := by
  unfold State.wakePorts; split; refine Moves.foldl ?_ ?_; intro s1 a2 h3; apply State.drain_moves; exact h3; exact h
  exact h

theorem State.powerEdge_moves {z s : State} (h : Moves z s) : Moves z (State.powerEdge s) :=
  Moves.foldl (fun _ _ h => State.setBolt_moves h fun _ i => State.gateOf_wf i) (Moves.upd h)

theorem State.slotsEdge_moves {z s : State} (h : Moves z s) : Moves z s.slotsEdge := by
  unfold State.slotsEdge; refine Moves.foldl ?_ ?_; intro s1 a2 h3; dsimp only; split; apply State.updSlot_moves
  exact h3; intro B4 w5; exact w5; exact h3; exact h

theorem State.raisePort_moves {z s : State} {n} (h : Moves z s) : Moves z (s.raisePort n) := by
  unfold State.raisePort; apply State.event_moves; apply State.updPort_moves; exact h

theorem State.portsEdge_moves {z s : State} (h : Moves z s) : Moves z s.portsEdge := by
  unfold State.portsEdge; dsimp only; refine Moves.upd ?_; refine Moves.foldl ?_ ?_; intro s1 a2 h3; split
  apply State.updPort_moves; exact h3; exact h3; split; split; split; apply State.sendPlan_moves
  refine Moves.foldl ?_ ?_; intro s4 a5 h6; apply State.raisePort_moves; exact h6; exact h; refine Moves.foldl ?_ ?_
  intro s7 a8 h9; apply State.raisePort_moves; exact h9; exact h; split; apply State.sendPlan_moves
  refine Moves.foldl ?_ ?_; intro s10 a11 h12; apply State.raisePort_moves; exact h12
  refine Moves.upd ?_ (free_ := ?_); exact h; exact Nat.le_succ _; refine Moves.foldl ?_ ?_; intro s13 a14 h15
  apply State.raisePort_moves; exact h15; refine Moves.upd ?_ (free_ := ?_); exact h; exact Nat.le_succ _; split
  split; apply State.sendPlan_moves; refine Moves.upd ?_; refine Moves.foldl ?_ ?_; intro s16 a17 h18
  apply State.raisePort_moves; exact h18; exact h; refine Moves.upd ?_; refine Moves.foldl ?_ ?_; intro s19 a20 h21
  apply State.raisePort_moves; exact h21; exact h; split; apply State.sendPlan_moves; refine Moves.upd ?_
  refine Moves.foldl ?_ ?_; intro s22 a23 h24; apply State.raisePort_moves; exact h24
  refine Moves.upd ?_ (free_ := ?_); exact h; exact Nat.le_succ _; refine Moves.upd ?_; refine Moves.foldl ?_ ?_
  intro s25 a26 h27; apply State.raisePort_moves; exact h27; refine Moves.upd ?_ (free_ := ?_); exact h
  exact Nat.le_succ _

theorem State.startStitch_moves {z s : State} {k} (h : Moves z s) : Moves z (s.startStitch k) := by
  unfold State.startStitch; dsimp only; refine Moves.foldl ?_ ?_; intro s1 a2 h3; apply State.beginNext_moves
  exact h3; apply State.placeWaiters_moves; apply State.resendEdge_moves; apply State.wakePorts_moves
  apply State.powerEdge_moves; apply State.slotsEdge_moves; apply State.portsEdge_moves; refine Moves.foldl ?_ ?_
  intro s4 a5 h6; apply State.boltEdge_moves; exact h6; apply State.recoverEdge_moves; apply State.collsEdge_moves
  apply State.shiftEdge_moves; exact h

theorem State.clockEdge_moves {z s : State} {n} (h : Moves z s) : Moves z (State.clockEdge s n) := by
  have h1 : ∀ t : Time, t.len = s.time.lenNext.getD s.time.len → t.lenNext = none → t.log = [] → ∀ (vs : List Sleeve),
      (s.Inv → ∀ v ∈ vs, Sleeve.Wf v) → ∀ d p, Moves z { s with
        time := t, sleeves := vs, admHeaders := 0, domain := d, power := p } :=
    fun t e1 e2 e3 vs hv d p => Moves.upd h (sleeves_ := hv)
      (len_ := fun i => e1 ▸ Time.nextLen_lt i) (next_ := fun _ c e => by rw [e2] at e; cases e)
      (log_ := fun _ p hp => by rw [e3] at hp; cases hp)
  have hv : s.Inv → ∀ v ∈ s.sleeves.map fun (v : Sleeve) => { v with headers := 0 }, Sleeve.Wf v :=
    fun i => Sleeve.wf_map i.sleeveMem fun _ w => w
  unfold State.clockEdge
  dsimp only
  split
  · exact h1 _ rfl rfl rfl _ hv _ _
  · exact h1 _ rfl rfl rfl _ hv _ _

theorem State.closeRecords_moves {z s : State} (h : Moves z s) : Moves z s.closeRecords := by
  unfold State.closeRecords; dsimp only; refine Moves.upd ?_; apply State.fresh_moves; exact h

theorem State.edge_moves {z s : State} {n k} (h : Moves z s) : Moves z (s.edge n k) := by
  unfold State.edge; apply State.startStitch_moves; apply State.clockEdge_moves; apply State.closeRecords_moves
  exact h

theorem State.passEdge_moves {z s : State} {n received} (h : Moves z s) : Moves z (s.passEdge n received) := by
  unfold State.passEdge; dsimp only; apply State.sendEdge_moves; apply State.roleEdge_moves; apply State.edge_moves
  split; refine Moves.upd ?_; exact h; exact h

theorem execStitchEdge_moves {z s : State} (h : Moves z s) : Ends z (execStitchEdge s) := by
  unfold execStitchEdge; apply Ends.next; split; apply State.passEdge_moves; exact h; exact h

/-! ### HostLink -/

theorem State.tauNow_moves {z s : State} (h : Moves z s) : Moves z s.tauNow.2 := by
  unfold State.tauNow; dsimp only; apply State.fresh_moves; exact h

theorem State.placeReady_moves {z s : State} (h : Moves z s) : Moves z s.placeReady := by
  unfold State.placeReady; dsimp only; apply State.placeWaiters_moves; apply State.tauNow_moves; exact h

theorem State.dropStopped_moves {z s : State} (h : Moves z s) : Moves z s.dropStopped := by
  unfold State.dropStopped; dsimp only; refine Moves.upd ?_; exact h

theorem State.grantGroup_moves {z s : State} {g} (h : Moves z s) : Moves z (s.grantGroup g) := by
  unfold State.grantGroup; dsimp only; apply State.placeReady_moves; apply State.sendGroups_moves
  apply State.dropStopped_moves; refine Moves.foldl ?_ ?_; intro s1 a2 h3; apply State.emit_moves; exact h3
  refine Moves.upd ?_; exact h

theorem State.dropGroups_moves {z s : State} {run} (h : Moves z s) : Moves z (s.dropGroups run) := by
  unfold State.dropGroups; refine Moves.upd ?_; exact h

theorem State.failGroup_moves {z s : State} {g} (h : Moves z s) : Moves z (s.failGroup g) := by
  unfold State.failGroup; dsimp only; apply State.sendGroups_moves; split; refine Moves.upd ?_; exact h
  apply State.stopRun_moves; apply State.dropGroups_moves; refine Moves.upd ?_; exact h

theorem execPageRequestResponse_moves {z s : State} {group success} (h : Moves z s) :
    Ends z (execPageRequestResponse group success s) := by
  unfold execPageRequestResponse; apply Ends.next; split; exact h; split; apply State.grantGroup_moves; exact h
  apply State.failGroup_moves; exact h

theorem execConventionalHostReset_moves {z s : State} {cause} (h : Moves z s) :
    Ends z (execConventionalHostReset cause s) := by
  unfold execConventionalHostReset; apply Ends.next; apply State.hostReset_moves; exact h

theorem execAtsInvalidation_moves {z s : State} {pasid page size} (h : Moves z s) :
    Ends z (execAtsInvalidation pasid page size s) := by
  unfold execAtsInvalidation; dsimp only; apply Ends.next; split; refine Moves.upd ?_; exact h; apply State.emit_moves
  refine Moves.upd ?_; exact h

theorem execD3hotEnter_moves {z s : State} (h : Moves z s) : Ends z (execD3hotEnter s) := by
  unfold execD3hotEnter; apply Ends.next; refine Moves.upd ?_; exact h

theorem execTeardownDone_moves {z s : State} (h : Moves z s) : Ends z (execTeardownDone s) := by
  unfold execTeardownDone; apply Ends.next; split; apply State.event_moves; refine Moves.upd ?_; exact h; exact h

theorem State.resumeHost_moves {z s : State} (h : Moves z s) : Moves z s.resumeHost := by
  unfold State.resumeHost; apply State.finishResets_moves; apply State.pump_moves; apply State.flushMsix_moves
  exact h

theorem State.reissue_moves {z s : State} (h : Moves z s) : Moves z s.reissue := by
  unfold State.reissue; refine Moves.foldl ?_ ?_; intro s1 a2 h3; apply State.emit_moves; exact h3
  refine Moves.upd ?_; exact h

theorem execLinkL0Return_moves {z s : State} {width rate} (h : Moves z s) :
    Ends z (execLinkL0Return width rate s) := by
  unfold execLinkL0Return; apply Ends.next; split; apply State.resumeHost_moves; apply State.reissue_moves
  refine Moves.upd ?_; exact h; exact h

theorem execLinkRecoveryEnter_moves {z s : State} (h : Moves z s) : Ends z (execLinkRecoveryEnter s) := by
  unfold execLinkRecoveryEnter; apply Ends.next; split; refine Moves.upd ?_; exact h; exact h

theorem State.pageAbsent_moves {z s : State} {pasid page size} (h : Moves z s) :
    Moves z (s.pageAbsent pasid page size) := by
  unfold State.pageAbsent; dsimp only; apply State.sendGroups_moves; apply State.dropStopped_moves
  refine Moves.upd ?_; exact h

theorem execD0Return_moves {z s : State} (h : Moves z s) : Ends z (execD0Return s) := by
  unfold execD0Return; apply Ends.next; split; apply State.resumeHost_moves; refine Moves.upd ?_; exact h; exact h

theorem execCqHeadPoll_moves {z s : State} {o cq head} (h : Moves z s) : Ends z (execCqHeadPoll o cq head s) := by
  unfold execCqHeadPoll; apply Ends.next; split; exact h; dsimp only; split; split; apply State.updCq_moves
  apply State.emit_moves; exact h; apply State.event_moves; apply State.updCq_moves; apply State.emit_moves; exact h
  apply State.finishResets_moves; apply State.pump_moves; apply State.updCq_moves; apply State.emit_moves; exact h

theorem execSnoop_moves {z s : State} {kind line} (h : Moves z s) : Ends z (execSnoop kind line s) := by
  unfold execSnoop; apply Ends.next; split; exact h; split; split; apply State.emit_moves; refine Moves.upd ?_
  exact h; apply State.emit_moves; exact h; apply State.emit_moves; exact h; apply State.emit_moves; exact h

theorem State.translated_moves {z s : State} {e} (h : Moves z s) : Moves z (s.translated e) := by
  unfold State.translated; dsimp only; refine Moves.upd ?_; exact h

theorem execPageRequestTimeout_moves {z s : State} {group} (h : Moves z s) :
    Ends z (execPageRequestTimeout group s) := by
  unfold execPageRequestTimeout; apply Ends.next; split; exact h; apply State.failGroup_moves; exact h

theorem execAtsTranslationCompletion_moves {z s : State} {pasid page size r x5 phys} (h : Moves z s) :
    Ends z (execAtsTranslationCompletion pasid page size r x5 phys s) := by
  unfold execAtsTranslationCompletion; apply Ends.next; split; dsimp only; split; apply State.translated_moves
  exact h; apply State.placeReady_moves; apply State.sendGroups_moves; apply State.dropStopped_moves
  apply State.translated_moves; exact h; apply State.pageAbsent_moves; exact h

end Sys2Proof.Machine
end

