-- ==== Sys2Proof/Laws/MovesDomain.lean ====
section
/-! SUPPORT. The seam, the domain, base images, bring-up, power and the signed operations: what each keeps (`Moves`, `Ends`, `Wf`),
one lemma a definition, for the statements over every command. -/
namespace Sys2Proof.Machine
open Sys2Proof

/- One proof after another: the many short proofs here would else each take a thread of their own. -/
set_option Elab.async false


/-! ### Seam -/

theorem State.reportLoss_moves {z s : State} {port} (h : Moves z s) : Moves z (s.reportLoss port) := by
  unfold State.reportLoss; split; apply State.emit_moves; exact h; exact h

theorem State.markResend_moves {z s : State} (h : Moves z s) : Moves z s.markResend := by
  unfold State.markResend; dsimp only; refine Moves.upd ?_; apply State.fresh_moves; exact h

theorem State.replan_moves {z s : State} {node port} (h : Moves z s) : Moves z (s.replan node port) := by
  unfold State.replan; dsimp only; split; apply State.sendNextPlan_moves; apply State.planAnew_moves
  refine Moves.upd ?_; exact h; apply State.planAnew_moves; refine Moves.upd ?_; exact h

theorem State.abortOver_moves {z s : State} {node port} (h : Moves z s) : Moves z (s.abortOver node port) := by
  unfold State.abortOver; dsimp only; refine Moves.foldl ?_ ?_; intro s1 a2 h3; apply State.decide__moves; exact h3
  refine Moves.upd ?_; exact h

theorem State.loseLink_moves {z s : State} {port cause} (h : Moves z s) : Moves z (s.loseLink port cause) := by
  unfold State.loseLink; dsimp only; split; apply State.markResend_moves; apply State.replan_moves
  apply State.abortOver_moves; apply State.reportLoss_moves; apply State.errorTrigger_moves; apply State.event_moves
  apply State.updPort_moves; exact h; apply State.reportLoss_moves; apply State.errorTrigger_moves
  apply State.event_moves; apply State.updPort_moves; exact h

theorem execPortDown_moves {z s : State} {port cause} (h : Moves z s) : Ends z (execPortDown port cause s) := by
  unfold execPortDown; apply Ends.next; split; exact h; split; apply State.updPort_moves; exact h; exact h
  apply State.updPort_moves; exact h; apply State.loseLink_moves; exact h

theorem State.flitRow_moves {z s : State} {port kind f k} (h : Moves z s) (hk : ∀ s, Moves z s → Moves z (k s)) :
    Moves z (State.flitRow s port kind f k) := by
  unfold State.flitRow
  dsimp only
  split
  · exact h
  · split
    · exact State.emit_moves (State.updPort_moves h)
    · split
      · exact State.updPort_moves h
      · exact State.drain_moves (hk _ (State.updPort_moves (State.updPort_moves h)))

theorem execFlitIdle_moves {z s : State} {port flit} (h : Moves z s) : Ends z (execFlitIdle port flit s) :=
  Ends.next (State.flitRow_moves h fun _ h => h)

theorem State.train_moves {z s : State} {p} (h : Moves z s) : Moves z (s.train p) := by
  unfold State.train; apply State.updPort_moves; exact h

theorem execOpticalEngineBelowRetrainLimit_moves {z s : State} {bay} (h : Moves z s) :
    Ends z (execOpticalEngineBelowRetrainLimit bay s) := by
  unfold execOpticalEngineBelowRetrainLimit; apply Ends.next; split; dsimp only; refine Moves.foldl ?_ ?_
  intro s1 a2 h3; split; apply State.train_moves; exact h3; exact h3; refine Moves.upd ?_; exact h; exact h

theorem execPortTrainingRetry_moves {z s : State} {port} (h : Moves z s) : Ends z (execPortTrainingRetry port s) := by
  unfold execPortTrainingRetry; apply Ends.next; split; apply State.train_moves; exact h; exact h

theorem State.endColl_moves {z s : State} {c st} (h : Moves z s) : Moves z (s.endColl c st) := by
  unfold State.endColl; dsimp only; apply State.takePlacement_moves; apply State.emit_moves; refine Moves.upd ?_
  exact h

theorem State.endRef_moves {z s : State} {c st} (h : Moves z s) : Moves z (s.endRef c st) := by
  unfold State.endRef; split; apply State.haltRun_moves; exact h; exact h

theorem State.squashed_moves {z s : State} {c st} (h : Moves z s) : Moves z (s.squashed c st) := by
  unfold State.squashed; split; split; apply State.endColl_moves; exact h; split; apply State.endColl_moves; exact h
  apply State.endRef_moves; exact h; apply State.endRef_moves; exact h

theorem State.endAwaiting_moves {z s : State} {vc} (h : Moves z s) : Moves z (s.endAwaiting vc) := by
  unfold State.endAwaiting; split; exact h; split; exact h; dsimp only; split; apply State.squashed_moves
  apply State.haltRun_moves; exact h; apply State.emit_moves; apply State.haltRun_moves; exact h

theorem State.freeBuffer_moves {z s : State} {port g} (h : Moves z s) : Moves z (s.freeBuffer port g) := by
  unfold State.freeBuffer; dsimp only; split; apply State.updPort_moves; exact h; apply State.emit_moves
  apply State.updPort_moves; exact h

theorem State.takeSpanStore_moves {z s : State} {vc x} (h : Moves z s) : Moves z (s.takeSpanStore vc x) := by
  unfold State.takeSpanStore; split; exact h; split; exact h; dsimp only; split; exact h; apply State.updRun_moves
  exact h

theorem State.acceptCounter_moves {z s : State} {g} (h : Moves z s) : Moves z (s.acceptCounter g) := by
  unfold State.acceptCounter; dsimp only; refine Moves.upd ?_; exact h

theorem State.takeSegment_moves {z s : State} {g} (h : Moves z s) : Moves z (s.takeSegment g) := by
  unfold State.takeSegment; split; split; apply State.takeSpanStore_moves; apply State.acceptCounter_moves; exact h
  apply State.acceptCounter_moves; exact h; apply State.acceptCounter_moves; exact h

theorem execSegmentReceive_moves {z s : State} {port seg tagOk} (h : Moves z s) :
    Ends z (execSegmentReceive port seg tagOk s) := by
  unfold execSegmentReceive; apply Ends.next; split; exact h; dsimp only; split; apply State.sendSegment_moves
  apply State.freeBuffer_moves; exact h; split; apply State.freeBuffer_moves; exact h; apply State.updPort_moves
  apply State.freeBuffer_moves; exact h; split; apply State.takeSegment_moves; apply State.freeBuffer_moves; exact h
  apply State.endAwaiting_moves; apply State.security_moves; apply State.updPort_moves; apply State.freeBuffer_moves
  exact h

theorem State.replay_moves {z s : State} {port} (h : Moves z s) : Moves z (s.replay port) := by
  unfold State.replay; dsimp only; split; exact h; split; apply State.loseLink_moves; exact h; apply State.emit_moves
  apply State.updPort_moves; exact h

theorem execFlitData_moves {z s : State} {port header payload crc fec} (h : Moves z s) :
    Ends z (execFlitData port header payload crc fec s) := by
  unfold execFlitData; apply Ends.next; apply State.flitRow_moves; exact h; intro s1 h2; dsimp only
  apply State.updPort_moves; exact h2

theorem execPortSignalDetect_moves {z s : State} {port} (h : Moves z s) : Ends z (execPortSignalDetect port s) := by
  unfold execPortSignalDetect; dsimp only; apply Ends.next; split; split; apply State.train_moves
  apply State.updPort_moves; exact h; apply State.updPort_moves; exact h; split; apply State.train_moves; exact h
  exact h

theorem State.trainFailed_moves {z s : State} {p} (h : Moves z s) : Moves z (s.trainFailed p) := by
  unfold State.trainFailed; apply State.updPort_moves; exact h

theorem execPortTrainingComplete_moves {z s : State} {port res} (h : Moves z s) :
    Ends z (execPortTrainingComplete port res s) := by
  unfold execPortTrainingComplete; apply Ends.next; split; exact h; split; apply State.trainFailed_moves; exact h
  split; apply State.trainFailed_moves; exact h; split; apply State.security_moves; apply State.trainFailed_moves
  exact h; split; apply State.security_moves; apply State.trainFailed_moves; exact h; split
  apply State.security_moves; apply State.trainFailed_moves; exact h; apply State.updPort_moves; exact h

theorem execFlitLink_moves {z s : State} {port flit credits nak} (h : Moves z s) :
    Ends z (execFlitLink port flit credits nak s) := by
  unfold execFlitLink; apply Ends.next; apply State.flitRow_moves; exact h; intro s1 h2; dsimp only; split
  apply State.replay_moves; apply State.updPort_moves; exact h2; apply State.updPort_moves; exact h2

/-! ### Ticks -/

theorem execAdrift_moves {z s : State} (h : Moves z s) : Ends z (execAdrift s) := by
  unfold execAdrift; apply Ends.next; split; dsimp only; apply State.event_moves; refine Moves.foldl ?_ ?_
  intro s1 a2 h3; split; apply State.updSlot_moves; exact h3; intro B4 w5; exact w5; exact h3; refine Moves.upd ?_
  exact h; exact h

theorem State.enterHoldover_moves {z s : State} (h : Moves z s) : Moves z s.enterHoldover := by
  unfold State.enterHoldover; split; apply State.event_moves; refine Moves.upd ?_; exact h; exact h

theorem execEdgeMissed_moves {z s : State} (h : Moves z s) : Ends z (execEdgeMissed s) := by
  unfold execEdgeMissed; apply Ends.next; split; apply State.enterHoldover_moves; refine Moves.upd ?_; exact h
  exact h

theorem State.relock_moves {z s : State} (h : Moves z s) : Moves z s.relock := by
  unfold State.relock; dsimp only; split; apply State.event_moves; refine Moves.upd ?_; exact h; refine Moves.upd ?_
  exact h

theorem execTickWordCorrupted_moves {z s : State} {port} (h : Moves z s) : Ends z (execTickWordCorrupted port s) := by
  unfold execTickWordCorrupted; apply Ends.next; split; apply State.updPort_moves; exact h; exact h

theorem State.correct_moves {z s : State} {port err} (h : Moves z s) : Moves z (s.correct port err) := by
  unfold State.correct; dsimp only; refine Moves.upd ?_; apply State.updPort_moves; exact h

theorem State.tickLock_moves {z s : State} {port x3} (h : Moves z s) : Moves z (s.tickLock port x3) := by
  unfold State.tickLock; dsimp only; apply State.sendEdge_moves; apply State.startStitch_moves
  refine Moves.upd ?_ (len_ := ?_); apply State.correct_moves; exact h; intro i1; exact Nat.mod_lt _ (by decide)

theorem State.drawSlack_moves {z s : State} {err} (h : Moves z s) : Moves z (s.drawSlack err) := by
  unfold State.drawSlack; refine Moves.upd ?_; exact h

theorem execTriggerWord_moves {z s : State} {word} (h : Moves z s) : Ends z (execTriggerWord word s) := by
  unfold execTriggerWord; dsimp only; apply Ends.next; split; exact h; split; apply State.emit_moves; exact h; split
  refine Moves.upd ?_; apply State.emit_moves; exact h; apply State.armSnap_moves; apply State.emit_moves; exact h

theorem State.newEpoch_moves {z s : State} {port e} (h : Moves z s) : Moves z (s.newEpoch port e) := by
  unfold State.newEpoch; dsimp only; apply State.event_moves; split; refine Moves.upd ?_; split
  apply State.stepDown_moves; exact h; exact h; apply State.enterHoldover_moves; refine Moves.upd ?_; split
  apply State.stepDown_moves; exact h; exact h

theorem edgeLen_lt {w : BitVec 56} : edgeLen w < 4 := Nat.mod_lt _ (by decide)


theorem State.takeEdge_moves {z s : State} {w} (h : Moves z s) : Moves z (State.takeEdge s w) := by
  have h1 : Moves z { s with time := { s.time with
      lenNext := if edgeLen w = s.time.len then s.time.lenNext else some (edgeLen w) } } := by
    refine Moves.upd h (next_ := fun i c e => ?_)
    dsimp only at e
    split at e
    · exact i.nextLength c e
    · injection e with e
      rw [← e]
      exact edgeLen_lt
  exact State.passEdge_moves (Moves.upd h1)

theorem State.reload_moves {z s : State} {w} (h : Moves z s) : Moves z (State.reload s w) := by
  have h1 : ∀ d v, Moves z { s with time := { s.time with lenNext := some (edgeLen w) }, domain := d, dev := v } :=
    fun _ _ => Moves.upd h (next_ := fun _ c e => by
      injection e with e
      rw [← e]
      exact edgeLen_lt)
  exact State.passEdge_moves (State.relock_moves (h1 _ _))

theorem State.adriftEdge_moves {z s : State} {port x3 err} (h : Moves z s) : Moves z (s.adriftEdge port x3 err) := by
  unfold State.adriftEdge; split; dsimp only; apply State.drawSlack_moves; apply State.takeEdge_moves; split
  apply State.relock_moves; refine Moves.upd ?_; apply State.correct_moves; exact h; refine Moves.upd ?_
  apply State.correct_moves; exact h; split; refine Moves.upd ?_; exact h; apply State.reload_moves
  apply State.correct_moves; exact h

theorem State.edgeFromParent_moves {z s : State} {port x3 err} (h : Moves z s) :
    Moves z (s.edgeFromParent port x3 err) := by
  unfold State.edgeFromParent; split; apply State.tickLock_moves; exact h; split; exact h; split
  apply State.adriftEdge_moves; exact h; split; apply State.drawSlack_moves; apply State.takeEdge_moves
  apply State.relock_moves; apply State.correct_moves; exact h; exact h

theorem State.relayDown_moves {z s : State} {x2} (h : Moves z s) : Moves z (s.relayDown x2) := by
  unfold State.relayDown; apply State.emit_moves; exact h

theorem State.decision_moves {z s : State} {x2 release} (h : Moves z s) : Moves z (s.decision x2 release) := by
  unfold State.decision; split; exact h; split; split; apply State.decide__moves; exact h; exact h
  apply State.takeDecision_moves; apply State.relayDown_moves; exact h

theorem execDecideRelease_moves {z s : State} {word} (h : Moves z s) : Ends z (execDecideRelease word s) := by
  unfold execDecideRelease; apply Ends.next; split; apply State.decision_moves; exact h; exact h

theorem execDecideAbort_moves {z s : State} {word} (h : Moves z s) : Ends z (execDecideAbort word s) := by
  unfold execDecideAbort; apply Ends.next; split; apply State.decision_moves; exact h; exact h

theorem execBarrierArrive_moves {z s : State} {port word} (h : Moves z s) :
    Ends z (execBarrierArrive port word s) := by
  unfold execBarrierArrive; apply Ends.next; split; apply State.countArrivals_moves; exact h; exact h

theorem execBarrierReleaseWord_moves {z s : State} {word} (h : Moves z s) :
    Ends z (execBarrierReleaseWord word s) := by
  unfold execBarrierReleaseWord; apply Ends.next; split; apply State.resumeColl_moves; apply State.relayDown_moves
  apply State.clearArrivals_moves; exact h; exact h

theorem execTickRttMeasure_moves {z s : State} {port rtt} (h : Moves z s) :
    Ends z (execTickRttMeasure port rtt s) := by
  unfold execTickRttMeasure; apply Ends.next; split; apply State.updPort_moves; exact h; exact h

theorem execEdgeWord_moves {z s : State} {port word phaseErr} (h : Moves z s) :
    Ends z (execEdgeWord port word phaseErr s) := by
  unfold execEdgeWord; apply Ends.next; split; exact h; dsimp only; split; exact h; split; split
  apply State.edgeFromParent_moves; apply State.newEpoch_moves; exact h; apply State.newEpoch_moves; exact h; split
  apply State.edgeFromParent_moves; exact h; exact h

theorem execSnapshotTimedTrigger_moves {z s : State} (h : Moves z s) : Ends z (execSnapshotTimedTrigger s) := by
  unfold execSnapshotTimedTrigger; dsimp only; apply Ends.next; split; exact h; split; apply State.trigger_moves
  refine Moves.upd ?_; exact h; refine Moves.upd ?_; exact h

/-! ### Members -/

theorem execLatencyRequirement_moves {z s : State} {us} (h : Moves z s) : Ends z (execLatencyRequirement us s) := by
  unfold execLatencyRequirement; apply Ends.next; split; refine Moves.upd ?_; exact h; exact h

theorem State.settleSoon_moves {z s : State} {m seqNo} (h : Moves z s) : Moves z (s.settleSoon m seqNo) := by
  unfold State.settleSoon; split; refine Moves.foldl ?_ ?_; intro s1 a2 h3; apply State.settleColl_moves; exact h3
  exact h; exact h

theorem execCollectiveCandidates_moves {z s : State} {node membership seqNo stitches arrivals} (h : Moves z s) :
    Ends z (execCollectiveCandidates node membership seqNo stitches arrivals s) := by
  unfold execCollectiveCandidates; apply Ends.next; split; apply State.settleSoon_moves; apply State.addList_moves
  exact h; exact h

theorem execPortLossReport_moves {z s : State} {node port} (h : Moves z s) :
    Ends z (execPortLossReport node port s) := by
  unfold execPortLossReport; apply Ends.next; split; apply State.replan_moves; apply State.abortOver_moves; exact h
  exact h

theorem execStitchLengthAnnounce_moves {z s : State} {stitch code} (h : Moves z s) :
    Ends z (execStitchLengthAnnounce stitch code s) := by
  unfold execStitchLengthAnnounce; apply Ends.next; split; refine Moves.upd ?_; exact h; exact h

theorem execCollectiveSquashNotice_moves {z s : State} {node coll} (h : Moves z s) :
    Ends z (execCollectiveSquashNotice node coll s) := by
  unfold execCollectiveSquashNotice; apply Ends.next; split; exact h; apply State.squashed_moves; exact h

theorem execBaseLoadReport_moves {z s : State} {node handle} (h : Moves z s) :
    Ends z (execBaseLoadReport node handle s) := by
  unfold execBaseLoadReport; apply Ends.next; split; refine Moves.upd ?_; exact h; exact h

theorem execTickParentAssign_moves {z s : State} {node} (h : Moves z s) : Ends z (execTickParentAssign node s) := by
  unfold execTickParentAssign; apply Ends.next; split; dsimp only; split; refine Moves.upd ?_; exact h
  apply State.enterHoldover_moves; refine Moves.upd ?_; exact h; exact h

theorem State.unfence_moves {z s : State} (h : Moves z s) : Moves z s.unfence := by
  unfold State.unfence; refine Moves.foldl ?_ ?_; intro s1 a2 h3; split; apply State.updPort_moves; exact h3; exact h3
  exact h

theorem State.takeRoster_moves {z s : State} {gen roster} (h : Moves z s) : Moves z (s.takeRoster gen roster) := by
  unfold State.takeRoster; apply State.unfence_moves; refine Moves.upd ?_; exact h

theorem execRosterUpdate_moves {z s : State} {gen roster} (h : Moves z s) :
    Ends z (execRosterUpdate gen roster s) := by
  unfold execRosterUpdate; apply Ends.next; split; apply State.takeRoster_moves; exact h; exact h

theorem execModuleJoinReport_moves {z s : State} {node} (h : Moves z s) : Ends z (execModuleJoinReport node s) := by
  unfold execModuleJoinReport; apply Ends.next; split; dsimp only; refine Moves.foldl ?_ ?_; intro s1 a2 h3
  apply State.emit_moves; exact h3; apply State.emit_moves; exact h; exact h

theorem execGroupBlockPresented_moves {z s : State} {node block} (h : Moves z s) :
    Ends z (execGroupBlockPresented node block s) := by
  unfold execGroupBlockPresented; apply Ends.next; split; split; apply State.emit_moves; exact h
  apply State.present_moves; exact h; exact h

theorem execCollectivePlacement_moves {z s : State} {membership seqNo coll outcome status} (h : Moves z s) :
    Ends z (execCollectivePlacement membership seqNo coll outcome status s) := by
  unfold execCollectivePlacement; apply Ends.next; split; apply State.takePlacement_moves; exact h; exact h

theorem execUnravelReport_moves {z s : State} {node} (h : Moves z s) : Ends z (execUnravelReport node s) := by
  unfold execUnravelReport; apply Ends.next; split; apply State.orderShift_moves; exact h; exact h

theorem execManagerTakeover_moves {z s : State} (h : Moves z s) : Ends z (execManagerTakeover s) := by
  unfold execManagerTakeover; apply Ends.next; split; apply State.takeOver_moves; exact h; exact h

theorem execLeaveAck_moves {z s : State} (h : Moves z s) : Ends z (execLeaveAck s) := by
  unfold execLeaveAck; apply Ends.next; split; refine Moves.upd ?_; exact h; exact h

theorem execStandbyMirror_moves {z s : State} {mirror} (h : Moves z s) : Ends z (execStandbyMirror mirror s) := by
  unfold execStandbyMirror; apply Ends.next; split; apply State.emit_moves; refine Moves.upd ?_; exact h; exact h

theorem execArrivalMismatchReport_moves {z s : State} {node coll} (h : Moves z s) :
    Ends z (execArrivalMismatchReport node coll s) := by
  unfold execArrivalMismatchReport; apply Ends.next; split; apply State.decide__moves; exact h; exact h

theorem State.takeKey_moves {z s : State} {handle kind material} (h : Moves z s) :
    Moves z (s.takeKey handle kind material) := by
  unfold State.takeKey; dsimp only; refine Moves.upd ?_; exact h

theorem execKeyDelivery_moves {z s : State} {handle kind material} (h : Moves z s) :
    Ends z (execKeyDelivery handle kind material s) := by
  unfold execKeyDelivery; apply Ends.next; split; exact h; split; apply State.takeKey_moves; exact h; split
  refine Moves.upd ?_; exact h; exact h

theorem execLeaveNotice_moves {z s : State} {node} (h : Moves z s) : Ends z (execLeaveNotice node s) := by
  unfold execLeaveNotice; apply Ends.next; split; dsimp only; apply State.emit_moves; apply State.dropMember_moves
  refine Moves.foldl ?_ ?_; intro s1 a2 h3; apply State.endColl_moves; exact h3; exact h; exact h

/-! ### BaseImages -/

theorem State.mgmtReply_moves {z s : State} {ok data} (h : Moves z s) : Moves z (s.mgmtReply ok data) := by
  unfold State.mgmtReply; apply State.emit_moves; exact h

theorem State.mgmt_moves {z s : State} {m rom k} (h : Moves z s) (hk : ∀ s, Moves z s → Moves z (k s)) :
    Moves z (State.mgmt s m rom k) := by
  unfold State.mgmt
  split
  · exact h
  · split
    · exact State.mgmtReply_moves h
    · exact hk _ (Moves.upd h)

theorem State.domainOp_moves {z s : State} {m k} (h : Moves z s) (hk : ∀ s, Moves z s → Moves z (k s).1) :
    Moves z (State.domainOp s m k) := by
  unfold State.domainOp
  split
  · exact State.mgmt_moves h fun s h => State.mgmtReply_moves (hk s h)
  · split
    · exact hk s h
    · exact State.mgmt_moves h fun s h => State.mgmtReply_moves h

theorem execBaseSwitch_moves {z s : State} {m name handle stitch} (h : Moves z s) :
    Ends z (execBaseSwitch m name handle stitch s) := by
  unfold execBaseSwitch; apply Ends.next; apply State.domainOp_moves; exact h; intro s1 h2; split; split; dsimp only
  apply State.emit_moves; refine Moves.upd ?_; exact h2; exact h2; split; dsimp only; refine Moves.upd ?_; exact h2
  exact h2

theorem State.forwardChunk_moves {z s : State} {slot index} (h : Moves z s) : Moves z (s.forwardChunk slot index) := by
  unfold State.forwardChunk; dsimp only; refine Moves.foldl ?_ ?_; intro s1 a2 h3; refine Moves.upd ?_
  apply State.sendMessage_moves; exact h3; exact h

theorem State.endLoad_moves {z s : State} {slot} (h : Moves z s) : Moves z (s.endLoad slot) := by
  unfold State.endLoad; apply State.updSlot_moves; exact h; intro B1 w2; dsimp only; exact Memory.wf_nil

theorem State.storeChunk_moves {z s : State} {slot index plain} (h : Moves z s) :
    Moves z (s.storeChunk slot index plain) := by
  unfold State.storeChunk; dsimp only; split; apply State.emit_moves; apply State.updSlot_moves; exact h; intro B1 w2
  refine Memory.wf_foldl ?_ ?_; intro a3 a4 a5; refine Memory.wf_memWrite _ _ _ ?_; exact a5; exact w2
  apply State.updSlot_moves; exact h; intro B6 w7; refine Memory.wf_foldl ?_ ?_; intro a8 a9 a10
  refine Memory.wf_memWrite _ _ _ ?_; exact a10; exact w7

theorem State.takeChunk_moves {z s : State} {slot index plain} (h : Moves z s) :
    Moves z (s.takeChunk slot index plain) := by
  unfold State.takeChunk; dsimp only; split; apply State.endLoad_moves; exact h; split; apply State.storeChunk_moves
  exact h; apply State.updSlot_moves; exact h; intro B1 w2; exact w2

theorem State.failChunk_moves {z s : State} {slot index} (h : Moves z s) : Moves z (s.failChunk slot index) := by
  unfold State.failChunk; dsimp only; split; apply State.endLoad_moves; exact h; apply State.emit_moves
  apply State.updSlot_moves; exact h; intro B1 w2; exact w2

theorem execBaseChunkReceive_moves {z s : State} {slot index host plain} (h : Moves z s) :
    Ends z (execBaseChunkReceive slot index host plain s) := by
  unfold execBaseChunkReceive; dsimp only; apply Ends.next; split; exact h; split; apply State.takeChunk_moves; split
  apply State.forwardChunk_moves; exact h; exact h; apply State.failChunk_moves; split; apply State.forwardChunk_moves
  exact h; exact h

theorem loadSlot_wf {op node} : Slot.Wf (loadSlot op node) := Memory.wf_nil

theorem Slot.reloading_wf {q} (w : Slot.Wf q) : Slot.Wf (Slot.reloading q) := by
  unfold Slot.reloading; exact w

theorem State.reloadSlot_moves {z s : State} {slot} (h : Moves z s) : Moves z (s.reloadSlot slot) := by
  unfold State.reloadSlot
  exact Moves.foldl (fun _ _ h => State.emit_moves h)
    (State.updSlot_moves_of h fun i _ _ => Slot.reloading_wf (State.wf_slot (h.inv i) slot))

theorem State.newLoad_moves {z s : State} {slot handle channel q} (h : Moves z s) (wq : z.Inv → Slot.Wf q) :
    Moves z (State.newLoad s slot handle channel q) := by
  have h1 : Moves z (State.newKeySet s (slotOwner slot)).2 := State.newKeySet_moves h
  unfold State.newLoad
  dsimp only
  generalize State.newKeySet s (slotOwner slot) = g at h1
  exact State.updSlot_moves_of (Moves.upd h1) fun i _ _ => wq i

theorem State.joinLoad_moves {z s : State} {op handle channel} (h : Moves z s) :
    Moves z (s.joinLoad op handle channel) := by
  unfold State.joinLoad; dsimp only; split; exact h; split; split; exact h; apply State.reloadSlot_moves; exact h
  split; apply State.seedRead_moves; apply State.newLoad_moves; exact h; intro i1; apply loadSlot_wf; exact h

theorem State.sendLoadKeys_moves {z s : State} {op} (h : Moves z s) : Moves z (s.sendLoadKeys op) := by
  unfold State.sendLoadKeys; refine Moves.foldl ?_ ?_; intro s1 a2 h3; dsimp only; split; apply State.emit_moves
  exact h3; apply State.emit_moves; apply State.emit_moves; exact h3; exact h

theorem State.passLoad_moves {z s : State} {op handle channel} (h : Moves z s) :
    Moves z (s.passLoad op handle channel) := by
  unfold State.passLoad; apply State.joinLoad_moves; apply State.sendLoadKeys_moves; apply State.emit_moves; exact h

theorem State.startLoad_moves {z s : State} {op} (h : Moves z s) : Moves z (s.startLoad op) := by
  unfold State.startLoad; dsimp only; apply State.passLoad_moves; refine Moves.upd ?_; apply State.fresh_moves
  exact h

theorem State.loadBase_moves {z s : State} {op} (h : Moves z s) : Moves z (s.loadBase op).1 := by
  unfold State.loadBase; split; exact h; split; split; exact h; dsimp only; apply State.joinLoad_moves; exact h; split
  exact h; split; split; dsimp only; apply State.passLoad_moves; exact h; exact h; split; exact h; dsimp only
  apply State.startLoad_moves; exact h

theorem execBaseRetire_moves {z s : State} {m op} (h : Moves z s) :
    Ends z (execBaseRetire m op s) := by
  unfold execBaseRetire; apply Ends.next; apply State.domainOp_moves; exact h; intro s1 h2; split; split; dsimp only
  apply State.emit_moves; refine Moves.upd ?_; exact h2; exact h2; split; dsimp only; refine Moves.upd ?_; exact h2
  exact h2

theorem execBaseLoad_moves {z s : State} {m header layers seeds members jobKey slot lackPages assigned} (h : Moves z s) :
    Ends z (execBaseLoad m header layers seeds members jobKey slot lackPages assigned s) := by
  unfold execBaseLoad; apply Ends.next; apply State.domainOp_moves; exact h; intro s1 h2; apply State.loadBase_moves
  exact h2

/-! ### Boot -/

theorem execLampTestEnd_moves {z s : State} (h : Moves z s) : Ends z (execLampTestEnd s) := by
  unfold execLampTestEnd; apply Ends.next; refine Moves.upd ?_; exact h

theorem execMrstAssert_moves {z s : State} (h : Moves z s) : Ends z (execMrstAssert s) := by
  unfold execMrstAssert; dsimp only; apply Ends.next; refine Moves.upd ?_; apply State.moduleReset_moves; exact h

theorem State.advance_moves {z s : State} {p} (h : Moves z s) : Moves z (s.advance p) := by
  unfold State.advance; refine Moves.upd ?_; exact h

theorem execModEnFall_moves {z s : State} (h : Moves z s) : Ends z (execModEnFall s) := by
  unfold execModEnFall; dsimp only; apply Ends.next; refine Moves.upd ?_; apply State.moduleReset_moves; exact h

theorem State.failBoot_moves {z s : State} {cause} (h : Moves z s) : Moves z (s.failBoot cause) := by
  unfold State.failBoot; dsimp only; apply State.emit_moves; refine Moves.upd ?_; refine Moves.foldl ?_ ?_
  intro s1 a2 h3; apply State.updPort_moves; exact h3; exact h

theorem State.bootIdentity_moves {z s : State} (h : Moves z s) : Moves z (State.bootIdentity s) :=
  Moves.upd (s := s.fresh.2) (State.fresh_moves h) (leaf_ := by
    show s.store.topLeaf ≤ if _ then _ else _
    split
    · exact Nat.le_succ _
    · exact Nat.le_refl _)

theorem execMemTrainComplete_moves {z s : State} {res} (h : Moves z s) : Ends z (execMemTrainComplete res s) := by
  unfold execMemTrainComplete; apply Ends.next; split; exact h; split; apply State.failBoot_moves; exact h; dsimp only
  refine Moves.foldl ?_ ?_; intro s1 a2 h3; split; apply State.train_moves; exact h3; exact h3
  apply State.advance_moves; apply State.bootIdentity_moves; refine Moves.upd ?_; exact h

theorem execModEnRise_moves {z s : State} {lowMs inputMv} (h : Moves z s) :
    Ends z (execModEnRise lowMs inputMv s) := by
  unfold execModEnRise; dsimp only; apply Ends.next; split; refine Moves.upd ?_; exact h; refine Moves.upd ?_; exact h

theorem execPowerGood_moves {z s : State} {mgrEn domainSel bootSlot} (h : Moves z s) :
    Ends z (execPowerGood mgrEn domainSel bootSlot s) := by
  unfold execPowerGood; apply Ends.next; split; dsimp only; refine Moves.upd ?_; apply State.moduleReset_moves
  refine Moves.upd ?_; exact h; exact h

theorem State.loadProfile_moves {z s : State} (h : Moves z s) : Moves z s.loadProfile := by
  unfold State.loadProfile; split; dsimp only; refine Moves.upd ?_; exact h; refine Moves.upd ?_; exact h

theorem execFirmwareVerified_moves {z s : State} {slotA slotB selfTestOk} (h : Moves z s) :
    Ends z (execFirmwareVerified slotA slotB selfTestOk s) := by
  unfold execFirmwareVerified; apply Ends.next; split; exact h; split; apply State.failBoot_moves; exact h; split
  apply State.failBoot_moves; exact h; dsimp only; split; apply State.failBoot_moves; refine Moves.upd ?_
  apply State.loadProfile_moves; refine Moves.upd ?_; exact h; apply State.advance_moves
  apply State.loadProfile_moves; refine Moves.upd ?_; exact h

theorem State.goReady_moves {z s : State} (h : Moves z s) : Moves z (State.goReady s) := by
  have h1 := State.advance_moves (p := .ready) h
  unfold State.goReady
  dsimp only
  generalize State.advance s .ready = s1 at h1
  exact State.startStitch_moves (Moves.upd h1 (len_ := fun _ => (by decide : 1 < 4)))

theorem execSeamTrainEnd_moves {z s : State} (h : Moves z s) : Ends z (execSeamTrainEnd s) := by
  unfold execSeamTrainEnd; apply Ends.next; split; exact h; split; apply State.goReady_moves; exact h
  apply State.emit_moves; apply State.advance_moves; exact h

theorem execMrstRelease_moves {z s : State} (h : Moves z s) : Ends z (execMrstRelease s) := by
  unfold execMrstRelease; apply Ends.next; refine Moves.upd ?_; exact h

theorem execCxlIoReady_moves {z s : State} {cache width rate} (h : Moves z s) :
    Ends z (execCxlIoReady cache width rate s) := by
  unfold execCxlIoReady; apply Ends.next; split; exact h; dsimp only; split; split; refine Moves.upd ?_; exact h
  refine Moves.upd ?_; exact h; split; apply State.resumeHost_moves; refine Moves.upd ?_; exact h
  apply State.emit_moves; refine Moves.upd ?_; exact h

theorem execPerstDeassert_moves {z s : State} (h : Moves z s) : Ends z (execPerstDeassert s) := by
  unfold execPerstDeassert; apply Ends.next; refine Moves.upd ?_; exact h

/-! ### Thermal -/

theorem State.bubbles_moves {z s : State} {n} (h : Moves z s) : Moves z (s.bubbles n) := by
  unfold State.bubbles; dsimp only; apply State.updBolts_moves; exact h; intro a1 B2 w3; exact w3

theorem State.enterHold_moves {z s : State} {mv} (h : Moves z s) : Moves z (s.enterHold mv) := by
  unfold State.enterHold; split; refine Moves.upd ?_; exact h; dsimp only; apply State.event_moves
  apply State.bubbles_moves; refine Moves.upd ?_; exact h

theorem execPowerSample_moves {z s : State} {p} (h : Moves z s) : Ends z (execPowerSample p s) := by
  unfold execPowerSample; apply Ends.next; split; exact h; dsimp only; apply State.bubbles_moves; split
  apply State.enterHold_moves; refine Moves.upd ?_; exact h; refine Moves.upd ?_; exact h

theorem execSupplyRecovery_moves {z s : State} (h : Moves z s) : Ends z (execSupplyRecovery s) := by
  unfold execSupplyRecovery; apply Ends.next; split; dsimp only; split; apply State.errorTrigger_moves
  apply State.event_moves; apply State.bubbles_moves; refine Moves.upd ?_; exact h; apply State.event_moves
  apply State.bubbles_moves; refine Moves.upd ?_; exact h; exact h

theorem State.setTemp_moves {z s : State} {n celsius} (h : Moves z s) : Moves z (s.setTemp n celsius) := by
  unfold State.setTemp; refine Moves.upd ?_; exact h

theorem State.setTemps_moves {z s : State} {ts} (h : Moves z s) : Moves z (s.setTemps ts) := by
  unfold State.setTemps; refine Moves.foldl ?_ ?_; intro s1 a2 h3; split; apply State.setTemp_moves; exact h3
  exact h3; exact h

theorem State.holdHot_moves {z s : State} (h : Moves z s) : Moves z s.holdHot := by
  unfold State.holdHot; refine Moves.upd ?_; exact h

theorem State.thermalBegin_moves {z s : State} {sensor cause} (h : Moves z s) :
    Moves z (s.thermalBegin sensor cause) := by
  unfold State.thermalBegin; dsimp only; apply State.emit_moves; apply State.errorTrigger_moves
  apply State.event_moves; apply State.bubbles_moves; refine Moves.upd ?_; exact h

theorem execSpreadEmergency_moves {z s : State} {temps} (h : Moves z s) : Ends z (execSpreadEmergency temps s) := by
  unfold execSpreadEmergency; dsimp only; apply Ends.next; split; refine Moves.foldl ?_ ?_; intro s1 a2 h3
  apply State.thermalBegin_moves; exact h3; refine Moves.upd ?_; apply State.holdHot_moves; apply State.setTemps_moves
  exact h; apply State.setTemps_moves; exact h

theorem State.bayDown_moves {z s : State} {bay} (h : Moves z s) : Moves z (s.bayDown bay) := by
  unfold State.bayDown; dsimp only; refine Moves.foldl ?_ ?_; intro s1 a2 h3; split; exact h3; exact h3
  apply State.updPort_moves; apply State.loseLink_moves; exact h3; refine Moves.upd ?_; exact h

theorem execThermalEmergency_moves {z s : State} {sensor celsius} (h : Moves z s) :
    Ends z (execThermalEmergency sensor celsius s) := by
  unfold execThermalEmergency; apply Ends.next; split; exact h; dsimp only; split; apply State.setTemp_moves; exact h
  split; apply State.bayDown_moves; apply State.thermalBegin_moves; refine Moves.upd ?_; apply State.setTemp_moves
  exact h; apply State.thermalBegin_moves; refine Moves.upd ?_; apply State.setTemp_moves; exact h

theorem execSpreadHoldEnd_moves {z s : State} {temps} (h : Moves z s) : Ends z (execSpreadHoldEnd temps s) := by
  unfold execSpreadHoldEnd; dsimp only; apply Ends.next; split; split; refine Moves.upd ?_; refine Moves.foldl ?_ ?_
  intro s1 a2 h3; apply State.event_moves; exact h3; apply State.bubbles_moves; refine Moves.upd ?_
  apply State.setTemps_moves; exact h; refine Moves.foldl ?_ ?_; intro s4 a5 h6; apply State.event_moves; exact h6
  apply State.bubbles_moves; refine Moves.upd ?_; apply State.setTemps_moves; exact h; split; refine Moves.upd ?_
  apply State.setTemps_moves; exact h; apply State.setTemps_moves; exact h

theorem State.powerOff_moves {z s : State} {trip} (h : Moves z s) : Moves z (s.powerOff trip) := by
  unfold State.powerOff; apply State.moduleReset_moves; exact h

theorem execInputReset_moves {z s : State} (h : Moves z s) : Ends z (execInputReset s) := by
  unfold execInputReset; apply Ends.next; split; exact h; apply State.powerOff_moves; exact h

theorem execBoltExitComplete_moves {z s : State} {bolt} (h : Moves z s) : Ends z (execBoltExitComplete bolt s) := by
  unfold execBoltExitComplete; apply Ends.next; split; split; split; apply State.updBolt_moves; refine Moves.upd ?_
  exact h; intro B1 w2; exact w2; exact h; split; apply State.updBolt_moves; exact h; intro B3 w4; exact w4; exact h
  exact h

theorem execSupplyWarning_moves {z s : State} {inputMv} (h : Moves z s) : Ends z (execSupplyWarning inputMv s) := by
  unfold execSupplyWarning; apply Ends.next; split; apply State.enterHold_moves; refine Moves.upd ?_; exact h; exact h

theorem execOvervoltageShutoff_moves {z s : State} (h : Moves z s) : Ends z (execOvervoltageShutoff s) := by
  unfold execOvervoltageShutoff; apply Ends.next; split; exact h; apply State.powerOff_moves; exact h

theorem execThermalThrottle_moves {z s : State} {sensor celsius} (h : Moves z s) :
    Ends z (execThermalThrottle sensor celsius s) := by
  unfold execThermalThrottle; apply Ends.next; split; exact h; dsimp only; split; apply State.setTemp_moves; exact h
  split; apply State.setTemp_moves; exact h; refine Moves.upd ?_; apply State.setTemp_moves; exact h

theorem execOvercurrentTrip_moves {z s : State} (h : Moves z s) : Ends z (execOvercurrentTrip s) := by
  unfold execOvercurrentTrip; apply Ends.next; split; exact h; apply State.powerOff_moves; exact h

theorem execThermalTrip_moves {z s : State} {sensor celsius} (h : Moves z s) :
    Ends z (execThermalTrip sensor celsius s) := by
  unfold execThermalTrip; apply Ends.next; split; exact h; apply State.powerOff_moves; exact h

theorem execSpreadHoldEnter_moves {z s : State} {temps} (h : Moves z s) : Ends z (execSpreadHoldEnter temps s) := by
  unfold execSpreadHoldEnter; dsimp only; apply Ends.next; split; apply State.holdHot_moves
  apply State.setTemps_moves; exact h; apply State.setTemps_moves; exact h

theorem execThermalActionEnd_moves {z s : State} {sensor celsius} (h : Moves z s) :
    Ends z (execThermalActionEnd sensor celsius s) := by
  unfold execThermalActionEnd; apply Ends.next; split; exact h; dsimp only; split; split; refine Moves.foldl ?_ ?_
  intro s1 a2 h3; apply State.event_moves; exact h3; split; refine Moves.upd ?_; refine Moves.upd ?_
  apply State.setTemp_moves; exact h; apply State.bubbles_moves; refine Moves.upd ?_; refine Moves.upd ?_
  apply State.setTemp_moves; exact h; refine Moves.upd ?_; apply State.setTemp_moves; exact h; split
  refine Moves.foldl ?_ ?_; intro s4 a5 h6; apply State.event_moves; exact h6; split; refine Moves.upd ?_
  apply State.setTemp_moves; exact h; apply State.bubbles_moves; refine Moves.upd ?_; apply State.setTemp_moves
  exact h; apply State.setTemp_moves; exact h

/-! ### Service -/

theorem execUnravel_moves {z s : State} {die source} (h : Moves z s) : Ends z (execUnravel die source s) := by
  unfold execUnravel; apply Ends.next; split; apply State.unravelFrom_moves; exact h; exact h

theorem State.mgmtCheck_moves {z s : State} {m ok k} (h : Moves z s) (hk : ∀ s, Moves z s → Moves z (k s)) :
    Moves z (State.mgmtCheck s m ok k) := by
  refine State.mgmt_moves h fun s h => ?_
  split
  · exact State.mgmtReply_moves (hk s h)
  · exact State.mgmtReply_moves h

theorem execMgmtPortDisable_moves {z s : State} {m port} (h : Moves z s) : Ends z (execMgmtPortDisable m port s) := by
  unfold execMgmtPortDisable; apply Ends.next; apply State.mgmtCheck_moves; exact h; intro s1 h2; dsimp only; split
  apply State.replan_moves; apply State.updPort_moves; exact h2; apply State.updPort_moves; exact h2

theorem execMgmtRoleMove_moves {z s : State} {m edge} (h : Moves z s) : Ends z (execMgmtRoleMove m edge s) := by
  unfold execMgmtRoleMove; apply Ends.next; apply State.mgmtCheck_moves; exact h; intro s1 h2; refine Moves.upd ?_
  exact h2

theorem State.signedReply_moves {z s : State} {d} (h : Moves z s) : Moves z (s.signedReply d) := by
  unfold State.signedReply; dsimp only; apply State.mgmtReply_moves; apply State.emit_moves; apply State.fresh_moves
  exact h

theorem execMgmtCertificate_moves {z s : State} {m which} (h : Moves z s) :
    Ends z (execMgmtCertificate m which s) := by
  unfold execMgmtCertificate; apply Ends.next; apply State.mgmt_moves; exact h; intro s1 h2; split
  apply State.signedReply_moves; exact h2; apply State.mgmtReply_moves; exact h2

theorem execMgmtIdentify_moves {z s : State} {m seconds} (h : Moves z s) : Ends z (execMgmtIdentify m seconds s) := by
  unfold execMgmtIdentify; apply Ends.next; apply State.mgmtCheck_moves; exact h; intro s1 h2; refine Moves.upd ?_
  exact h2

theorem execMgmtFwWrite_moves {z s : State} {m offset data} (h : Moves z s) :
    Ends z (execMgmtFwWrite m offset data s) := by
  unfold execMgmtFwWrite; apply Ends.next; apply State.mgmt_moves; exact h; intro s1 h2; split
  apply State.mgmtReply_moves; apply State.writeSlot_moves; refine Moves.upd ?_; exact h2; apply State.mgmtReply_moves
  exact h2

theorem execMgmtSvnRaise_moves {z s : State} {m svn} (h : Moves z s) : Ends z (execMgmtSvnRaise m svn s) := by
  unfold execMgmtSvnRaise; apply Ends.next; apply State.mgmtCheck_moves; exact h; intro s1 h2
  refine Moves.upd ?_ (svn_ := ?_); exact h2; exact Nat.le_max_left _ _

theorem execMgmtDomainKill_moves {z s : State} {m coll} (h : Moves z s) : Ends z (execMgmtDomainKill m coll s) := by
  unfold execMgmtDomainKill; apply Ends.next; apply State.domainOp_moves; exact h; intro s1 h2; dsimp only
  apply State.squashed_moves; exact h2

theorem State.setRemoval_moves {z s : State} {r} (h : Moves z s) : Moves z (s.setRemoval r) := by
  unfold State.setRemoval; refine Moves.upd ?_; exact h

theorem execRemovalSafe_moves {z s : State} (h : Moves z s) : Ends z (execRemovalSafe s) := by
  unfold execRemovalSafe; apply Ends.next; split; apply State.emit_moves; apply State.setRemoval_moves; exact h
  exact h

theorem execFatalError_moves {z s : State} {die source} (h : Moves z s) : Ends z (execFatalError die source s) := by
  unfold execFatalError; apply Ends.next; split; apply State.fatal_moves; exact h; exact h

theorem execMgmtAnchorReplace_moves {z s : State} {m key} (h : Moves z s) :
    Ends z (execMgmtAnchorReplace m key s) := by
  unfold execMgmtAnchorReplace; apply Ends.next; apply State.mgmtCheck_moves; exact h; intro s1 h2
  refine Moves.upd ?_; exact h2

theorem execEntropyRecovery_moves {z s : State} (h : Moves z s) : Ends z (execEntropyRecovery s) := by
  unfold execEntropyRecovery; apply Ends.next; refine Moves.upd ?_; exact h

theorem execI3cIdentityRead_moves {z s : State} (h : Moves z s) : Ends z (execI3cIdentityRead s) := by
  unfold execI3cIdentityRead; apply Ends.next; split; apply State.emit_moves; exact h; exact h

theorem execMgmtReset_moves {z s : State} {m} (h : Moves z s) : Ends z (execMgmtReset m s) := by
  unfold execMgmtReset; apply Ends.next; apply State.mgmt_moves; exact h; intro s1 h2; apply State.moduleReset_moves
  apply State.mgmtReply_moves; exact h2

theorem execFaultLedTimeout_moves {z s : State} (h : Moves z s) : Ends z (execFaultLedTimeout s) := by
  unfold execFaultLedTimeout; apply Ends.next; refine Moves.upd ?_; exact h

theorem execEntropyHealthFail_moves {z s : State} (h : Moves z s) : Ends z (execEntropyHealthFail s) := by
  unfold execEntropyHealthFail; apply Ends.next; split; exact h; apply State.logError_moves; refine Moves.upd ?_
  exact h

theorem execAttnPress_moves {z s : State} {ms} (h : Moves z s) : Ends z (execAttnPress ms s) := by
  unfold execAttnPress; apply Ends.next; split; exact h; split; apply State.setRemoval_moves; exact h
  apply State.emit_moves; apply State.setRemoval_moves; exact h; exact h; exact h

theorem execMgmtSetProfile_moves {z s : State} {m index profile} (h : Moves z s) :
    Ends z (execMgmtSetProfile m index profile s) := by
  unfold execMgmtSetProfile; apply Ends.next; apply State.mgmtCheck_moves; exact h; intro s1 h2; refine Moves.upd ?_
  exact h2

theorem execAnchorInstall_moves {z s : State} {key} (h : Moves z s) : Ends z (execAnchorInstall key s) := by
  unfold execAnchorInstall; apply Ends.next; split; exact h; split; apply State.mgmtReply_moves; refine Moves.upd ?_
  exact h; apply State.mgmtReply_moves; exact h

theorem execMgmtNetworkFrame_moves {z s : State} {frame} (h : Moves z s) : Ends z (execMgmtNetworkFrame frame s) := by
  unfold execMgmtNetworkFrame; apply Ends.next; split; exact h; split; apply State.emit_moves; exact h
  apply State.emit_moves; exact h; apply State.emit_moves; exact h; exact h; exact h

theorem execMgmtSetCap_moves {z s : State} {m watts order} (h : Moves z s) :
    Ends z (execMgmtSetCap m watts order s) := by
  unfold execMgmtSetCap; apply Ends.next; apply State.mgmtCheck_moves; exact h; intro s1 h2; refine Moves.upd ?_
  exact h2

theorem execMgmtRemovalCancel_moves {z s : State} {m} (h : Moves z s) : Ends z (execMgmtRemovalCancel m s) := by
  unfold execMgmtRemovalCancel; apply Ends.next; apply State.mgmtCheck_moves; exact h; intro s1 h2
  apply State.setRemoval_moves; exact h2

theorem execDrbgReseed_moves {z s : State} (h : Moves z s) : Ends z (execDrbgReseed s) := by
  unfold execDrbgReseed; apply Ends.next; refine Moves.upd ?_; exact h

theorem execMgmtSetSgmii_moves {z s : State} {m} (h : Moves z s) : Ends z (execMgmtSetSgmii m s) := by
  unfold execMgmtSetSgmii; apply Ends.next; apply State.mgmtCheck_moves; exact h; intro s1 h2; refine Moves.upd ?_
  exact h2

theorem execMgmtDomainSnapshot_moves {z s : State} {m snapId target offset} (h : Moves z s) :
    Ends z (execMgmtDomainSnapshot m snapId target offset s) := by
  unfold execMgmtDomainSnapshot; apply Ends.next; apply State.mgmtCheck_moves; exact h; intro s1 h2
  apply State.sendTrigger_moves; exact h2

theorem execIdentifyTimeout_moves {z s : State} (h : Moves z s) : Ends z (execIdentifyTimeout s) := by
  unfold execIdentifyTimeout; apply Ends.next; refine Moves.upd ?_; exact h

theorem State.storeRoster_moves {z s : State} {gen roster} (h : Moves z s) : Moves z (s.storeRoster gen roster) := by
  unfold State.storeRoster; dsimp only; split; refine Moves.upd ?_; exact h; exact h

theorem execMgmtQuote_moves {z s : State} {m nonce} (h : Moves z s) : Ends z (execMgmtQuote m nonce s) := by
  unfold execMgmtQuote; apply Ends.next; apply State.mgmt_moves; exact h; intro s1 h2; split
  apply State.mgmtReply_moves; exact h2; split; apply State.signedReply_moves; refine Moves.upd ?_; exact h2
  apply State.mgmtReply_moves; exact h2

theorem execI3cStatusRead_moves {z s : State} (h : Moves z s) : Ends z (execI3cStatusRead s) := by
  unfold execI3cStatusRead; apply Ends.next; split; apply State.emit_moves; exact h; exact h

theorem execMgmtDecommission_moves {z s : State} {m} (h : Moves z s) : Ends z (execMgmtDecommission m s) := by
  unfold execMgmtDecommission; apply Ends.next; apply State.mgmtCheck_moves; exact h; intro s1 h2; refine Moves.upd ?_
  exact h2

theorem execRemovalWindowExpiry_moves {z s : State} (h : Moves z s) : Ends z (execRemovalWindowExpiry s) := by
  unfold execRemovalWindowExpiry; apply Ends.next; split; exact h; dsimp only; split; apply State.emit_moves
  apply State.setRemoval_moves; apply State.emit_moves; refine Moves.upd ?_; exact h; split; apply State.emit_moves
  apply State.emit_moves; refine Moves.upd ?_; exact h; apply State.emit_moves; refine Moves.upd ?_; exact h

theorem execMgmtRoster_moves {z s : State} {m roster} (h : Moves z s) : Ends z (execMgmtRoster m roster s) := by
  unfold execMgmtRoster; apply Ends.next; apply State.mgmtCheck_moves; exact h; intro s1 h2; dsimp only; split
  apply State.emit_moves; apply State.takeRoster_moves; apply State.storeRoster_moves; exact h2
  apply State.storeRoster_moves; exact h2

end Sys2Proof.Machine
end

