-- ==== Sys2Proof/Laws/State.lean ====
section
/-! SUPPORT. Each named update of the state against each field: the fields it does not write are as they were. -/
namespace Sys2Proof.Machine
open Sys2Proof

/-! ### setBolt -/

@[simp] theorem State.setBolt_pending (s : State) (b : Nat) (v : Bolt) : (s.setBolt b v).pending = s.pending := rfl
@[simp] theorem State.setBolt_out (s : State) (b : Nat) (v : Bolt) : (s.setBolt b v).out = s.out := rfl
@[simp] theorem State.setBolt_freeCtr (s : State) (b : Nat) (v : Bolt) : (s.setBolt b v).freeCtr = s.freeCtr := rfl
@[simp] theorem State.setBolt_board (s : State) (b : Nat) (v : Bolt) : (s.setBolt b v).board = s.board := rfl
@[simp] theorem State.setBolt_store (s : State) (b : Nat) (v : Bolt) : (s.setBolt b v).store = s.store := rfl
@[simp] theorem State.setBolt_dev (s : State) (b : Nat) (v : Bolt) : (s.setBolt b v).dev = s.dev := rfl
@[simp] theorem State.setBolt_hif (s : State) (b : Nat) (v : Bolt) : (s.setBolt b v).hif = s.hif := rfl
@[simp] theorem State.setBolt_mbx (s : State) (b : Nat) (v : Bolt) : (s.setBolt b v).mbx = s.mbx := rfl
@[simp] theorem State.setBolt_evq (s : State) (b : Nat) (v : Bolt) : (s.setBolt b v).evq = s.evq := rfl
@[simp] theorem State.setBolt_snap (s : State) (b : Nat) (v : Bolt) : (s.setBolt b v).snap = s.snap := rfl
@[simp] theorem State.setBolt_session (s : State) (b : Nat) (v : Bolt) : (s.setBolt b v).session = s.session := rfl
@[simp] theorem State.setBolt_admSqs (s : State) (b : Nat) (v : Bolt) : (s.setBolt b v).admSqs = s.admSqs := rfl
@[simp] theorem State.setBolt_admCqs (s : State) (b : Nat) (v : Bolt) : (s.setBolt b v).admCqs = s.admCqs := rfl
@[simp] theorem State.setBolt_admAccepted (s : State) (b : Nat) (v : Bolt) : (s.setBolt b v).admAccepted = s.admAccepted := rfl
@[simp] theorem State.setBolt_admHeaders (s : State) (b : Nat) (v : Bolt) : (s.setBolt b v).admHeaders = s.admHeaders := rfl
@[simp] theorem State.setBolt_sleeves (s : State) (b : Nat) (v : Bolt) : (s.setBolt b v).sleeves = s.sleeves := rfl
@[simp] theorem State.setBolt_time (s : State) (b : Nat) (v : Bolt) : (s.setBolt b v).time = s.time := rfl
@[simp] theorem State.setBolt_runs (s : State) (b : Nat) (v : Bolt) : (s.setBolt b v).runs = s.runs := rfl
@[simp] theorem State.setBolt_nextRun (s : State) (b : Nat) (v : Bolt) : (s.setBolt b v).nextRun = s.nextRun := rfl
@[simp] theorem State.setBolt_tenants (s : State) (b : Nat) (v : Bolt) : (s.setBolt b v).tenants = s.tenants := rfl
@[simp] theorem State.setBolt_patches (s : State) (b : Nat) (v : Bolt) : (s.setBolt b v).patches = s.patches := rfl
@[simp] theorem State.setBolt_memSide (s : State) (b : Nat) (v : Bolt) : (s.setBolt b v).memSide = s.memSide := rfl
@[simp] theorem State.setBolt_ports (s : State) (b : Nat) (v : Bolt) : (s.setBolt b v).ports = s.ports := rfl
@[simp] theorem State.setBolt_edgePorts (s : State) (b : Nat) (v : Bolt) : (s.setBolt b v).edgePorts = s.edgePorts := rfl
@[simp] theorem State.setBolt_segWindows (s : State) (b : Nat) (v : Bolt) : (s.setBolt b v).segWindows = s.segWindows := rfl
@[simp] theorem State.setBolt_groups (s : State) (b : Nat) (v : Bolt) : (s.setBolt b v).groups = s.groups := rfl
@[simp] theorem State.setBolt_posts (s : State) (b : Nat) (v : Bolt) : (s.setBolt b v).posts = s.posts := rfl
@[simp] theorem State.setBolt_domain (s : State) (b : Nat) (v : Bolt) : (s.setBolt b v).domain = s.domain := rfl
@[simp] theorem State.setBolt_bases (s : State) (b : Nat) (v : Bolt) : (s.setBolt b v).bases = s.bases := rfl
@[simp] theorem State.setBolt_power (s : State) (b : Nat) (v : Bolt) : (s.setBolt b v).power = s.power := rfl
@[simp] theorem State.setBolt_rel (s : State) (b : Nat) (v : Bolt) : (s.setBolt b v).rel = s.rel := rfl
@[simp] theorem State.setBolt_sec (s : State) (b : Nat) (v : Bolt) : (s.setBolt b v).sec = s.sec := rfl

/-! ### updBolt -/

@[simp] theorem State.updBolt_pending (s : State) (b : Nat) (f : Bolt → Bolt) : (s.updBolt b f).pending = s.pending := rfl
@[simp] theorem State.updBolt_out (s : State) (b : Nat) (f : Bolt → Bolt) : (s.updBolt b f).out = s.out := rfl
@[simp] theorem State.updBolt_freeCtr (s : State) (b : Nat) (f : Bolt → Bolt) : (s.updBolt b f).freeCtr = s.freeCtr := rfl
@[simp] theorem State.updBolt_board (s : State) (b : Nat) (f : Bolt → Bolt) : (s.updBolt b f).board = s.board := rfl
@[simp] theorem State.updBolt_store (s : State) (b : Nat) (f : Bolt → Bolt) : (s.updBolt b f).store = s.store := rfl
@[simp] theorem State.updBolt_dev (s : State) (b : Nat) (f : Bolt → Bolt) : (s.updBolt b f).dev = s.dev := rfl
@[simp] theorem State.updBolt_hif (s : State) (b : Nat) (f : Bolt → Bolt) : (s.updBolt b f).hif = s.hif := rfl
@[simp] theorem State.updBolt_mbx (s : State) (b : Nat) (f : Bolt → Bolt) : (s.updBolt b f).mbx = s.mbx := rfl
@[simp] theorem State.updBolt_evq (s : State) (b : Nat) (f : Bolt → Bolt) : (s.updBolt b f).evq = s.evq := rfl
@[simp] theorem State.updBolt_snap (s : State) (b : Nat) (f : Bolt → Bolt) : (s.updBolt b f).snap = s.snap := rfl
@[simp] theorem State.updBolt_session (s : State) (b : Nat) (f : Bolt → Bolt) : (s.updBolt b f).session = s.session := rfl
@[simp] theorem State.updBolt_admSqs (s : State) (b : Nat) (f : Bolt → Bolt) : (s.updBolt b f).admSqs = s.admSqs := rfl
@[simp] theorem State.updBolt_admCqs (s : State) (b : Nat) (f : Bolt → Bolt) : (s.updBolt b f).admCqs = s.admCqs := rfl
@[simp] theorem State.updBolt_admAccepted (s : State) (b : Nat) (f : Bolt → Bolt) : (s.updBolt b f).admAccepted = s.admAccepted := rfl
@[simp] theorem State.updBolt_admHeaders (s : State) (b : Nat) (f : Bolt → Bolt) : (s.updBolt b f).admHeaders = s.admHeaders := rfl
@[simp] theorem State.updBolt_sleeves (s : State) (b : Nat) (f : Bolt → Bolt) : (s.updBolt b f).sleeves = s.sleeves := rfl
@[simp] theorem State.updBolt_time (s : State) (b : Nat) (f : Bolt → Bolt) : (s.updBolt b f).time = s.time := rfl
@[simp] theorem State.updBolt_runs (s : State) (b : Nat) (f : Bolt → Bolt) : (s.updBolt b f).runs = s.runs := rfl
@[simp] theorem State.updBolt_nextRun (s : State) (b : Nat) (f : Bolt → Bolt) : (s.updBolt b f).nextRun = s.nextRun := rfl
@[simp] theorem State.updBolt_tenants (s : State) (b : Nat) (f : Bolt → Bolt) : (s.updBolt b f).tenants = s.tenants := rfl
@[simp] theorem State.updBolt_patches (s : State) (b : Nat) (f : Bolt → Bolt) : (s.updBolt b f).patches = s.patches := rfl
@[simp] theorem State.updBolt_memSide (s : State) (b : Nat) (f : Bolt → Bolt) : (s.updBolt b f).memSide = s.memSide := rfl
@[simp] theorem State.updBolt_ports (s : State) (b : Nat) (f : Bolt → Bolt) : (s.updBolt b f).ports = s.ports := rfl
@[simp] theorem State.updBolt_edgePorts (s : State) (b : Nat) (f : Bolt → Bolt) : (s.updBolt b f).edgePorts = s.edgePorts := rfl
@[simp] theorem State.updBolt_segWindows (s : State) (b : Nat) (f : Bolt → Bolt) : (s.updBolt b f).segWindows = s.segWindows := rfl
@[simp] theorem State.updBolt_groups (s : State) (b : Nat) (f : Bolt → Bolt) : (s.updBolt b f).groups = s.groups := rfl
@[simp] theorem State.updBolt_posts (s : State) (b : Nat) (f : Bolt → Bolt) : (s.updBolt b f).posts = s.posts := rfl
@[simp] theorem State.updBolt_domain (s : State) (b : Nat) (f : Bolt → Bolt) : (s.updBolt b f).domain = s.domain := rfl
@[simp] theorem State.updBolt_bases (s : State) (b : Nat) (f : Bolt → Bolt) : (s.updBolt b f).bases = s.bases := rfl
@[simp] theorem State.updBolt_power (s : State) (b : Nat) (f : Bolt → Bolt) : (s.updBolt b f).power = s.power := rfl
@[simp] theorem State.updBolt_rel (s : State) (b : Nat) (f : Bolt → Bolt) : (s.updBolt b f).rel = s.rel := rfl
@[simp] theorem State.updBolt_sec (s : State) (b : Nat) (f : Bolt → Bolt) : (s.updBolt b f).sec = s.sec := rfl

/-! ### updRun -/

@[simp] theorem State.updRun_pending (s : State) (n : Nat) (f : Run → Run) : (s.updRun n f).pending = s.pending := rfl
@[simp] theorem State.updRun_out (s : State) (n : Nat) (f : Run → Run) : (s.updRun n f).out = s.out := rfl
@[simp] theorem State.updRun_freeCtr (s : State) (n : Nat) (f : Run → Run) : (s.updRun n f).freeCtr = s.freeCtr := rfl
@[simp] theorem State.updRun_board (s : State) (n : Nat) (f : Run → Run) : (s.updRun n f).board = s.board := rfl
@[simp] theorem State.updRun_store (s : State) (n : Nat) (f : Run → Run) : (s.updRun n f).store = s.store := rfl
@[simp] theorem State.updRun_dev (s : State) (n : Nat) (f : Run → Run) : (s.updRun n f).dev = s.dev := rfl
@[simp] theorem State.updRun_hif (s : State) (n : Nat) (f : Run → Run) : (s.updRun n f).hif = s.hif := rfl
@[simp] theorem State.updRun_mbx (s : State) (n : Nat) (f : Run → Run) : (s.updRun n f).mbx = s.mbx := rfl
@[simp] theorem State.updRun_evq (s : State) (n : Nat) (f : Run → Run) : (s.updRun n f).evq = s.evq := rfl
@[simp] theorem State.updRun_snap (s : State) (n : Nat) (f : Run → Run) : (s.updRun n f).snap = s.snap := rfl
@[simp] theorem State.updRun_session (s : State) (n : Nat) (f : Run → Run) : (s.updRun n f).session = s.session := rfl
@[simp] theorem State.updRun_admSqs (s : State) (n : Nat) (f : Run → Run) : (s.updRun n f).admSqs = s.admSqs := rfl
@[simp] theorem State.updRun_admCqs (s : State) (n : Nat) (f : Run → Run) : (s.updRun n f).admCqs = s.admCqs := rfl
@[simp] theorem State.updRun_admAccepted (s : State) (n : Nat) (f : Run → Run) : (s.updRun n f).admAccepted = s.admAccepted := rfl
@[simp] theorem State.updRun_admHeaders (s : State) (n : Nat) (f : Run → Run) : (s.updRun n f).admHeaders = s.admHeaders := rfl
@[simp] theorem State.updRun_sleeves (s : State) (n : Nat) (f : Run → Run) : (s.updRun n f).sleeves = s.sleeves := rfl
@[simp] theorem State.updRun_time (s : State) (n : Nat) (f : Run → Run) : (s.updRun n f).time = s.time := rfl
@[simp] theorem State.updRun_nextRun (s : State) (n : Nat) (f : Run → Run) : (s.updRun n f).nextRun = s.nextRun := rfl
@[simp] theorem State.updRun_tenants (s : State) (n : Nat) (f : Run → Run) : (s.updRun n f).tenants = s.tenants := rfl
@[simp] theorem State.updRun_patches (s : State) (n : Nat) (f : Run → Run) : (s.updRun n f).patches = s.patches := rfl
@[simp] theorem State.updRun_bolts (s : State) (n : Nat) (f : Run → Run) : (s.updRun n f).bolts = s.bolts := rfl
@[simp] theorem State.updRun_memSide (s : State) (n : Nat) (f : Run → Run) : (s.updRun n f).memSide = s.memSide := rfl
@[simp] theorem State.updRun_ports (s : State) (n : Nat) (f : Run → Run) : (s.updRun n f).ports = s.ports := rfl
@[simp] theorem State.updRun_edgePorts (s : State) (n : Nat) (f : Run → Run) : (s.updRun n f).edgePorts = s.edgePorts := rfl
@[simp] theorem State.updRun_segWindows (s : State) (n : Nat) (f : Run → Run) : (s.updRun n f).segWindows = s.segWindows := rfl
@[simp] theorem State.updRun_groups (s : State) (n : Nat) (f : Run → Run) : (s.updRun n f).groups = s.groups := rfl
@[simp] theorem State.updRun_posts (s : State) (n : Nat) (f : Run → Run) : (s.updRun n f).posts = s.posts := rfl
@[simp] theorem State.updRun_domain (s : State) (n : Nat) (f : Run → Run) : (s.updRun n f).domain = s.domain := rfl
@[simp] theorem State.updRun_bases (s : State) (n : Nat) (f : Run → Run) : (s.updRun n f).bases = s.bases := rfl
@[simp] theorem State.updRun_power (s : State) (n : Nat) (f : Run → Run) : (s.updRun n f).power = s.power := rfl
@[simp] theorem State.updRun_rel (s : State) (n : Nat) (f : Run → Run) : (s.updRun n f).rel = s.rel := rfl
@[simp] theorem State.updRun_sec (s : State) (n : Nat) (f : Run → Run) : (s.updRun n f).sec = s.sec := rfl

/-! ### dropRun -/

@[simp] theorem State.dropRun_pending (s : State) (n : Nat) : (s.dropRun n).pending = s.pending := rfl
@[simp] theorem State.dropRun_out (s : State) (n : Nat) : (s.dropRun n).out = s.out := rfl
@[simp] theorem State.dropRun_freeCtr (s : State) (n : Nat) : (s.dropRun n).freeCtr = s.freeCtr := rfl
@[simp] theorem State.dropRun_board (s : State) (n : Nat) : (s.dropRun n).board = s.board := rfl
@[simp] theorem State.dropRun_store (s : State) (n : Nat) : (s.dropRun n).store = s.store := rfl
@[simp] theorem State.dropRun_dev (s : State) (n : Nat) : (s.dropRun n).dev = s.dev := rfl
@[simp] theorem State.dropRun_hif (s : State) (n : Nat) : (s.dropRun n).hif = s.hif := rfl
@[simp] theorem State.dropRun_mbx (s : State) (n : Nat) : (s.dropRun n).mbx = s.mbx := rfl
@[simp] theorem State.dropRun_evq (s : State) (n : Nat) : (s.dropRun n).evq = s.evq := rfl
@[simp] theorem State.dropRun_snap (s : State) (n : Nat) : (s.dropRun n).snap = s.snap := rfl
@[simp] theorem State.dropRun_session (s : State) (n : Nat) : (s.dropRun n).session = s.session := rfl
@[simp] theorem State.dropRun_admSqs (s : State) (n : Nat) : (s.dropRun n).admSqs = s.admSqs := rfl
@[simp] theorem State.dropRun_admCqs (s : State) (n : Nat) : (s.dropRun n).admCqs = s.admCqs := rfl
@[simp] theorem State.dropRun_admAccepted (s : State) (n : Nat) : (s.dropRun n).admAccepted = s.admAccepted := rfl
@[simp] theorem State.dropRun_admHeaders (s : State) (n : Nat) : (s.dropRun n).admHeaders = s.admHeaders := rfl
@[simp] theorem State.dropRun_sleeves (s : State) (n : Nat) : (s.dropRun n).sleeves = s.sleeves := rfl
@[simp] theorem State.dropRun_time (s : State) (n : Nat) : (s.dropRun n).time = s.time := rfl
@[simp] theorem State.dropRun_nextRun (s : State) (n : Nat) : (s.dropRun n).nextRun = s.nextRun := rfl
@[simp] theorem State.dropRun_tenants (s : State) (n : Nat) : (s.dropRun n).tenants = s.tenants := rfl
@[simp] theorem State.dropRun_patches (s : State) (n : Nat) : (s.dropRun n).patches = s.patches := rfl
@[simp] theorem State.dropRun_bolts (s : State) (n : Nat) : (s.dropRun n).bolts = s.bolts := rfl
@[simp] theorem State.dropRun_memSide (s : State) (n : Nat) : (s.dropRun n).memSide = s.memSide := rfl
@[simp] theorem State.dropRun_ports (s : State) (n : Nat) : (s.dropRun n).ports = s.ports := rfl
@[simp] theorem State.dropRun_edgePorts (s : State) (n : Nat) : (s.dropRun n).edgePorts = s.edgePorts := rfl
@[simp] theorem State.dropRun_segWindows (s : State) (n : Nat) : (s.dropRun n).segWindows = s.segWindows := rfl
@[simp] theorem State.dropRun_groups (s : State) (n : Nat) : (s.dropRun n).groups = s.groups := rfl
@[simp] theorem State.dropRun_posts (s : State) (n : Nat) : (s.dropRun n).posts = s.posts := rfl
@[simp] theorem State.dropRun_domain (s : State) (n : Nat) : (s.dropRun n).domain = s.domain := rfl
@[simp] theorem State.dropRun_bases (s : State) (n : Nat) : (s.dropRun n).bases = s.bases := rfl
@[simp] theorem State.dropRun_power (s : State) (n : Nat) : (s.dropRun n).power = s.power := rfl
@[simp] theorem State.dropRun_rel (s : State) (n : Nat) : (s.dropRun n).rel = s.rel := rfl
@[simp] theorem State.dropRun_sec (s : State) (n : Nat) : (s.dropRun n).sec = s.sec := rfl

/-! ### updSleeve -/

@[simp] theorem State.updSleeve_pending (s : State) (n : Nat) (f : Sleeve → Sleeve) : (s.updSleeve n f).pending = s.pending := rfl
@[simp] theorem State.updSleeve_out (s : State) (n : Nat) (f : Sleeve → Sleeve) : (s.updSleeve n f).out = s.out := rfl
@[simp] theorem State.updSleeve_freeCtr (s : State) (n : Nat) (f : Sleeve → Sleeve) : (s.updSleeve n f).freeCtr = s.freeCtr := rfl
@[simp] theorem State.updSleeve_board (s : State) (n : Nat) (f : Sleeve → Sleeve) : (s.updSleeve n f).board = s.board := rfl
@[simp] theorem State.updSleeve_store (s : State) (n : Nat) (f : Sleeve → Sleeve) : (s.updSleeve n f).store = s.store := rfl
@[simp] theorem State.updSleeve_dev (s : State) (n : Nat) (f : Sleeve → Sleeve) : (s.updSleeve n f).dev = s.dev := rfl
@[simp] theorem State.updSleeve_hif (s : State) (n : Nat) (f : Sleeve → Sleeve) : (s.updSleeve n f).hif = s.hif := rfl
@[simp] theorem State.updSleeve_mbx (s : State) (n : Nat) (f : Sleeve → Sleeve) : (s.updSleeve n f).mbx = s.mbx := rfl
@[simp] theorem State.updSleeve_evq (s : State) (n : Nat) (f : Sleeve → Sleeve) : (s.updSleeve n f).evq = s.evq := rfl
@[simp] theorem State.updSleeve_snap (s : State) (n : Nat) (f : Sleeve → Sleeve) : (s.updSleeve n f).snap = s.snap := rfl
@[simp] theorem State.updSleeve_session (s : State) (n : Nat) (f : Sleeve → Sleeve) : (s.updSleeve n f).session = s.session := rfl
@[simp] theorem State.updSleeve_admSqs (s : State) (n : Nat) (f : Sleeve → Sleeve) : (s.updSleeve n f).admSqs = s.admSqs := rfl
@[simp] theorem State.updSleeve_admCqs (s : State) (n : Nat) (f : Sleeve → Sleeve) : (s.updSleeve n f).admCqs = s.admCqs := rfl
@[simp] theorem State.updSleeve_admAccepted (s : State) (n : Nat) (f : Sleeve → Sleeve) : (s.updSleeve n f).admAccepted = s.admAccepted := rfl
@[simp] theorem State.updSleeve_admHeaders (s : State) (n : Nat) (f : Sleeve → Sleeve) : (s.updSleeve n f).admHeaders = s.admHeaders := rfl
@[simp] theorem State.updSleeve_time (s : State) (n : Nat) (f : Sleeve → Sleeve) : (s.updSleeve n f).time = s.time := rfl
@[simp] theorem State.updSleeve_runs (s : State) (n : Nat) (f : Sleeve → Sleeve) : (s.updSleeve n f).runs = s.runs := rfl
@[simp] theorem State.updSleeve_nextRun (s : State) (n : Nat) (f : Sleeve → Sleeve) : (s.updSleeve n f).nextRun = s.nextRun := rfl
@[simp] theorem State.updSleeve_tenants (s : State) (n : Nat) (f : Sleeve → Sleeve) : (s.updSleeve n f).tenants = s.tenants := rfl
@[simp] theorem State.updSleeve_patches (s : State) (n : Nat) (f : Sleeve → Sleeve) : (s.updSleeve n f).patches = s.patches := rfl
@[simp] theorem State.updSleeve_bolts (s : State) (n : Nat) (f : Sleeve → Sleeve) : (s.updSleeve n f).bolts = s.bolts := rfl
@[simp] theorem State.updSleeve_memSide (s : State) (n : Nat) (f : Sleeve → Sleeve) : (s.updSleeve n f).memSide = s.memSide := rfl
@[simp] theorem State.updSleeve_ports (s : State) (n : Nat) (f : Sleeve → Sleeve) : (s.updSleeve n f).ports = s.ports := rfl
@[simp] theorem State.updSleeve_edgePorts (s : State) (n : Nat) (f : Sleeve → Sleeve) : (s.updSleeve n f).edgePorts = s.edgePorts := rfl
@[simp] theorem State.updSleeve_segWindows (s : State) (n : Nat) (f : Sleeve → Sleeve) : (s.updSleeve n f).segWindows = s.segWindows := rfl
@[simp] theorem State.updSleeve_groups (s : State) (n : Nat) (f : Sleeve → Sleeve) : (s.updSleeve n f).groups = s.groups := rfl
@[simp] theorem State.updSleeve_posts (s : State) (n : Nat) (f : Sleeve → Sleeve) : (s.updSleeve n f).posts = s.posts := rfl
@[simp] theorem State.updSleeve_domain (s : State) (n : Nat) (f : Sleeve → Sleeve) : (s.updSleeve n f).domain = s.domain := rfl
@[simp] theorem State.updSleeve_bases (s : State) (n : Nat) (f : Sleeve → Sleeve) : (s.updSleeve n f).bases = s.bases := rfl
@[simp] theorem State.updSleeve_power (s : State) (n : Nat) (f : Sleeve → Sleeve) : (s.updSleeve n f).power = s.power := rfl
@[simp] theorem State.updSleeve_rel (s : State) (n : Nat) (f : Sleeve → Sleeve) : (s.updSleeve n f).rel = s.rel := rfl
@[simp] theorem State.updSleeve_sec (s : State) (n : Nat) (f : Sleeve → Sleeve) : (s.updSleeve n f).sec = s.sec := rfl

/-! ### updPort -/

@[simp] theorem State.updPort_pending (s : State) (p : Nat) (f : Port → Port) : (s.updPort p f).pending = s.pending := rfl
@[simp] theorem State.updPort_out (s : State) (p : Nat) (f : Port → Port) : (s.updPort p f).out = s.out := rfl
@[simp] theorem State.updPort_freeCtr (s : State) (p : Nat) (f : Port → Port) : (s.updPort p f).freeCtr = s.freeCtr := rfl
@[simp] theorem State.updPort_board (s : State) (p : Nat) (f : Port → Port) : (s.updPort p f).board = s.board := rfl
@[simp] theorem State.updPort_store (s : State) (p : Nat) (f : Port → Port) : (s.updPort p f).store = s.store := rfl
@[simp] theorem State.updPort_dev (s : State) (p : Nat) (f : Port → Port) : (s.updPort p f).dev = s.dev := rfl
@[simp] theorem State.updPort_hif (s : State) (p : Nat) (f : Port → Port) : (s.updPort p f).hif = s.hif := rfl
@[simp] theorem State.updPort_mbx (s : State) (p : Nat) (f : Port → Port) : (s.updPort p f).mbx = s.mbx := rfl
@[simp] theorem State.updPort_evq (s : State) (p : Nat) (f : Port → Port) : (s.updPort p f).evq = s.evq := rfl
@[simp] theorem State.updPort_snap (s : State) (p : Nat) (f : Port → Port) : (s.updPort p f).snap = s.snap := rfl
@[simp] theorem State.updPort_session (s : State) (p : Nat) (f : Port → Port) : (s.updPort p f).session = s.session := rfl
@[simp] theorem State.updPort_admSqs (s : State) (p : Nat) (f : Port → Port) : (s.updPort p f).admSqs = s.admSqs := rfl
@[simp] theorem State.updPort_admCqs (s : State) (p : Nat) (f : Port → Port) : (s.updPort p f).admCqs = s.admCqs := rfl
@[simp] theorem State.updPort_admAccepted (s : State) (p : Nat) (f : Port → Port) : (s.updPort p f).admAccepted = s.admAccepted := rfl
@[simp] theorem State.updPort_admHeaders (s : State) (p : Nat) (f : Port → Port) : (s.updPort p f).admHeaders = s.admHeaders := rfl
@[simp] theorem State.updPort_sleeves (s : State) (p : Nat) (f : Port → Port) : (s.updPort p f).sleeves = s.sleeves := rfl
@[simp] theorem State.updPort_time (s : State) (p : Nat) (f : Port → Port) : (s.updPort p f).time = s.time := rfl
@[simp] theorem State.updPort_runs (s : State) (p : Nat) (f : Port → Port) : (s.updPort p f).runs = s.runs := rfl
@[simp] theorem State.updPort_nextRun (s : State) (p : Nat) (f : Port → Port) : (s.updPort p f).nextRun = s.nextRun := rfl
@[simp] theorem State.updPort_tenants (s : State) (p : Nat) (f : Port → Port) : (s.updPort p f).tenants = s.tenants := rfl
@[simp] theorem State.updPort_patches (s : State) (p : Nat) (f : Port → Port) : (s.updPort p f).patches = s.patches := rfl
@[simp] theorem State.updPort_bolts (s : State) (p : Nat) (f : Port → Port) : (s.updPort p f).bolts = s.bolts := rfl
@[simp] theorem State.updPort_memSide (s : State) (p : Nat) (f : Port → Port) : (s.updPort p f).memSide = s.memSide := rfl
@[simp] theorem State.updPort_edgePorts (s : State) (p : Nat) (f : Port → Port) : (s.updPort p f).edgePorts = s.edgePorts := rfl
@[simp] theorem State.updPort_segWindows (s : State) (p : Nat) (f : Port → Port) : (s.updPort p f).segWindows = s.segWindows := rfl
@[simp] theorem State.updPort_groups (s : State) (p : Nat) (f : Port → Port) : (s.updPort p f).groups = s.groups := rfl
@[simp] theorem State.updPort_posts (s : State) (p : Nat) (f : Port → Port) : (s.updPort p f).posts = s.posts := rfl
@[simp] theorem State.updPort_domain (s : State) (p : Nat) (f : Port → Port) : (s.updPort p f).domain = s.domain := rfl
@[simp] theorem State.updPort_bases (s : State) (p : Nat) (f : Port → Port) : (s.updPort p f).bases = s.bases := rfl
@[simp] theorem State.updPort_power (s : State) (p : Nat) (f : Port → Port) : (s.updPort p f).power = s.power := rfl
@[simp] theorem State.updPort_rel (s : State) (p : Nat) (f : Port → Port) : (s.updPort p f).rel = s.rel := rfl
@[simp] theorem State.updPort_sec (s : State) (p : Nat) (f : Port → Port) : (s.updPort p f).sec = s.sec := rfl

/-! ### updSlot -/

@[simp] theorem State.updSlot_pending (s : State) (n : Nat) (f : Slot → Slot) : (s.updSlot n f).pending = s.pending := rfl
@[simp] theorem State.updSlot_out (s : State) (n : Nat) (f : Slot → Slot) : (s.updSlot n f).out = s.out := rfl
@[simp] theorem State.updSlot_freeCtr (s : State) (n : Nat) (f : Slot → Slot) : (s.updSlot n f).freeCtr = s.freeCtr := rfl
@[simp] theorem State.updSlot_board (s : State) (n : Nat) (f : Slot → Slot) : (s.updSlot n f).board = s.board := rfl
@[simp] theorem State.updSlot_store (s : State) (n : Nat) (f : Slot → Slot) : (s.updSlot n f).store = s.store := rfl
@[simp] theorem State.updSlot_dev (s : State) (n : Nat) (f : Slot → Slot) : (s.updSlot n f).dev = s.dev := rfl
@[simp] theorem State.updSlot_hif (s : State) (n : Nat) (f : Slot → Slot) : (s.updSlot n f).hif = s.hif := rfl
@[simp] theorem State.updSlot_mbx (s : State) (n : Nat) (f : Slot → Slot) : (s.updSlot n f).mbx = s.mbx := rfl
@[simp] theorem State.updSlot_evq (s : State) (n : Nat) (f : Slot → Slot) : (s.updSlot n f).evq = s.evq := rfl
@[simp] theorem State.updSlot_snap (s : State) (n : Nat) (f : Slot → Slot) : (s.updSlot n f).snap = s.snap := rfl
@[simp] theorem State.updSlot_session (s : State) (n : Nat) (f : Slot → Slot) : (s.updSlot n f).session = s.session := rfl
@[simp] theorem State.updSlot_admSqs (s : State) (n : Nat) (f : Slot → Slot) : (s.updSlot n f).admSqs = s.admSqs := rfl
@[simp] theorem State.updSlot_admCqs (s : State) (n : Nat) (f : Slot → Slot) : (s.updSlot n f).admCqs = s.admCqs := rfl
@[simp] theorem State.updSlot_admAccepted (s : State) (n : Nat) (f : Slot → Slot) : (s.updSlot n f).admAccepted = s.admAccepted := rfl
@[simp] theorem State.updSlot_admHeaders (s : State) (n : Nat) (f : Slot → Slot) : (s.updSlot n f).admHeaders = s.admHeaders := rfl
@[simp] theorem State.updSlot_sleeves (s : State) (n : Nat) (f : Slot → Slot) : (s.updSlot n f).sleeves = s.sleeves := rfl
@[simp] theorem State.updSlot_time (s : State) (n : Nat) (f : Slot → Slot) : (s.updSlot n f).time = s.time := rfl
@[simp] theorem State.updSlot_runs (s : State) (n : Nat) (f : Slot → Slot) : (s.updSlot n f).runs = s.runs := rfl
@[simp] theorem State.updSlot_nextRun (s : State) (n : Nat) (f : Slot → Slot) : (s.updSlot n f).nextRun = s.nextRun := rfl
@[simp] theorem State.updSlot_tenants (s : State) (n : Nat) (f : Slot → Slot) : (s.updSlot n f).tenants = s.tenants := rfl
@[simp] theorem State.updSlot_patches (s : State) (n : Nat) (f : Slot → Slot) : (s.updSlot n f).patches = s.patches := rfl
@[simp] theorem State.updSlot_bolts (s : State) (n : Nat) (f : Slot → Slot) : (s.updSlot n f).bolts = s.bolts := rfl
@[simp] theorem State.updSlot_memSide (s : State) (n : Nat) (f : Slot → Slot) : (s.updSlot n f).memSide = s.memSide := rfl
@[simp] theorem State.updSlot_ports (s : State) (n : Nat) (f : Slot → Slot) : (s.updSlot n f).ports = s.ports := rfl
@[simp] theorem State.updSlot_edgePorts (s : State) (n : Nat) (f : Slot → Slot) : (s.updSlot n f).edgePorts = s.edgePorts := rfl
@[simp] theorem State.updSlot_segWindows (s : State) (n : Nat) (f : Slot → Slot) : (s.updSlot n f).segWindows = s.segWindows := rfl
@[simp] theorem State.updSlot_groups (s : State) (n : Nat) (f : Slot → Slot) : (s.updSlot n f).groups = s.groups := rfl
@[simp] theorem State.updSlot_posts (s : State) (n : Nat) (f : Slot → Slot) : (s.updSlot n f).posts = s.posts := rfl
@[simp] theorem State.updSlot_domain (s : State) (n : Nat) (f : Slot → Slot) : (s.updSlot n f).domain = s.domain := rfl
@[simp] theorem State.updSlot_power (s : State) (n : Nat) (f : Slot → Slot) : (s.updSlot n f).power = s.power := rfl
@[simp] theorem State.updSlot_rel (s : State) (n : Nat) (f : Slot → Slot) : (s.updSlot n f).rel = s.rel := rfl
@[simp] theorem State.updSlot_sec (s : State) (n : Nat) (f : Slot → Slot) : (s.updSlot n f).sec = s.sec := rfl

/-! ### updPatch -/

@[simp] theorem State.updPatch_pending (s : State) (h : Nat) (f : Patch → Patch) : (s.updPatch h f).pending = s.pending := rfl
@[simp] theorem State.updPatch_out (s : State) (h : Nat) (f : Patch → Patch) : (s.updPatch h f).out = s.out := rfl
@[simp] theorem State.updPatch_freeCtr (s : State) (h : Nat) (f : Patch → Patch) : (s.updPatch h f).freeCtr = s.freeCtr := rfl
@[simp] theorem State.updPatch_board (s : State) (h : Nat) (f : Patch → Patch) : (s.updPatch h f).board = s.board := rfl
@[simp] theorem State.updPatch_store (s : State) (h : Nat) (f : Patch → Patch) : (s.updPatch h f).store = s.store := rfl
@[simp] theorem State.updPatch_dev (s : State) (h : Nat) (f : Patch → Patch) : (s.updPatch h f).dev = s.dev := rfl
@[simp] theorem State.updPatch_hif (s : State) (h : Nat) (f : Patch → Patch) : (s.updPatch h f).hif = s.hif := rfl
@[simp] theorem State.updPatch_mbx (s : State) (h : Nat) (f : Patch → Patch) : (s.updPatch h f).mbx = s.mbx := rfl
@[simp] theorem State.updPatch_evq (s : State) (h : Nat) (f : Patch → Patch) : (s.updPatch h f).evq = s.evq := rfl
@[simp] theorem State.updPatch_snap (s : State) (h : Nat) (f : Patch → Patch) : (s.updPatch h f).snap = s.snap := rfl
@[simp] theorem State.updPatch_session (s : State) (h : Nat) (f : Patch → Patch) : (s.updPatch h f).session = s.session := rfl
@[simp] theorem State.updPatch_admSqs (s : State) (h : Nat) (f : Patch → Patch) : (s.updPatch h f).admSqs = s.admSqs := rfl
@[simp] theorem State.updPatch_admCqs (s : State) (h : Nat) (f : Patch → Patch) : (s.updPatch h f).admCqs = s.admCqs := rfl
@[simp] theorem State.updPatch_admAccepted (s : State) (h : Nat) (f : Patch → Patch) : (s.updPatch h f).admAccepted = s.admAccepted := rfl
@[simp] theorem State.updPatch_admHeaders (s : State) (h : Nat) (f : Patch → Patch) : (s.updPatch h f).admHeaders = s.admHeaders := rfl
@[simp] theorem State.updPatch_sleeves (s : State) (h : Nat) (f : Patch → Patch) : (s.updPatch h f).sleeves = s.sleeves := rfl
@[simp] theorem State.updPatch_time (s : State) (h : Nat) (f : Patch → Patch) : (s.updPatch h f).time = s.time := rfl
@[simp] theorem State.updPatch_runs (s : State) (h : Nat) (f : Patch → Patch) : (s.updPatch h f).runs = s.runs := rfl
@[simp] theorem State.updPatch_nextRun (s : State) (h : Nat) (f : Patch → Patch) : (s.updPatch h f).nextRun = s.nextRun := rfl
@[simp] theorem State.updPatch_tenants (s : State) (h : Nat) (f : Patch → Patch) : (s.updPatch h f).tenants = s.tenants := rfl
@[simp] theorem State.updPatch_bolts (s : State) (h : Nat) (f : Patch → Patch) : (s.updPatch h f).bolts = s.bolts := rfl
@[simp] theorem State.updPatch_memSide (s : State) (h : Nat) (f : Patch → Patch) : (s.updPatch h f).memSide = s.memSide := rfl
@[simp] theorem State.updPatch_ports (s : State) (h : Nat) (f : Patch → Patch) : (s.updPatch h f).ports = s.ports := rfl
@[simp] theorem State.updPatch_edgePorts (s : State) (h : Nat) (f : Patch → Patch) : (s.updPatch h f).edgePorts = s.edgePorts := rfl
@[simp] theorem State.updPatch_segWindows (s : State) (h : Nat) (f : Patch → Patch) : (s.updPatch h f).segWindows = s.segWindows := rfl
@[simp] theorem State.updPatch_groups (s : State) (h : Nat) (f : Patch → Patch) : (s.updPatch h f).groups = s.groups := rfl
@[simp] theorem State.updPatch_posts (s : State) (h : Nat) (f : Patch → Patch) : (s.updPatch h f).posts = s.posts := rfl
@[simp] theorem State.updPatch_domain (s : State) (h : Nat) (f : Patch → Patch) : (s.updPatch h f).domain = s.domain := rfl
@[simp] theorem State.updPatch_bases (s : State) (h : Nat) (f : Patch → Patch) : (s.updPatch h f).bases = s.bases := rfl
@[simp] theorem State.updPatch_power (s : State) (h : Nat) (f : Patch → Patch) : (s.updPatch h f).power = s.power := rfl
@[simp] theorem State.updPatch_rel (s : State) (h : Nat) (f : Patch → Patch) : (s.updPatch h f).rel = s.rel := rfl
@[simp] theorem State.updPatch_sec (s : State) (h : Nat) (f : Patch → Patch) : (s.updPatch h f).sec = s.sec := rfl

/-! ### emit -/

@[simp] theorem State.emit_pending (s : State) (o : Output) : (s.emit o).pending = s.pending := rfl
@[simp] theorem State.emit_freeCtr (s : State) (o : Output) : (s.emit o).freeCtr = s.freeCtr := rfl
@[simp] theorem State.emit_board (s : State) (o : Output) : (s.emit o).board = s.board := rfl
@[simp] theorem State.emit_store (s : State) (o : Output) : (s.emit o).store = s.store := rfl
@[simp] theorem State.emit_dev (s : State) (o : Output) : (s.emit o).dev = s.dev := rfl
@[simp] theorem State.emit_hif (s : State) (o : Output) : (s.emit o).hif = s.hif := rfl
@[simp] theorem State.emit_mbx (s : State) (o : Output) : (s.emit o).mbx = s.mbx := rfl
@[simp] theorem State.emit_evq (s : State) (o : Output) : (s.emit o).evq = s.evq := rfl
@[simp] theorem State.emit_snap (s : State) (o : Output) : (s.emit o).snap = s.snap := rfl
@[simp] theorem State.emit_session (s : State) (o : Output) : (s.emit o).session = s.session := rfl
@[simp] theorem State.emit_admSqs (s : State) (o : Output) : (s.emit o).admSqs = s.admSqs := rfl
@[simp] theorem State.emit_admCqs (s : State) (o : Output) : (s.emit o).admCqs = s.admCqs := rfl
@[simp] theorem State.emit_admAccepted (s : State) (o : Output) : (s.emit o).admAccepted = s.admAccepted := rfl
@[simp] theorem State.emit_admHeaders (s : State) (o : Output) : (s.emit o).admHeaders = s.admHeaders := rfl
@[simp] theorem State.emit_sleeves (s : State) (o : Output) : (s.emit o).sleeves = s.sleeves := rfl
@[simp] theorem State.emit_time (s : State) (o : Output) : (s.emit o).time = s.time := rfl
@[simp] theorem State.emit_runs (s : State) (o : Output) : (s.emit o).runs = s.runs := rfl
@[simp] theorem State.emit_nextRun (s : State) (o : Output) : (s.emit o).nextRun = s.nextRun := rfl
@[simp] theorem State.emit_tenants (s : State) (o : Output) : (s.emit o).tenants = s.tenants := rfl
@[simp] theorem State.emit_patches (s : State) (o : Output) : (s.emit o).patches = s.patches := rfl
@[simp] theorem State.emit_bolts (s : State) (o : Output) : (s.emit o).bolts = s.bolts := rfl
@[simp] theorem State.emit_memSide (s : State) (o : Output) : (s.emit o).memSide = s.memSide := rfl
@[simp] theorem State.emit_ports (s : State) (o : Output) : (s.emit o).ports = s.ports := rfl
@[simp] theorem State.emit_edgePorts (s : State) (o : Output) : (s.emit o).edgePorts = s.edgePorts := rfl
@[simp] theorem State.emit_segWindows (s : State) (o : Output) : (s.emit o).segWindows = s.segWindows := rfl
@[simp] theorem State.emit_groups (s : State) (o : Output) : (s.emit o).groups = s.groups := rfl
@[simp] theorem State.emit_posts (s : State) (o : Output) : (s.emit o).posts = s.posts := rfl
@[simp] theorem State.emit_domain (s : State) (o : Output) : (s.emit o).domain = s.domain := rfl
@[simp] theorem State.emit_bases (s : State) (o : Output) : (s.emit o).bases = s.bases := rfl
@[simp] theorem State.emit_power (s : State) (o : Output) : (s.emit o).power = s.power := rfl
@[simp] theorem State.emit_rel (s : State) (o : Output) : (s.emit o).rel = s.rel := rfl
@[simp] theorem State.emit_sec (s : State) (o : Output) : (s.emit o).sec = s.sec := rfl

@[simp] theorem State.emit_out (s : State) (o : Output) : (s.emit o).out = s.out ++ [o] := rfl

/-! ### What the accessors read after an update -/

@[simp] theorem State.bolt_setBolt_same (s : State) (b : Nat) (v : Bolt) : (s.setBolt b v).bolt b = v :=
  look_put_same ({} : Bolt) s.bolts b v

theorem State.bolt_setBolt_other (s : State) (b x : Nat) (v : Bolt) (h : x ≠ b) : (s.setBolt b v).bolt x = s.bolt x :=
  look_put_other ({} : Bolt) s.bolts b x v h

@[simp] theorem State.bolt_updBolt_same (s : State) (b : Nat) (f : Bolt → Bolt) : (s.updBolt b f).bolt b = f (s.bolt b) :=
  look_put_same ({} : Bolt) s.bolts b _

theorem State.bolt_updBolt_other (s : State) (b x : Nat) (f : Bolt → Bolt) (h : x ≠ b) :
    (s.updBolt b f).bolt x = s.bolt x :=
  look_put_other ({} : Bolt) s.bolts b x _ h

@[simp] theorem State.bolt_updRun (s : State) (n b : Nat) (f : Run → Run) : (s.updRun n f).bolt b = s.bolt b := rfl

@[simp] theorem State.port_updPort_same (s : State) (p : Nat) (f : Port → Port) : (s.updPort p f).port p = f (s.port p) :=
  look_put_same ({} : Port) s.ports p _

theorem State.port_updPort_other (s : State) (p x : Nat) (f : Port → Port) (h : x ≠ p) :
    (s.updPort p f).port x = s.port x :=
  look_put_other ({} : Port) s.ports p x _ h

@[simp] theorem State.slot_updSlot_same (s : State) (n : Nat) (f : Slot → Slot) : (s.updSlot n f).slot n = f (s.slot n) :=
  look_put_same ({} : Slot) s.bases.slots n _

theorem State.slot_updSlot_other (s : State) (n x : Nat) (f : Slot → Slot) (h : x ≠ n) :
    (s.updSlot n f).slot x = s.slot x :=
  look_put_other ({} : Slot) s.bases.slots n x _ h

/-! ### event: nothing but the event queue -/

@[simp] theorem State.event_pending (s : State) (t v : Nat) (l : List (Nat × Nat × Nat)) : (s.event t v l).pending = s.pending := by
  unfold State.event; split <;> rfl
@[simp] theorem State.event_out (s : State) (t v : Nat) (l : List (Nat × Nat × Nat)) : (s.event t v l).out = s.out := by
  unfold State.event; split <;> rfl
@[simp] theorem State.event_freeCtr (s : State) (t v : Nat) (l : List (Nat × Nat × Nat)) : (s.event t v l).freeCtr = s.freeCtr := by
  unfold State.event; split <;> rfl
@[simp] theorem State.event_board (s : State) (t v : Nat) (l : List (Nat × Nat × Nat)) : (s.event t v l).board = s.board := by
  unfold State.event; split <;> rfl
@[simp] theorem State.event_store (s : State) (t v : Nat) (l : List (Nat × Nat × Nat)) : (s.event t v l).store = s.store := by
  unfold State.event; split <;> rfl
@[simp] theorem State.event_dev (s : State) (t v : Nat) (l : List (Nat × Nat × Nat)) : (s.event t v l).dev = s.dev := by
  unfold State.event; split <;> rfl
@[simp] theorem State.event_hif (s : State) (t v : Nat) (l : List (Nat × Nat × Nat)) : (s.event t v l).hif = s.hif := by
  unfold State.event; split <;> rfl
@[simp] theorem State.event_mbx (s : State) (t v : Nat) (l : List (Nat × Nat × Nat)) : (s.event t v l).mbx = s.mbx := by
  unfold State.event; split <;> rfl
@[simp] theorem State.event_snap (s : State) (t v : Nat) (l : List (Nat × Nat × Nat)) : (s.event t v l).snap = s.snap := by
  unfold State.event; split <;> rfl
@[simp] theorem State.event_session (s : State) (t v : Nat) (l : List (Nat × Nat × Nat)) : (s.event t v l).session = s.session := by
  unfold State.event; split <;> rfl
@[simp] theorem State.event_admSqs (s : State) (t v : Nat) (l : List (Nat × Nat × Nat)) : (s.event t v l).admSqs = s.admSqs := by
  unfold State.event; split <;> rfl
@[simp] theorem State.event_admCqs (s : State) (t v : Nat) (l : List (Nat × Nat × Nat)) : (s.event t v l).admCqs = s.admCqs := by
  unfold State.event; split <;> rfl
@[simp] theorem State.event_admAccepted (s : State) (t v : Nat) (l : List (Nat × Nat × Nat)) : (s.event t v l).admAccepted = s.admAccepted := by
  unfold State.event; split <;> rfl
@[simp] theorem State.event_admHeaders (s : State) (t v : Nat) (l : List (Nat × Nat × Nat)) : (s.event t v l).admHeaders = s.admHeaders := by
  unfold State.event; split <;> rfl
@[simp] theorem State.event_sleeves (s : State) (t v : Nat) (l : List (Nat × Nat × Nat)) : (s.event t v l).sleeves = s.sleeves := by
  unfold State.event; split <;> rfl
@[simp] theorem State.event_time (s : State) (t v : Nat) (l : List (Nat × Nat × Nat)) : (s.event t v l).time = s.time := by
  unfold State.event; split <;> rfl
@[simp] theorem State.event_runs (s : State) (t v : Nat) (l : List (Nat × Nat × Nat)) : (s.event t v l).runs = s.runs := by
  unfold State.event; split <;> rfl
@[simp] theorem State.event_nextRun (s : State) (t v : Nat) (l : List (Nat × Nat × Nat)) : (s.event t v l).nextRun = s.nextRun := by
  unfold State.event; split <;> rfl
@[simp] theorem State.event_tenants (s : State) (t v : Nat) (l : List (Nat × Nat × Nat)) : (s.event t v l).tenants = s.tenants := by
  unfold State.event; split <;> rfl
@[simp] theorem State.event_patches (s : State) (t v : Nat) (l : List (Nat × Nat × Nat)) : (s.event t v l).patches = s.patches := by
  unfold State.event; split <;> rfl
@[simp] theorem State.event_bolts (s : State) (t v : Nat) (l : List (Nat × Nat × Nat)) : (s.event t v l).bolts = s.bolts := by
  unfold State.event; split <;> rfl
@[simp] theorem State.event_memSide (s : State) (t v : Nat) (l : List (Nat × Nat × Nat)) : (s.event t v l).memSide = s.memSide := by
  unfold State.event; split <;> rfl
@[simp] theorem State.event_ports (s : State) (t v : Nat) (l : List (Nat × Nat × Nat)) : (s.event t v l).ports = s.ports := by
  unfold State.event; split <;> rfl
@[simp] theorem State.event_edgePorts (s : State) (t v : Nat) (l : List (Nat × Nat × Nat)) : (s.event t v l).edgePorts = s.edgePorts := by
  unfold State.event; split <;> rfl
@[simp] theorem State.event_segWindows (s : State) (t v : Nat) (l : List (Nat × Nat × Nat)) : (s.event t v l).segWindows = s.segWindows := by
  unfold State.event; split <;> rfl
@[simp] theorem State.event_groups (s : State) (t v : Nat) (l : List (Nat × Nat × Nat)) : (s.event t v l).groups = s.groups := by
  unfold State.event; split <;> rfl
@[simp] theorem State.event_posts (s : State) (t v : Nat) (l : List (Nat × Nat × Nat)) : (s.event t v l).posts = s.posts := by
  unfold State.event; split <;> rfl
@[simp] theorem State.event_domain (s : State) (t v : Nat) (l : List (Nat × Nat × Nat)) : (s.event t v l).domain = s.domain := by
  unfold State.event; split <;> rfl
@[simp] theorem State.event_bases (s : State) (t v : Nat) (l : List (Nat × Nat × Nat)) : (s.event t v l).bases = s.bases := by
  unfold State.event; split <;> rfl
@[simp] theorem State.event_power (s : State) (t v : Nat) (l : List (Nat × Nat × Nat)) : (s.event t v l).power = s.power := by
  unfold State.event; split <;> rfl
@[simp] theorem State.event_rel (s : State) (t v : Nat) (l : List (Nat × Nat × Nat)) : (s.event t v l).rel = s.rel := by
  unfold State.event; split <;> rfl
@[simp] theorem State.event_sec (s : State) (t v : Nat) (l : List (Nat × Nat × Nat)) : (s.event t v l).sec = s.sec := by
  unfold State.event; split <;> rfl

end Sys2Proof.Machine
end

