-- ==== Sys2Proof/WellFormed.lean ====
section
/-! DEFINITION. Well-formed commands: every operand within the field that carries it, and every number of a bolt, port,
sleeve, slot or sensor one that the module has. Values that a field can carry and the module refuses (a reserved code, a
handle nobody holds) are well formed: the meanings refuse them. -/
namespace Sys2Proof

/-- A number of `n` bits. -/
def fits (n v : Nat) : Bool := decide (v < 2 ^ n)

/-- A bolt number (R17). -/
def boltNo (b : Nat) : Bool := decide (b < 16)
/-- A Seam port number (R262). -/
def portNo (p : Nat) : Bool := decide (p < 48)
/-- A base slot number (R337). -/
def slotNo (n : Nat) : Bool := decide (n < 4)
/-- A memory-side die number (R17). -/
def memDieNo (n : Nat) : Bool := decide (n < 4)
/-- A die as R400 codes it. -/
def dieNo (n : Nat) : Bool := decide (n ≤ 8)
/-- A temperature sensor (R529). -/
def sensorNo (n : Nat) : Bool := decide (n < 82)
/-- A sleeve number (R401). -/
def sleeveNo (n : Nat) : Bool := decide (n < 16)
/-- A stitch number (R25). -/
def stitchNo (n : Nat) : Bool := fits 48 n
/-- A node number (R315). -/
def nodeNo (n : Nat) : Bool := fits 16 n
/-- A PASID as a payload field carries it (R383). -/
def pasidField (n : Nat) : Bool := fits 32 n

/-- The SLEEVE byte of a mailbox header (R382). -/
def MbxHdr.wf (h : MbxHdr) : Bool := fits 8 h.sleeve

/-- An owner of queues. -/
def Owner.wf : Owner → Bool
  | .admin => true
  | .sleeve n => sleeveNo n

/-- An address field (R385). -/
def Addr.wf (a : Addr) : Bool := fits 2 a.space && fits 48 a.addr

/-- A reference (R386). -/
def PredRef.wf (p : PredRef) : Bool := fits 3 p.queue && fits 12 p.slot

/-- A descriptor header (R384). -/
def QHdr.wf (h : QHdr) : Bool :=
  h.owner.wf && fits 3 h.queue && fits 12 h.slot && fits 2 h.gradMode && fits 16 h.deadline && fits 16 h.base && fits 16 h.pattern &&
  decide (h.preds.length ≤ 4) && h.preds.all PredRef.wf && (match h.oppt with | some o => fits 3 o | none => true) &&
  h.args.wf && fits 32 h.argsLen && h.statsAddr.wf && fits 32 h.statsLen

/-- An argument block (R387). -/
def ArgBlock.wf (a : ArgBlock) : Bool :=
  decide (a.scalars.length = 30 ∧ a.overrides.length = a.novr) && fits 16 a.novr &&
  a.overrides.all fun o => fits 5 o.cursor && fits 48 o.base && fits 48 o.sbase

/-- An update parameter block (R170). -/
def UpdateBlock.wf (u : UpdateBlock) : Bool := fits 8 u.kind && fits 32 u.step

/-- A patch descriptor (R110, R133). -/
def PatchDesc.wf (d : PatchDesc) : Bool :=
  fits 16 d.tenant && fits 16 d.base && fits 8 d.rankCode && fits 16 d.layers.length && d.layers.all (fits 16) && fits 8 d.darns.length &&
  d.darns.all fun x => fits 32 x.rows && fits 3 x.slot && fits 4 x.kind && fits 16 x.layer

/-- A sealed patch image (R441). -/
def SealedImage.wf (i : SealedImage) : Bool := fits 16 i.version && fits 16 i.tenant && fits 64 i.plainBytes

/-- A group parameter block (R290). -/
def GroupBlock.wf (b : GroupBlock) : Bool :=
  fits 8 b.group && fits 8 b.format && fits 8 b.headroom && fits 8 b.schedule && fits 16 b.keyId && fits 8 b.width &&
  fits 16 b.members.length && b.members.all nodeNo

/-- A flit (R264): the payload of its FEC mode, and at most the bytes that the mode corrects. -/
def Flit.wf (f : Flit) : Bool := decide ((f.payload.length = 240 ∧ f.corrected ≤ 4) ∨ (f.payload.length = 224 ∧ f.corrected ≤ 12))

/-- A segment header (R278). -/
def Segment.wf (g : Segment) : Bool :=
  fits 16 g.keyId && nodeNo g.src && nodeNo g.dst && decide (g.vc < 24) && fits 64 g.counter && decide (1 ≤ g.length ∧ g.length ≤ 65472)

/-- What training finds (R268, R269): three bit error rates of eight lanes. -/
def TrainResult.wf (t : TrainResult) : Bool :=
  decide (t.ber.length = 8) && (t.ber.all fun l => decide (l.length = 3)) && fits 8 t.peerConfig && fits 32 t.rtt &&
  nodeNo t.peerNode && fits 8 t.peerPort

/-- A block on its way between members (R286, R291, R311): 132 bytes, or 34 in an E1 group, whose ranks lie below 32,768. -/
def RedBlock.wf : RedBlock → Bool
  | .exponent _ => true
  | .shape rank _ => fits 15 rank
  | .bsr bytes => decide (bytes.length = 132)
  | .e1 rank bytes => fits 15 rank && decide (bytes.length = 34)

/-- A layer-table entry (R333). -/
def LayerEntry.wf (e : LayerEntry) : Bool :=
  fits 16 e.layer && fits 8 e.kind && fits 4 e.fmt && fits 4 e.rot && fits 32 e.k && fits 32 e.n && fits 16 e.experts && fits 4 e.shard &&
  fits 64 e.offset && fits 64 e.soffset

/-- A load operation (R332, R335). -/
def LoadOp.wf (o : LoadOp) : Bool :=
  decide (o.header.length = 64 ∧ o.members.length ≤ 8) && o.layers.all LayerEntry.wf && o.seeds.all nodeNo && o.members.all nodeNo && fits 15 o.jobKey && slotNo o.slot

/-- A management envelope (R446). -/
def MgmtHdr.wf (m : MgmtHdr) : Bool := fits 64 m.seq

/-- A roster (R318): at most the 512 modules of a domain. -/
def rosterWf (l : List RosterEntry) : Bool := decide (l.length ≤ 512) && l.all fun e => nodeNo e.node

/-- A domain profile (R315, R316). -/
def Profile.wf (p : Profile) : Bool := decide (p.domain < 64 ∧ p.index < 512) && fits 32 p.rosterGen && rosterWf p.roster

/-- A unit of a bolt (R221). -/
def UnitId.wf : UnitId → Bool
  | .matrix a => decide (a < 4)
  | .rail => true
  | .vector => true
  | .rotation => true
  | .streamer => true
  | .stack => true
  | .seam => true

/-- What an uncorrectable line holds. -/
def LineHolds.wf : LineHolds → Bool
  | .sleeveData s a => sleeveNo s && fits 48 a
  | .tableLine s a l => sleeveNo s && fits 48 a && decide (l < 4)
  | .baseLine n _ _ => slotNo n
  | .patchState p => fits 16 p
  | .stackFrame b l _ => boltNo b && decide (l < 4)
  | .bastedLine => true
  | .commitWrite => true
  | .pocket b p _ => boltNo b && fits 16 p

/-- Temperatures by sensor. -/
def tempsWf (l : List (Nat × Nat)) : Bool := l.all fun t => sensorNo t.1

/-- A host access: BAR 0, 2 or 4, or 7 for configuration space (log entry 5). -/
def accessWf (bar off width : Nat) : Bool := fits 3 bar && fits 32 off && decide (width = 1 ∨ width = 2 ∨ width = 4 ∨ width = 8)

/-- Well-formed commands. -/
def Instr.wf : Instr → Bool
  | .sqDoorbell page width _ => decide (page ≤ 16) && accessWf 2 0 width
  | .shadowLowWordRead bar off width => accessWf bar off width
  | .registerWrite bar off width _ => accessWf bar off width
  | .evqEnable _ => true
  | .snapshotRelease _ => true
  | .msixUnmask v => decide (v < 2048)
  | .openSession h major pasid => h.wf && fits 8 major && pasidField pasid
  | .closeSession h => h.wf
  | .createSleeve h _ memGib cxl seam power => h.wf && fits 32 memGib && fits 8 cxl && fits 8 seam && fits 16 power
  | .destroySleeve h => h.wf
  | .resetSleeve h => h.wf
  | .bindPasid h p => h.wf && pasidField p
  | .unbindPasid h p => h.wf && pasidField p
  | .createCq h cq vector pasid base slots head => h.wf && fits 8 cq && fits 16 vector && pasidField pasid && fits 64 base && fits 32 slots && fits 64 head
  | .createSq h queue cq _ pasid base slots => h.wf && fits 8 queue && fits 8 cq && pasidField pasid && fits 64 base && fits 32 slots
  | .deleteQueue h _ n => h.wf && fits 8 n
  | .restartSq h queue _ ci => h.wf && fits 8 queue && fits 32 ci
  | .kemGet h => h.wf
  | .keyEstablish h kind ct => h.wf && fits 8 kind && decide (ct.length = 1568)
  | .fwWrite h offset data => h.wf && fits 32 offset && fits 32 data.length
  | .fwActivate h _ => h.wf
  | .descriptorRead o queue bytes _ => o.wf && fits 3 queue && decide (bytes.length = 128)
  | .descriptorReread o queue bytes _ => o.wf && fits 3 queue && decide (bytes.length = 128)
  | .run h args => h.wf && args.wf
  | .update h block patches => h.wf && block.wf && patches.all (fits 16)
  | .kill h target => h.wf && target.wf
  | .fence h => h.wf
  | .regTenant h tenant key => h.wf && fits 16 tenant && fits 16 key
  | .deregTenant h tenant => h.wf && fits 16 tenant
  | .regPatch h desc image => h.wf && desc.wf && image.wf
  | .deregPatch h patch => h.wf && fits 16 patch
  | .exportPatch h patch dest len => h.wf && fits 16 patch && dest.wf && fits 32 len
  | .loadPattern h _ len => h.wf && fits 32 len
  | .freePattern h handle => h.wf && fits 16 handle
  | .setRecipe h _ kind _ => h.wf && fits 4 kind
  | .configStack h bolt lane size => h.wf && fits 4 bolt && fits 2 lane && fits 64 size
  | .map h base len page _ node => h.wf && fits 64 base && fits 64 len && fits 2 page && nodeNo node
  | .unmap h base len => h.wf && fits 64 base && fits 64 len
  | .setWindow h window _ _ pasid base len => h.wf && fits 8 window && pasidField pasid && fits 64 base && fits 64 len
  | .clearWindow h window => h.wf && fits 8 window
  | .createGroup h block => h.wf && block.wf
  | .destroyGroup h group => h.wf && fits 8 group
  | .snapshot h _ target offset => h.wf && stitchNo target && fits 32 offset
  | .snapshotDomain h _ target offset => h.wf && stitchNo target && fits 32 offset
  | .telemetryLink h dest len => h.wf && dest.wf && fits 32 len
  | .telemetryDomain h dest len => h.wf && dest.wf && fits 32 len
  | .telemetrySlowdown h dest len => h.wf && dest.wf && fits 32 len
  | .telemetryErrorLog h dest len => h.wf && dest.wf && fits 32 len
  | .telemetryPower h dest len => h.wf && dest.wf && fits 32 len
  | .setStitch h code => h.wf && fits 2 code
  | .setFloor h floor => h.wf && fits 8 floor
  | .openIngest h pasid base len => h.wf && pasidField pasid && fits 64 base && fits 64 len
  | .stitchEdge => true
  | .hemStart => true
  | .hostWriteGo => true
  | .hostWriteGoErr => true
  | .matrixPlain b => boltNo b
  | .matrixBackward b => boltNo b
  | .matrixConvolution b => boltNo b
  | .railForward b => boltNo b
  | .railBackward b => boltNo b
  | .vectorCopy b => boltNo b
  | .vectorAdd b => boltNo b
  | .vectorSubtract b => boltNo b
  | .vectorMultiply b => boltNo b
  | .vectorFma b => boltNo b
  | .vectorMinimum b => boltNo b
  | .vectorMaximum b => boltNo b
  | .vectorAbsoluteValue b => boltNo b
  | .vectorNegate b => boltNo b
  | .vectorLessThan b => boltNo b
  | .vectorEqual b => boltNo b
  | .vectorReciprocal b => boltNo b
  | .vectorSquareRoot b => boltNo b
  | .vectorReciprocalSquareRoot b => boltNo b
  | .vectorExp2 b => boltNo b
  | .vectorLog2 b => boltNo b
  | .vectorExp b => boltNo b
  | .vectorNaturalLog b => boltNo b
  | .vectorTanh b => boltNo b
  | .vectorSigmoid b => boltNo b
  | .vectorGelu b => boltNo b
  | .vectorSilu b => boltNo b
  | .vectorDivision b => boltNo b
  | .vectorRowSum b => boltNo b
  | .vectorRowMaximum b => boltNo b
  | .twoPlyAdd b => boltNo b
  | .rotate b => boltNo b
  | .streamLoad b _ => boltNo b
  | .streamStore b => boltNo b
  | .streamTload b => boltNo b
  | .stackPush b => boltNo b
  | .stackPop b => boltNo b
  | .stackPushT b => boltNo b
  | .stackPopT b => boltNo b
  | .stat b => boltNo b
  | .reduceGradient b => boltNo b
  | .reduceTensor b => boltNo b
  | .barrierBolts b => boltNo b
  | .barrierCollective b => boltNo b
  | .wait b => boltNo b
  | .drain b => boltNo b
  | .snap b => boltNo b
  | .loop b => boltNo b
  | .branchAlways b => boltNo b
  | .branchEq b => boltNo b
  | .branchNe b => boltNo b
  | .branchLt b => boltNo b
  | .branchGe b => boltNo b
  | .branchLast b => boltNo b
  | .branchEnd b => boltNo b
  | .primitiveComplete b unit => boltNo b && unit.wf
  | .waitRelease b => boltNo b
  | .barrierRelease b => boltNo b
  | .beadMeterOverrun b => boltNo b
  | .matrixUnitCold b array => boltNo b && decide (array < 4)
  | .keeperStallTimeout b array => boltNo b && decide (array < 4)
  | .boltStartSlot b => boltNo b
  | .pocketFill b patch layer => boltNo b && fits 16 patch && fits 16 layer
  | .droopDetect b _ => boltNo b
  | .droopRecover b => boltNo b
  | .droopSlackExhausted b => boltNo b
  | .lineUncorrectable holds die _ => holds.wf && memDieNo die
  | .pageRetire area dva => fits 23 area && fits 48 dva
  | .patrolScrub corrected => corrected.all fun c => fits 23 c.1 && fits 48 c.2
  | .lineSettle area line => fits 23 area && fits 41 line
  | .translationWalk b dva => boltNo b && fits 48 dva
  | .basePageRefetch slot _ data => slotNo slot && decide (data.length ≤ 65536)
  | .hostReadPoison b addr => boltNo b && fits 48 addr
  | .hostTranslationFault b addr => boltNo b && fits 48 addr
  | .atsTranslationCompletion pasid page _ _ _ _ => fits 20 pasid && fits 52 page
  | .atsInvalidation pasid page _ => fits 20 pasid && fits 52 page
  | .pageRequestResponse group _ => decide (group < 512)
  | .pageRequestTimeout group => decide (group < 512)
  | .snoop _ _ => true
  | .linkRecoveryEnter => true
  | .linkL0Return width rate => decide (width ≤ 16 ∧ rate ≤ 32)
  | .d3hotEnter => true
  | .d0Return => true
  | .conventionalHostReset _ => true
  | .teardownDone => true
  | .cqHeadPoll o cq _ => o.wf && fits 3 cq
  | .portSignalDetect p => portNo p
  | .portTrainingComplete p res => portNo p && res.wf
  | .portTrainingRetry p => portNo p
  | .portDown p _ => portNo p
  | .flitData p header payload crc fec => portNo p && (Flit.mk header payload crc fec).wf
  | .flitIdle p flit => portNo p && flit.wf
  | .flitLink p flit credits _ => portNo p && flit.wf && credits.all fun c => decide (c.1 < 24)
  | .segmentReceive p seg _ => portNo p && seg.wf
  | .edgeWord p _ _ => portNo p
  | .edgeMissed => true
  | .adrift => true
  | .tickRttMeasure p rtt => portNo p && fits 32 rtt
  | .barrierArrive p _ => portNo p
  | .barrierReleaseWord _ => true
  | .decideRelease _ => true
  | .decideAbort _ => true
  | .triggerWord _ => true
  | .snapshotTimedTrigger => true
  | .rosterUpdate gen roster => fits 32 gen && rosterWf roster
  | .collectiveCandidates node membership _ stitches _ => nodeNo node && decide (membership < 280) && decide (stitches.length ≤ 16) && stitches.all stitchNo
  | .collectivePlacement membership _ _ outcome _ => decide (membership < 280) && (match outcome with | some e => stitchNo e.stitch | none => true)
  | .portLossReport node port => nodeNo node && portNo port
  | .unravelReport node => nodeNo node
  | .arrivalMismatchReport node _ => nodeNo node
  | .leaveNotice node => nodeNo node
  | .leaveAck => true
  | .latencyRequirement _ => true
  | .standbyMirror mirror => fits 32 mirror.rosterGen && rosterWf mirror.roster
  | .keyDelivery handle kind _ => fits 16 handle && fits 2 kind
  | .stitchLengthAnnounce stitch code => stitchNo stitch && fits 2 code
  | .moduleJoinReport node => nodeNo node
  | .tickParentAssign node => nodeNo node
  | .managerTakeover => true
  | .reductionBlockArrive group _ block => decide (group < 16) && block.wf
  | .reductionPassEnd group => decide (group < 16)
  | .baseChunkReceive slot _ _ plain => slotNo slot && plain.all fun l => decide (l.length ≤ 2 ^ 20)
  | .baseLoadReport node handle => nodeNo node && fits 16 handle
  | .modEnRise _ inputMv => fits 16 inputMv
  | .powerGood _ _ _ => true
  | .lampTestEnd => true
  | .firmwareVerified _ _ _ => true
  | .perstDeassert => true
  | .cxlIoReady _ width rate => decide (width ≤ 16 ∧ rate ≤ 32)
  | .memTrainComplete _ => true
  | .seamTrainEnd => true
  | .modEnFall => true
  | .mrstAssert => true
  | .mrstRelease => true
  | .powerSample p => fits 16 p.inputMv
  | .supplyWarning mv => fits 16 mv
  | .supplyRecovery => true
  | .inputReset => true
  | .overcurrentTrip => true
  | .overvoltageShutoff => true
  | .thermalThrottle sensor celsius => sensorNo sensor && fits 8 celsius
  | .thermalEmergency sensor celsius => sensorNo sensor && fits 8 celsius
  | .thermalTrip sensor celsius => sensorNo sensor && fits 8 celsius
  | .thermalActionEnd sensor celsius => sensorNo sensor && fits 8 celsius
  | .spreadHoldEnter temps => tempsWf temps
  | .spreadEmergency temps => tempsWf temps
  | .spreadHoldEnd temps => tempsWf temps
  | .boltExitComplete b => boltNo b
  | .unravel die source => dieNo die && fits 8 source
  | .fatalError die source => dieNo die && fits 8 source
  | .entropyHealthFail => true
  | .entropyRecovery => true
  | .drbgReseed => true
  | .faultLedTimeout => true
  | .identifyTimeout => true
  | .attnPress _ => true
  | .removalWindowExpiry => true
  | .removalSafe => true
  | .anchorInstall _ => true
  | .i3cStatusRead => true
  | .i3cIdentityRead => true
  | .mgmtNetworkFrame _ => true
  | .mgmtSetProfile m index profile => m.wf && decide (index < 16) && (match profile with | some p => p.wf | none => true)
  | .mgmtRoster m roster => m.wf && rosterWf roster
  | .mgmtRoleMove m edge => m.wf && stitchNo edge
  | .baseLoad m header layers seeds members jobKey slot lackPages assigned =>
    m.wf && (LoadOp.mk header layers seeds members jobKey slot lackPages assigned).wf
  | .baseSwitch m name handle stitch => m.wf && fits 16 name && fits 16 handle && stitchNo stitch
  | .baseRetire m op => m.wf && fits 16 op.handle
  | .mgmtDomainKill m _ => m.wf
  | .mgmtPortDisable m port => m.wf && portNo port
  | .mgmtFwWrite m offset _ => m.wf && fits 32 offset
  | .mgmtSvnRaise m svn => m.wf && decide (svn ≤ 63)
  | .mgmtQuote m nonce => m.wf && decide (nonce.length = 32)
  | .mgmtCertificate m which => m.wf && decide (which < 3)
  | .mgmtDomainSnapshot m _ target offset => m.wf && stitchNo target && fits 24 offset
  | .mgmtSetCap m watts order => m.wf && fits 16 watts && decide (order.length = 3)
  | .mgmtReset m => m.wf
  | .mgmtIdentify m seconds => m.wf && fits 8 seconds
  | .mgmtAnchorReplace m _ => m.wf
  | .mgmtDecommission m => m.wf
  | .mgmtRemovalCancel m => m.wf
  | .mgmtSetSgmii m => m.wf
  | .tickWordCorrupted p => portNo p
  | .opticalEngineBelowRetrainLimit bay => decide (bay < 6)
  | .groupBlockPresented node block => nodeNo node && block.wf
  | .collectiveSquashNotice node coll => nodeNo node && decide (coll.membership < 280)

end Sys2Proof
end

