-- ==== Sys2Proof/Tests/Slice0.lean ====
section
/-! SUPPORT. Tests: the ill-formed commands that WellFormed refuses, small one-step tests against the manual's worked
examples and tables, and for every statement with hypotheses a concrete state and operands that meet them. -/
namespace Sys2Proof.Tests
open Sys2Proof Sys2Proof.Machine

set_option Elab.async false

/-! ### Small states -/

/-- Firmware that serves contract version 1. -/
def fw : FwBundle := ⟨3, 0, 1, 0, 1⟩
def sq0 : Sq := { id := 0, cq := 0, pasid := 7, base := 0x10000, size := 16, d := 5, l := 5, pi := 2, ci := 2 }
def cq0 : Cq := { id := 0, vector := 0, pasid := 7, base := 0x20000, size := 16, headAddr := 0x30000 }
/-- Sleeve 0: bolt 0, PASID 7, one submission and one completion queue, a 64 KiB page mapped at 0. -/
def slv : Sleeve :=
  { id := 0, bolts := 1, memGib := 2, cxl := 10, seam := 10, power := 50, born := 0, keygen := 1, pasids := [7], sqs := [sq0], cqs := [cq0]
    leaves := [⟨0, 0, 0, 1, 0, true, 0xFFFF, false, 0⟩] }
/-- A module in operation at stitch 3, with a session, the host link up and sleeve 0. -/
def on : State :=
  { State.reset with
    dev := { ({} : Dev) with phase := .ready, reached := .ready, fw := some fw }
    hif := { ({} : HostIf) with ioReady := true, cache := true, link := .l0 }
    time := { ({} : Time) with stitch := 3 }
    session := some ⟨1, 9, 1, 0⟩
    domain := { ({} : Domain) with standalone := true, tick := .locked }
    sleeves := [slv] }
/-- `on` in the hem. -/
def onHem : State := { on with time := { on.time with hem := true } }
def mh : MbxHdr := ⟨4, false, 0, false⟩
/-- Header of a command from sleeve 0's queue 0. -/
def qh : QHdr := ⟨.sleeve 0, 0, 2, 6, 0x1234, false, 0, 0, 8, 0, 0, 0, [], none, ⟨0, 0⟩, 0, ⟨0, 0⟩, 0, false⟩
/-- Header of a command from the admin queue. -/
def ah : QHdr := { qh with owner := .admin }
/-- A pattern word by CLASS, OP and (value, lowest bit) of its other fields (R206). -/
def word (cls op : Nat) (fields : List (Nat × Nat)) : PWord :=
  BitVec.ofNat 128 (cls * 2 ^ 124 + op * 2 ^ 120 + fields.foldl (fun n f => n + f.1 * 2 ^ f.2) 0)
/-- A run of pattern 1 on bolt 0, placed at `e`. -/
def aRun (e : Nat) (p : RunPhase) : Run :=
  { id := 1, hdr := { qh with bolts := 1, pattern := 1 }, body := .run ⟨List.replicate 30 0, 0, [], false⟩, submit := 1, place := e, phase := p }
/-- Bolt 0 runs command 1 at the first of the words. -/
def bolt0 (ws : List PWord) : Bolt := { ({} : Bolt) with run := some 1, pattern := ws }
def onBolt (b : Bolt) : State := { on with runs := [aRun 3 .running], bolts := [(0, b)] }

/-! ### Witnesses: hypotheses of the statements are met -/

def bell (sq pi : Nat) : BitVec 64 := BitVec.ofNat 64 (sq * 2 ^ 48 + pi)

theorem witness_step_keeps : on.Inv ∧ step on = .next on := by
  refine ⟨⟨?_, ?_, ?_, ?_, ?_, ?_, ?_, ?_, ?_, ?_, ?_⟩, rfl⟩ <;> decide +kernel

theorem witness_no_command_undoes : exec (.snapshotRelease 1) on = .next { on with snap := { on.snap with latched := false } } := by
  rfl

theorem witness_doorbell :
    on.hif.ioReady = true ∧ on.pageOwner 0 = some (.sleeve 0) ∧ on.sqAt (.sleeve 0) 0 = some sq0 ∧ sq0.stopped = false ∧
    -- accepted: PI moves on by size - 1, and by 1
    (∀ pi ∈ [1, 3], (bell 6 pi).toNat / 2 ^ 48 = 6 ∧ bitsOf (bell 6 pi).toNat 18 16 = 0 ∧ bitsOf (bell 6 pi).toNat 11 0 = pi ∧
      BitVec.ofNat 16 (bitsOf (bell 6 pi).toNat 63 48) = sq0.d + 1 ∧ pi < 16 ∧ 1 ≤ (pi + 16 - 2) % 16 ∧
      (2 + 16 - 2) % 16 + (pi + 16 - 2) % 16 ≤ 16 - 1) ∧
    -- not in order: PI stays, or SEQ skips one
    ¬ (1 ≤ (2 + 16 - 2) % 16) ∧ BitVec.ofNat 16 (bitsOf (bell 7 3).toNat 63 48) ≠ sq0.d + 1 := by
  decide +kernel

theorem witness_doorbell_stopped :
    let s := { on with sleeves := [{ slv with sqs := [{ sq0 with stopped := true }] }] }
    s.hif.ioReady = true ∧ s.pageOwner 0 = some (.sleeve 0) ∧ s.sqAt (.sleeve 0) 0 = some { sq0 with stopped := true } := by
  decide +kernel

theorem witness_register_widths :
    on.hif.ioReady = true ∧ (∀ e ∈ [(0, 0x14), (0, 0x18), (0, 0x1C), (0, 0x1FF8), (0, 0x1FFC), (0, 0x1A), (2, 4)], e.1 ≠ configBar ∧ inArea e.1 e.2 = false) ∧
    (0x14 % 4 = 0 ∧ is64 0 0x14 = false ∧ is64 0 0x10 = false) ∧ (is64 0 0x18 = true ∧ is64 0 0x1FF8 = true ∧ 0x1FF8 % 8 = 0) ∧
    is64 0 0x1C = false ∧ is64 0 0x1FFC = false ∧ on.hif.shadowOf 0 0x18 = none ∧
    (let s := { on with hif := { on.hif with shadow := [(0, 0x18, 7)] } }; s.hif.shadowOf 0 0x18 = some 7 ∧ s.hif.ioReady = true) ∧
    touches 0 0x14 2 = true ∧ touches 0 0x1A 4 = true ∧ touches 0 0x4000 2 = false ∧
    ¬ ((2 : Nat) = 4 ∧ 0x14 % 4 = 0) ∧ ¬ ((4 : Nat) = 4 ∧ 0x1A % 4 = 0) ∧ ¬ ((8 : Nat) = 8 ∧ 0x14 % 8 = 0 ∧ is64 0 0x14 = true) := by
  decide +kernel

theorem witness_report_writes :
    on.hif.ioReady = true ∧ on.evq.en = false ∧ (0x80000000 : BitVec 32).getLsbD 31 = true ∧ (0x7FFFFFFF : BitVec 32).getLsbD 31 = false ∧
    (1 : BitVec 32).getLsbD 0 = true ∧ (0xFFFFFFFE : BitVec 32).getLsbD 0 = false ∧ (4 : BitVec 64).getLsbD 2 = true ∧
    ((0 : Nat) < 16 ∧ on.hasSleeve 0 slv) ∧ on.hif.msixPending = [] ∧ on.hif.msixEnable = false ∧
    ({ on.hif with msixEnable := true, msixMaskAll := true } : HostIf).msixMaskAll = true ∧
    (let s := { on with evq := { on.evq with en := true } }; s.hif.ioReady = true ∧ s.evq.en = true) ∧
    ∀ n ∈ [0, 2047], let s := { on with hif := { on.hif with msixEnable := true, msixPending := [n] } };
      n < 2048 ∧ s.hif.ioReady = true ∧ s.hif.msixEnable = true ∧ s.hif.msixMaskAll = false ∧ s.hostOpen = true ∧ s.hif.msixPending = [n] := by
  unfold State.hasSleeve; decide +kernel

theorem witness_mailbox_holds :
    on.mbxOpen mh ∧ on.hasSleeve mh.sleeve slv ∧
    (let s := { on with sleeves := [] }; s.mbxOpen mh ∧ s.sleeves = []) ∧
    (on.dev.teardown = false ∧ (15 : Nat) ≤ 15 ∧ on.sharesFit 15 2 1 10 10 50 = true ∧ on.sec.entropyFailing = false ∧
      on.mbxOpen { mh with sleeve := 15 }) ∧
    ((2 ^ 20 - 1 : Nat) < 2 ^ 20 ∧ (∀ x ∈ on.sleeves, x.id ≠ mh.sleeve → 2 ^ 20 - 1 ∉ x.pasids) ∧ slv.pasids.length < 16 ∧ on.sessionPasid ≠ 2 ^ 20 - 1) ∧
    ((7 : Nat) ∈ slv.pasids ∧ ({ slv with sqs := [], cqs := [] } : Sleeve).queueUses 7 = false) := by
  unfold State.mbxOpen State.hasSleeve; decide +kernel

theorem witness_mailbox_holds_queue :
    on.mbxOpen mh ∧ on.mbxOwner mh.sleeve = some (.sleeve 0) ∧ on.pasidOk (.sleeve 0) 7 = true ∧
    ((7 : Nat) < 8 ∧ 4096 % 4096 = 0 ∧ powerOfTwo 65536 16 65536 = true ∧ (63 : Nat) < 64 ∧ on.cqAt (.sleeve 0) 7 = none) ∧
    (powerOfTwo 16 16 4096 = true ∧ powerOfTwo 4096 16 4096 = true ∧ on.cqAt (.sleeve 0) 0 = some cq0 ∧ on.sqAt (.sleeve 0) 7 = none) ∧
    (on.sqAt (.sleeve 0) 0 = some sq0 ∧ on.queueBusy (.sleeve 0) 0 = false) ∧
    (let s := { on with sleeves := [{ slv with sqs := [] }] }; s.mbxOpen mh ∧ s.cqAt (.sleeve 0) 0 = some cq0 ∧ ∀ q ∈ s.sqsOf (.sleeve 0), q.cq ≠ 0) ∧
    (let q : Sq := { sq0 with stopped := true }; let s := { on with sleeves := [{ slv with sqs := [q] }] };
      s.mbxOpen mh ∧ s.sqAt (.sleeve 0) 0 = some q ∧ q.stopped = true ∧ 15 < q.size) ∧
    (on.mbxOwner 255 = some .admin ∧ on.pasidOk .admin 9 = true ∧ on.cqAt .admin 0 = none) := by
  unfold State.mbxOpen; decide +kernel

theorem witness_hem_applies :
    let s := { onHem with mbx := { onHem.mbx with sleeve := 0 } }
    s.mbx.sleeve = 0 ∧ (0 : Nat) ≠ 255 ∧ s.hasSleeve 0 slv ∧ s.sqAt (.sleeve 0) 7 = none ∧ s.cqAt (.sleeve 0) 7 = none ∧
    s.sqAt (.sleeve 0) 0 = some sq0 ∧ s.queueBusy (.sleeve 0) 0 = false := by
  unfold State.hasSleeve; decide +kernel

theorem witness_mailbox_completes :
    on.hif.ioReady = true ∧ on.mbx.busy = false ∧ mh.reserved = false ∧ on.dev.phase = .ready ∧ on.session.isSome = true ∧
    (let s := { on with session := none };
      s.dev.fw = some fw ∧ fw.oldest.toNat ≤ 1 ∧ 1 ≤ fw.major.toNat ∧ s.session = none ∧ s.sec.entropyFailing = false ∧ s.dev.lowerLeaf < 1024) ∧
    (on.sleeve 0).isSome = true ∧ (on.keyHandles 0).length < keyLimit 0 ∧
    (let s := { on with domain := { on.domain with role := .topManager } }; s.isManager = true ∧ (s.keyHandles 2).length < keyLimit 2) ∧
    slotBytes - 1 + 1 ≤ slotBytes ∧ on.dev.writerLock ≠ some .me ∧ on.store.svnMin ≤ fw.svn := by
  decide +kernel

theorem witness_busy_mailbox :
    let s := { on with mbx := { on.mbx with busy := true } }
    (mailboxHdr (.kemGet mh)).isSome = true ∧ s.hif.ioReady = true ∧ s.mbx.busy = true := by
  decide +kernel

/-- The run that a row of `onHem` acts on, and its state. -/
def runs (s : State) (h : QHdr) (b : QBody) : Run := (s.runOf h b).1
def goes (s : State) (h : QHdr) (b : QBody) : State := (s.runOf h b).2

/-- A base with one BF16 matrix layer, 5, in slot 0. -/
def onBase : State :=
  { onHem with bases := { onHem.bases with slots := [(0, { ({} : Slot) with
      handle := 2, state := .ready, plainBytes := 2048, layers := [⟨5, 0, 0, 0, 32, 32, 0, 127, 0, 0, 0⟩] })] } }
/-- `onBase` with tenant 5 and patch 9 of it, rank 8 on layer 5. -/
def onPatch : State :=
  { onBase with
    tenants := [⟨5, 0, 0, 1⟩]
    patches := [{ handle := 9, tenant := 5, sleeve := 0, base := 2, rank := 8, scale := .fin false 1 0, layers := [5], darns := [], train := true
                  plain := List.replicate 1024 0 }] }
def patch9 : Patch := onPatch.patches.headD (blankPatch ⟨0, 0, 0, false, 0, [], 0, [], 0, false⟩ slv 0)
def desc : PatchDesc := ⟨5, 2, 0, false, 0x3F80, [5], imageBytes 1024, [], 0, false⟩
def image : SealedImage := ⟨1, 5, 1024, true, true, true, List.replicate 1024 0, []⟩
/-- A pattern of one END word. -/
def endImage : List Byte := leBytes 2 1 ++ leBytes 1 0 ++ leBytes 1 0 ++ leBytes 2 1 ++ leBytes 2 1 ++ List.replicate 56 0 ++ leBytes 16 (0xCF * 2 ^ 120)
def endPattern : Pattern := ⟨0, 0, 1, 1, [], [BitVec.ofNat 128 (0xCF * 2 ^ 120)], 80⟩
def group3 : GroupBlock := ⟨3, 0, 0, 0, 0, 1, [0, 7], false⟩
theorem witness_completion_record :
    ({} : Done).status = 0 ∧ onHem.stitch_le_deadline (aRun 3 .finished) ∧ (aRun 3 .finished).lateCause = 0 := by
  unfold State.stitch_le_deadline; decide +kernel

theorem witness_refused_row :
    let h := { qh with reserved := true }
    rowBody (.fence h) = some (h, .fence) ∧ onHem.runOf h .fence = (runs onHem h .fence, goes onHem h .fence) ∧
    rowRefusal h .fence = some 0x72 := by
  decide +kernel

theorem witness_run_update_kill_fence :
    onHem.actsAs qh .fence (goes onHem qh .fence) (runs onHem qh .fence) ∧
    (let s := { on with runs := [aRun 3 .placed] }; s.placedRun qh = some (aRun 3 .placed) ∧ (aRun 3 .placed).place = s.time.stitch.toNat ∧ s.time.hem = false) ∧
    on.placedRun qh = none ∧
    (let r := aRun 3 .finished; let s := { onHem with runs := [r] };
      s.placedRun qh = some r ∧ r.place = s.time.stitch.toNat ∧ s.time.hem = true ∧ r.phase = .finished ∧
      s.unmapped (s.winsOf r) r = none ∧
      (let x : Run := { r with baste := { r.baste with host := [⟨0, 0, List.replicate 64 0, 0⟩] } }
       let v : Sleeve := { slv with windows := [⟨0, 7, 0, 4096, true, true⟩] }
       let t := { onHem with runs := [x], sleeves := [v] }
       t.placedRun qh = some x ∧ t.unmapped (t.winsOf x) x = some 0) ∧
      watchDiscard r.hdr.watch (watchSeen r.watch r.baste.stats) = none ∧ watchStatus (watchSeen r.watch r.baste.stats) = none) ∧
    (let u : UpdateBlock := ⟨0, false, false, 1, 0x3C00, 0x3DCD, 0, 0, 0, 0x3F80, 0, false⟩;
     let h := { qh with bolts := 1 }
     let r := { aRun 3 .finished with hdr := h }
     let s := { onPatch with runs := [r] }
     s.placedRun h = some r ∧ rowRefusal h (.update u [9]) = none ∧ s.updateFault r u [9] = none ∧ s.unmapped (s.winsOf r) r = none) ∧
    (let ref : PredRef := ⟨0, 2, 6⟩;
     let x : Run := { aRun 5 .placed with id := 1 }
     let a : Accepted := ⟨0, 2, 6, 1, none⟩
     let s := { on with runs := [x], sleeves := [{ slv with accepted := [a] }] }
     rowRefusal qh (.kill ref) = none ∧ s.accepted qh.owner ref = some a ∧ a.status = none ∧ s.findRun a.run = some x ∧ x.coll = none ∧
       x.stop = none ∧ s.dependents x.id = []) := by
  unfold State.actsAs; decide +kernel

theorem witness_tenant_patch :
    (let b : QBody := .regTenant 65535 1;
     let u := goes onHem qh b
     u.hasSleeve (ownerNum (runs onHem qh b).hdr.owner) slv ∧ onHem.actsAs qh b u (runs onHem qh b) ∧
       (∀ x ∈ u.tenants, x.num ≠ 65535) ∧ u.tenants.length < 65535 ∧ u.sec.entropyFailing = false) ∧
    (let s := { onHem with sec := { onHem.sec with keys := [⟨1, 0, 0, 0⟩] } }; (s.keyOf 1 0 0).isSome = true ∧ s.sec.entropyFailing = false ∧
      s.hasSleeve 0 slv ∧ s.actsAs qh (.regTenant 1 1) (goes s qh (.regTenant 1 1)) (runs s qh (.regTenant 1 1))) ∧
    (let s := { onPatch with patches := [] };
     let b : QBody := .deregTenant 5
     s.actsAs qh b (goes s qh b) (runs s qh b) ∧
       (goes s qh b).tenants.find? (fun x => x.num == 5 && x.sleeve == slv.id) = some ⟨5, 0, 0, 1⟩ ∧
       ∀ p ∈ (goes s qh b).patches, p.tenant = 5 → p.lost = true) ∧
    (let b : QBody := .deregPatch 9;
     let u := goes onPatch qh b
     onPatch.actsAs qh b u (runs onPatch qh b) ∧ (u.ownPatch slv 9).isSome = true ∧
       (u.otherRun (runs onPatch qh b) fun q => q.patches.contains 9) = false) := by
  unfold State.actsAs State.hasSleeve; decide +kernel

theorem witness_reg_patch :
    let b : QBody := .regPatch desc image
    let u := goes onPatch qh b
    let r := runs onPatch qh b
    onPatch.actsAs qh b u r ∧ u.hasSleeve (ownerNum r.hdr.owner) slv ∧
      (u.tenants.any fun t => t.num == desc.tenant && t.sleeve == slv.id) = true ∧ desc.base ≠ 0 ∧ u.baseOk desc.base r.base = true ∧
      u.layersOk r.base desc.layers = true ∧ u.darnsOk (blankPatch desc slv r.base) = true ∧
      (u.patches.filter fun p => !p.lost).length < 65536 := by
  unfold State.actsAs State.hasSleeve; decide +kernel

theorem witness_reg_patch_image :
    let u := goes onPatch qh (.regPatch desc image)
    let ts := u.tensors (blankPatch desc slv 2)
    plainLength ts false false 0 0 = 1024 ∧ imageOk desc image 1024 (plainLength ts false true 0 0) = true ∧
      pages (regionBytes ts false false 0 0 0) ≤ u.pagesLeft slv := by
  decide +kernel

theorem witness_export_patch :
    (let b : QBody := .exportPatch 9 ⟨2, 0⟩ 2048;
     let v : Sleeve := { slv with windows := [⟨0, 7, 0, 4096, true, true⟩] }
     let s := { onPatch with sleeves := [v], hif := { onPatch.hif with atc := [⟨7, 0, 1, true, true, 0⟩] } }
     let u := goes s qh b
     let r := runs s qh b
     s.actsAs qh b u r ∧ u.hasSleeve 0 v ∧ u.patch 9 = some patch9 ∧ patch9.sleeve = v.id ∧ patch9.lost = false ∧ u.destFault r.hdr.owner ⟨2, 0⟩ 2048 (imageBytes 1024) = none ∧
       (u.winsOf r).find? (fun w => w.id == (windowOf 0).1) = some ⟨0, 7, 0, 4096, true, true⟩ ∧ u.sec.entropyFailing = false) ∧
    (let b : QBody := .exportPatch 9 ⟨1, 0⟩ 2048;
     let u := goes onPatch qh b
     let r := runs onPatch qh b
     onPatch.actsAs qh b u r ∧ u.patch 9 = some patch9 ∧ patch9.sleeve = slv.id ∧ patch9.lost = false ∧ u.destFault r.hdr.owner ⟨1, 0⟩ 2048 (imageBytes 1024) = none) := by
  unfold State.actsAs State.hasSleeve; decide +kernel

theorem witness_pattern_recipe_lane :
    (let b : QBody := .loadPattern endImage 80;
     let u := goes onHem qh b
     onHem.actsAs qh b u (runs onHem qh b) ∧ u.hasSleeve 0 slv ∧ checkImage endImage 80 = .good endPattern ∧ pages endPattern.bytes ≤ u.pagesLeft slv) ∧
    (let b : QBody := .freePattern 1;
     let v : Sleeve := { slv with patterns := [{ endPattern with handle := 1 }] }
     let s := { onHem with sleeves := [v] }
     s.actsAs qh b (goes s qh b) (runs s qh b) ∧ (goes s qh b).hasSleeve 0 v ∧ (v.patterns.any fun p => p.handle == 1) = true ∧
       ((goes s qh b).otherRun (runs s qh b) fun q => decide (q.hdr.owner = .sleeve 0) && q.hdr.pattern == 1) = false) ∧
    (∀ k ∈ [0, 10], let b : QBody := .setRecipe false k (2 + 2 ^ 10)
      onHem.actsAs qh b (goes onHem qh b) (runs onHem qh b) ∧ recipeFault k (2 + 2 ^ 10) = none) ∧
    (let b : QBody := .configStack 0 3 2097152;
     let u := goes onHem qh b
     onHem.actsAs qh b u (runs onHem qh b) ∧ slv.bolts.getLsbD 0 = true ∧ (u.otherRun (runs onHem qh b) fun q => q.lanes.contains 3) = false ∧
       pages 2097152 ≤ u.pagesLeft slv + pages (look {} (u.bolt 0).lanes 3).size) := by
  unfold State.actsAs State.hasSleeve; decide +kernel

theorem witness_mapping_window :
    (∀ page ∈ [0, 2], let base := 2 ^ 48 - pageBytes page
      let b : QBody := .map base (pageBytes page) page true 0xFFFF
      let u := goes onHem qh b
      onHem.actsAs qh b u (runs onHem qh b) ∧ u.hasSleeve 0 slv ∧ page ≤ 2 ∧ pageBytes page ≠ 0 ∧ base % pageBytes page = 0 ∧
        base + pageBytes page ≤ 2 ^ 48 ∧ (∀ l ∈ slv.leaves, rangesMeet l.dva (pageBytes l.code) base (pageBytes page) = false) ∧
        u.chargedPages slv + 16384 ≤ 16384 * slv.memGib) ∧
    (let b : QBody := .unmap 0 65536;
     let u := goes onHem qh b
     onHem.actsAs qh b u (runs onHem qh b) ∧ u.hasSleeve 0 slv ∧ endsOk slv 0 65536 = true ∧ u.runs = []) ∧
    (∀ n ∈ [0, 15], let b : QBody := .setWindow n true true 7 0 (2 ^ 44)
      onHem.actsAs qh b (goes onHem qh b) (runs onHem qh b) ∧ n ≤ 15 ∧ slv.pasids.contains 7 = true ∧
        (slv.windows.any fun x => x.id == n) = false) ∧
    (let b : QBody := .clearWindow 15;
     let v : Sleeve := { slv with windows := [⟨15, 7, 0, 4096, true, true⟩] }
     let s := { onHem with sleeves := [v] }
     s.actsAs qh b (goes s qh b) (runs s qh b) ∧ (goes s qh b).hasSleeve 0 v ∧ (v.windows.any fun x => x.id == 15) = true) := by
  unfold State.actsAs State.hasSleeve; decide +kernel

theorem witness_group_ingest :
    (let s := { onHem with domain := { onHem.domain with node := 7 } };
     let b : QBody := .createGroup group3
     s.actsAs qh b (goes s qh b) (runs s qh b) ∧ (goes s qh b).hasSleeve 0 slv ∧ group3.members.contains (goes s qh b).domain.node = true ∧
       slv.seam ≠ 0 ∧ (∀ g ∈ (goes s qh b).groups, g.block.group ≠ group3.group) ∧ (goes s qh b).isManager = false) ∧
    (let s := { onHem with groups := [⟨0, group3, true, false, [], []⟩] };
     let b : QBody := .destroyGroup 3
     s.actsAs qh b (goes s qh b) (runs s qh b) ∧ ((goes s qh b).groups.any fun x => x.block.group == 3 && x.sleeve == slv.id) = true ∧
       ((goes s qh b).otherRun (runs s qh b) fun q => q.groups.contains 3 || decide (q.coll = some 3)) = false) ∧
    (let b : QBody := .openIngest (2 ^ 20 - 1) 0 4096;
     onHem.actsAs ah b (goes onHem ah b) (runs onHem ah b)) := by
  unfold State.actsAs State.hasSleeve; decide +kernel

theorem witness_snapshot_clock :
    (let b : QBody := .snapshot 1 4 (64 * 1600 - 1);
     onHem.actsAs qh b (goes onHem qh b) (runs onHem qh b) ∧ 64 * 1600 - 1 < snapUnits (goes onHem qh b).time.len ∧ (goes onHem qh b).time.stitch.toNat < 4) ∧
    (let s := { onHem with domain := { onHem.domain with role := .manager } };
     let b : QBody := .snapshotDomain 1 5 0
     s.actsAs ah b (goes s ah b) (runs s ah b) ∧ (runs s ah b).hdr.owner = .admin ∧ (goes s ah b).isManager = true ∧ (goes s ah b).time.stitch.toNat + 2 ≤ 5) ∧
    (let b : QBody := .setStitch 3;
     let u := goes onHem ah b
     onHem.actsAs ah b u (runs onHem ah b) ∧ u.domain.standalone = true ∧
       u.reservesAfter (runs onHem ah b).id u.time.stitch.toNat false = false ∧ u.collsAfter u.time.stitch.toNat = false ∧
       u.mayReadmit = false) ∧
    (∀ f ∈ [8, 12], let b : QBody := .setFloor f
      onHem.actsAs ah b (goes onHem ah b) (runs onHem ah b) ∧ 8 ≤ f ∧ f ≤ 15 ∧ ¬ (12 < f) ∧ (goes onHem ah b).time.floorNext.getD (goes onHem ah b).time.floor = 12 ∧
        (goes onHem ah b).runs = [] ∧ ∀ x < 16, ((goes onHem ah b).bolt x).pockets = []) ∧
    (let b : QBody := .setFloor 15;
     let s := { onHem with sleeves := [{ slv with power := 400 }], power := { onHem.power with capW := 2000 } }
     s.actsAs ah b (goes s ah b) (runs s ah b) ∧ (goes s ah b).sustains 15 = true ∧ (goes s ah b).hotHold = false) := by
  unfold State.actsAs; decide +kernel

theorem witness_telemetry :
    (∀ e ∈ telemetryRows, let b : QBody := .telemetry e.2 ⟨2, 0⟩ 40960
      let s := { onHem with hif := { onHem.hif with atc := [⟨9, 0, 512, true, true, 0⟩] } }
      s.actsAs ah b (goes s ah b) (runs s ah b) ∧ (goes s ah b).plainFault { runs s ah b with body := b } = none) ∧
    (let b : QBody := .telemetry 2 ⟨1, 0⟩ 512;
     onHem.actsAs qh b (goes onHem qh b) (runs onHem qh b) ∧ (runs onHem qh b).hdr.owner = .sleeve 0 ∧
       (goes onHem qh b).plainFault { runs onHem qh b with body := b } = none) := by
  unfold State.actsAs; decide +kernel

theorem witness_word_out_of_turn :
    wordRow (.snap 0) = some (0, 0xA, 0) ∧ on.issuable 0 = none ∧
    (let w := word 6 0 []
     let B := bolt0 [w]
     (onBolt B).issuable 0 = some (B, aRun 3 .running, w) ∧ ¬ ((wordHdr w).cls = 0xA ∧ (wordHdr w).op = 0)) := by
  decide +kernel

theorem witness_stat_snap_loop :
    (∀ e ∈ [(6, 0, []), (0xA, 0, []), (0xB, 0, [(3, 108), (1, 96), (1, 74)]), (0xB, 0, [(3, 108), (1, 96), (1, 95), (4, 90)])],
      let w := word e.1 e.2.1 e.2.2
      let B := bolt0 [w, word 6 0 []]
      Issues (onBolt B) 0 B (aRun 3 .running) w e.1 e.2.1) ∧
    on.snap.ctrl.getLsbD 2 = false ∧ (4 : BitVec 32).getLsbD 2 = true ∧ on.snap.latched = false ∧
    (loopWord (word 0xB 0 [(3, 108), (1, 96), (1, 74)])).count = 2 ∧
    (let B : Bolt := { bolt0 [] with loops := [(0, 3, 1, 2)] }; B.rod 3 + 1 < 2 ∧ (0 : Nat) ≠ 1) ∧
    (let B : Bolt := { bolt0 [] with loops := [(0, 3, 1, 2)], rods := [(3, 1)] }; 2 ≤ B.rod 3 + 1 ∧ (∀ l ∈ ([] : List (Nat × Nat × Nat × Nat)).head?, l.2.2.1 ≠ 1)) := by
  unfold Issues; decide +kernel

theorem witness_wait_drain :
    (let w := word 9 0 [(1, 104), (65535, 88), (1, 87)]
     let k := waitWord w
     let B : Bolt := { bolt0 [w] with flags := [(0, 65535)] }
     Issues (onBolt B) 0 B (aRun 3 .running) w 9 0 ∧ (wordHdr w).setf = none ∧ (∀ f < 8, k.mask.getLsbD f = true → k.count ≤ look 0 B.flags f)) ∧
    (let w := word 9 0 [(1, 104), (65535, 88), (1, 87)]
     let k := waitWord w
     let B : Bolt := { bolt0 [w] with flags := [(0, 65534)] }
     Issues (onBolt B) 0 B (aRun 3 .running) w 9 0 ∧ ∃ f < 8, k.mask.getLsbD f = true ∧ look 0 B.flags f < k.count) ∧
    (let w := word 9 1 []
     let B := bolt0 [w]
     let C : Bolt := { B with q := { B.q with vector := [⟨0, 0, none, []⟩] } }
     Issues (onBolt B) 0 B (aRun 3 .running) w 9 1 ∧ B.idle = true ∧ Issues (onBolt C) 0 C (aRun 3 .running) w 9 1 ∧ C.idle = false) ∧
    (∀ st ∈ [Stall.wait 1 1 true, .drain], let B : Bolt := { bolt0 [word 9 0 []] with stall := st, flags := [(0, 1)] }
      ((onBolt B).liveRun 0).isSome = true ∧ (onBolt B).time.hem = false ∧ (onBolt B).bolt 0 = B ∧ B.pattern[B.pc]? = some (word 9 0 []) ∧
        B.idle = true ∧ ∀ f < 8, (1 : BitVec 8).getLsbD f = true → 1 ≤ look 0 B.flags f) := by
  unfold Issues; decide +kernel

theorem witness_barriers :
    (∀ op ∈ [0, 1], let w := word 8 op [(5, 104)]
      Issues (onBolt (bolt0 [w])) 0 (bolt0 [w]) (aRun 3 .running) w 8 op) ∧
    (let B : Bolt := { bolt0 [word 8 0 []] with stall := .barrier 5 1 }
     let s := onBolt B
     s.time.hem = false ∧ s.liveRun 0 = some (aRun 3 .running) ∧ (s.bolt 0).stall = .barrier 5 1 ∧
       ∀ x < 16, (1 : BitVec 16).getLsbD x = true →
         (s.bolt x).run = some (aRun 3 .running).id ∧ (s.bolt x).stall = .barrier 5 1 ∧ (s.bolt x).storing = false) ∧
    (let B : Bolt := { bolt0 [word 8 1 []] with stall := .collective 5 }
     let r : Run := { aRun 3 .running with collNo := some 2, coll := some 3 }
     let u : State := { onBolt B with runs := [r] }
     u.moduleArrived r 5 = true ∧ r.collNo = some 2 ∧ u.collMembership 2 = none ∧ arriveCount u.domain.barriers 2 5 = 0) ∧
    (let B : Bolt := { bolt0 [word 8 1 []] with stall := .collective 5 }
     let r : Run := { aRun 3 .running with hdr := { qh with bolts := 3, pattern := 1 } }
     let u : State := { onBolt B with runs := [r], bolts := [(0, B), (1, bolt0 [])] }
     u.moduleArrived r 5 = false) := by
  unfold Issues; decide +kernel

theorem witness_branches :
    (∀ op ∈ [0, 1, 2, 3, 4, 5, 15], let w := word 0xC op [(3, 100), (1, 94), (7, 56)]
      Issues (onBolt (bolt0 [w])) 0 (bolt0 [w]) (aRun 3 .running) w 0xC op ∧ (bolt0 [w]).idle = true ∧ (aRun 3 .running).hdr.bolts = 1#16 <<< 0 ∧
        (let C : Bolt := { bolt0 [w] with q := { (bolt0 [w]).q with vector := [⟨0, 0, none, []⟩] } }
         Issues (onBolt C) 0 C (aRun 3 .running) w 0xC op ∧ C.idle = false) ∧
        ∀ x < 16, ((onBolt (bolt0 [w])).bolt x).stall = .none) ∧
    (∀ e ∈ branchRows, ((List.range 3).any fun l => e.2.2 l 1) = true ∧ ((List.range 3).any fun l => !e.2.2 l 1) = true) ∧
    (let B : Bolt := { bolt0 [] with loops := [(0, 1, 4, 2)], rods := [(1, 1)] }; ∀ l ∈ B.loops, l.2.1 = 1 → l.2.2.2 ≤ B.rod 1 + 1) ∧
    (let B : Bolt := { bolt0 [] with loops := [(0, 1, 4, 2)] }; ∀ l ∈ B.loops, l.2.1 = 1 → B.rod 1 + 1 < l.2.2.2) := by
  unfold Issues; decide +kernel

/-- A run whose training recipes are all BF16 with a static scale, so that no history enters. -/
def plainRun : Run := { aRun 3 .running with recipes := List.replicate 11 (BitVec.ofNat 64 (2 ^ 10)) }
def onBoltPlain (b : Bolt) : State := { on with runs := [plainRun], bolts := [(0, b)] }
/-- Cursors: 1 at 0, 2 at 256, 3 at 512, 4 at 768 in the local store, BF16 rows one after another. -/
def cursors : Sparse Cursor := [(1, { ({} : Cursor) with base := 0 }), (2, { ({} : Cursor) with base := 256 }),
  (3, { ({} : Cursor) with base := 512 }), (4, { ({} : Cursor) with base := 768 })]
def boltC (ws : List PWord) : Bolt := { bolt0 ws with cursors := cursors }
/-- VECTOR with A at cursor 1, B at 2, C at 3, D at 4: `f` in FUNC, 2 rows of 2. -/
def vec (f chain : Nat) : PWord := word 2 0 [(f, 106), (1, 101), (2, 96), (3, 91), (4, 86), (chain, 64), (1, 30), (1, 14)]

theorem witness_vector :
    (∀ e ∈ vectorElementRows, ∀ c ∈ [0, 1],
      let w := vec e.2.1 c
      let B := boltC [w]
      let v := vectorWord w
      Issues (onBolt B) 0 B (aRun 3 .running) w 2 0 ∧ B.room [.vector] = true ∧ v.func = e.2.1 ∧ v.chain = (c == 1) ∧
        (v.chain = true → outside (vecReads B v) = none) ∧
        (let rows := vecValue ((onBolt B).reader 0 B) B v []
         outside (vecReads B v ++ (B.view v.d).extents ((aRun 3 .running).recipe v.kind).format rows.length (rows.headD []).length) = none)) ∧
    ∀ e ∈ vectorRowRows,
      let w := vec e.2.1 0
      let B := boltC [w]
      let v := vectorWord w
      Issues (onBolt B) 0 B (aRun 3 .running) w 2 0 ∧ v.func = e.2.1 ∧ v.chain = false ∧ (∀ l ∈ vecA ((onBolt B).reader 0 B) B v [], l ≠ []) ∧
        outside (vecReads B v ++ (B.view v.d).extents 0 2 1) = none := by
  unfold Issues; decide +kernel

theorem witness_hand_off :
    let rows : List (List Machine.Num) := [[.fin false 3 0, .nan], [.fin true 1 (-1), .inf false]]
    (∀ row ∈ rows, row.length = 2) ∧ isMx (plainRun.recipe 0).format = false ∧ (plainRun.recipe 0).stochastic = false ∧
    (∀ B ∈ [boltC []], (B.view 4).pitch = 0) ∧ rowBytes (plainRun.recipe 0).format 2 ≤ 4 := by
  decide +kernel

/-- The two-ply add of one row of 4, A at cursor 1, faces at 3, linings at 4. -/
def twoPly : PWord := word 2 0 [(0x19, 106), (1, 101), (3, 91), (4, 86), (3, 14)]

theorem witness_two_ply :
    let B := boltC [twoPly]
    let v := vectorWord twoPly
    Issues (onBolt B) 0 B (aRun 3 .running) twoPly 2 0 ∧ v.func = 0x19 ∧ B.room [.vector] = true ∧ v.rows = 1 ∧
      ((vecA ((onBolt B).reader 0 B) B v []).map (·.map toTally)).map (·.length) = [v.cols] ∧
      outside (vecReads B v ++ (B.view v.c).extents 10 v.rows v.cols ++ (B.view v.d).extents 10 v.rows v.cols) = none ∧
      (B.view v.c).addr + 2 * v.cols ≤ (B.view v.d).addr ∧ plyMixed (plyDraws B v (B.view v.c) ++ plyDraws B v (B.view v.d)) = none ∧
      (let D : Bolt := { B with tags := [(0, 5)] }
       Issues (onBolt D) 0 D (aRun 3 .running) twoPly 2 0 ∧ D.room [.vector] = true ∧
         plyMixed (plyDraws D v (D.view v.c) ++ plyDraws D v (D.view v.d)) = some 0) := by
  unfold Issues; decide +kernel

/-- ROTATE of one row of 32 from cursor 1 to cursor 4. -/
def rotWord : PWord := word 3 0 [(1, 107), (4, 102), (5, 98), (31, 46)]

theorem witness_rotate :
    let B := boltC [rotWord]
    let k := rotateWord rotWord
    let vs := B.view k.src
    Issues (onBolt B) 0 B (aRun 3 .running) rotWord 3 0 ∧ B.room [.rotation] = true ∧
      outside (vs.extents vs.fmt k.rows k.cols ++ (B.view k.dst).extents ((aRun 3 .running).recipe k.kind).format k.rows k.cols) = none ∧
      (onBolt B).rotationOf (aRun 3 .running) B ((aRun 3 .running).recipe k.kind) k.consEn k.consS = 0 ∧
      (let r : Run := { aRun 3 .running with recipes := List.replicate 11 (BitVec.ofNat 64 (5 * 2 ^ 28)) }
       let s : State := { onBolt B with runs := [r] }
       Issues s 0 B r rotWord 3 0 ∧ s.rotationOf r B (r.recipe k.kind) k.consEn k.consS ≠ 0 ∧
         outside (vs.extents vs.fmt k.rows k.cols ++ (B.view k.dst).extents (r.recipe k.kind).format k.rows k.cols) = none) := by
  unfold Issues; decide +kernel

/-- MATRIX on array 0, 2 x 2 x 2, P at cursor 1, Q at 2, OUT at 3. -/
def mat (op hold : Nat) : PWord := word 0 op [(1, 108), (hold, 107), (1, 96), (1, 86), (1, 74), (1, 69), (2, 64), (3, 59)]
def matExt (op : Nat) (fs : List (Nat × Nat)) : PWord := word 15 op fs

theorem witness_matrix :
    (∀ hold ∈ [0, 1], let w := mat 0 hold
      let B := boltC [w]
      let k := matrixWord w
      let es := (B.view k.p).extents (B.view k.p).fmt k.m k.k ++ qExtents (B.view k.q) k.k k.n
      Issues (onBolt B) 0 B (aRun 3 .running) w 0 0 ∧ B.room ((arraysIn k.mask).map .matrix) = true ∧ B.rail = none ∧ k.hold = (hold == 1) ∧
        k.epi = 0 ∧ outside es = none ∧ outside (es ++ (B.view k.out).extents ((aRun 3 .running).recipe k.kind).format k.m k.n) = none) ∧
    (let w := mat 2 0
     let x := matExt 2 [(1, 34), (1, 22)]
     let B := boltC [w, x]
     let k := matrixWord w
     Issues (onBolt B) 0 B (aRun 3 .running) w 0 2 ∧ B.pattern[B.pc + 1]? = some x ∧
       outside (convExtents B k.p k.m k.k (extConv x) ++ qExtents (B.view k.q) k.k k.n ++
         (B.view k.out).extents ((aRun 3 .running).recipe k.kind).format k.m k.n) = none) ∧
    ∀ mask ∈ [0, 1], let w := mat 1 0
      let x := matExt 1 [(1, 107), (4, 102), (2, 97)]
      let B : Bolt := { boltC [w, x] with scalars := put 0 [] 2 (BitVec.ofNat 32 mask) }
      let k := matrixWord w
      let e := extBackward x
      let r := aRun 3 .running
      Issues (onBolt B) 0 B r w 0 1 ∧ B.pattern[B.pc + 1]? = some x ∧ B.rail = none ∧ B.scalar e.maskS = BitVec.ofNat 32 mask ∧
        outside ((B.view k.p).extents (B.view k.p).fmt k.m k.n ++ qExtents (B.view k.q) k.n k.k ++
          (B.view k.out).extents (r.recipe k.kind).format k.m k.k ++ (B.view e.x).extents (B.view e.x).fmt k.k k.m ++
          (B.view e.dw).extents (r.recipe e.dwKind).format k.k k.n) = none := by
  unfold Issues; decide +kernel

theorem witness_rail_with_matrix :
    ∀ e ∈ [(2 ^ 48 + 2 * 2 ^ 32 + 9 * 2 ^ 16 + 5, 0), (2 * 2 ^ 32, 3)], let w := mat 0 0
     let B : Bolt := { boltC [w] with rail := some (word 1 0 [(1, 107), (5, 91)]), mem := memWrite [] 0 (leBytes 8 e.1) }
     let k := matrixWord w
     let r : Run := { aRun 3 .running with base := 2 }
     let s : State := { onPatch with time := on.time, runs := [r], bolts := [(0, B)], bases := { onPatch.bases with slots := [(0, { onPatch.slot 0 with
       layers := [⟨5, e.2, 0, 0, 32, 32, 0, 127, 0, 0, 0⟩] })] } }
     Issues s 0 B r w 0 0 ∧ B.room ((arraysIn k.mask).map .matrix ++ [.rail]) = true ∧ k.cont = false ∧ k.hold = false ∧ k.epi = 0 ∧
       outside ((B.view k.p).extents (B.view k.p).fmt k.m k.k ++ qExtents (B.view k.q) k.k k.n ++
         (B.view k.out).extents (r.recipe k.kind).format k.m k.n) = none ∧
       let sel := s.slotSel r.base 5 (B.baseAt (B.view k.q).addr)
       s.railFault r (railRows B k.m) = none ∧ s.slotFault r 5 k.n sel (railRows B k.m) = (if e.2 = 3 then some 0 else none) ∧
       (e.2 = 0 → s.sideFault r 5 k.n sel (railRows B k.m) = none ∧ (s.sidePatch 5 ((railRows B k.m).getD 0 none)).isSome = true) := by
  unfold Issues; decide +kernel

theorem witness_rail :
    (∀ op ∈ [0, 1], let w := word 1 op [(1, 107), (5, 91)]
      let B := boltC [w]
      Issues (onBolt B) 0 B (aRun 3 .running) w 1 op ∧ B.room [.rail] = true) ∧
    (let w := mat 0 0
     let B : Bolt := { boltC [w] with rail := some (word 1 0 [(1, 107), (5, 91)]), mem := memWrite [] 0 (leBytes 8 (2 ^ 48 + 2 * 2 ^ 32 + 9 * 2 ^ 16 + 5)) }
     let s := onBolt B
     B.rail = some (word 1 0 [(1, 107), (5, 91)]) ∧ Issues s 0 B (aRun 3 .running) w 0 0 ∧
       s.railFault (aRun 3 .running) (railRows B (matrixWord w).m) ≠ none) ∧
    (let e0 : RowEntry := ⟨true, 1, 9, 5, false⟩
     let s := onPatch
     let r : Run := { aRun 3 .running with base := 2 }
     s.rowFault r e0 = none ∧ s.rowFault r { e0 with reserved := true } = some 0x72 ∧ s.rowFault r { e0 with selvage := 6 } = some 0x30 ∧ s.rowFault r { e0 with patch := 8 } = some 0x31 ∧
       s.rowFault { r with base := 3 } e0 = some 0x32 ∧ s.rowFault r { e0 with pv := false, selvage := 0 } = none) ∧
    (let rl := railWord (word 1 0 [(1, 107), (5, 91)])
     let sides : List (Option (Patch × FactorPlace)) := [none, some (patch9, ⟨0, 8, 32, 32, 0⟩)]
     rl.reuse = false ∧ [[Machine.Num.nan], [Machine.Num.nan]].length = sides.length ∧ sides[1]? = some (some (patch9, ⟨0, 8, 32, 32, 0⟩)) ∧ sides[0]? = some none) := by
  unfold Issues; decide +kernel

/-- Cursor 5 in device memory at 0, 6 in window 0 at 0, 7 in the base image at 0; cursor 1 in the local store at 0. -/
def farBolt (w : PWord) : Bolt :=
  { bolt0 [w] with cursors := [(1, { ({} : Cursor) with base := 0 }), (5, { ({} : Cursor) with space := 1 }),
      (6, { ({} : Cursor) with space := 2 }), (7, { ({} : Cursor) with space := 3 })] }
/-- STREAM of one row of one line from cursor `a` to cursor `d`. -/
def stream (op a d : Nat) : PWord := word 4 op [(a, 107), (d, 102)]
def piecesOf (w : PWord) : List (Nat × Nat × Nat) :=
  let B := farBolt w
  streamPieces (B.view (streamWord w).src) (B.view (streamWord w).dst) (streamWord w).rows (streamWord w).len

theorem witness_stream_load :
    (let w := stream 0 5 1
     let B := farBolt w
     let r := aRun 3 .running
     Issues (onBolt B) 0 B r w 4 0 ∧ B.room [.streamer] = true ∧ (B.view (streamWord w).src).space = 1 ∧ (onBolt B).hasSleeve (ownerNum r.hdr.owner) slv ∧
       ((onBolt B).readFault slv r B.xlate (pieceLines (piecesOf w))).2 = none ∧ (∀ l ∈ linesOf 0 128, devTag slv r l = 0) ∧
       outside ((piecesOf w).map fun p => (p.2.1, p.2.2)) = none) ∧
    (let w := stream 0 6 1
     let B := farBolt w
     let v : Sleeve := { slv with windows := [⟨0, 7, 0, 4096, true, true⟩] }
     let s : State := { onBolt B with sleeves := [v], hif := { on.hif with atc := [⟨7, 0, 1, true, true, 0⟩] } }
     Issues s 0 B (aRun 3 .running) w 4 0 ∧ (B.view (streamWord w).src).space = 2 ∧ s.hasSleeve 0 v ∧ s.hif.link = .l0 ∧ s.hif.d3hot = false ∧
       s.missingPage v (hostReads (piecesOf w)) = none ∧ outside ((piecesOf w).map fun p => (p.2.1, p.2.2)) = none) ∧
    (let w := stream 0 7 1
     let B := farBolt w
     let r : Run := { aRun 3 .running with base := 2 }
     let s : State := { onBolt B with bases := onBase.bases, runs := [r] }
     Issues s 0 B r w 4 0 ∧ (B.view (streamWord w).src).space = 3 ∧ s.slotOf r.base = some 0 ∧ meetsPage (s.slot 0).lost (piecesOf w) = false ∧
       meetsPage (s.slot 0).refetch (piecesOf w) = false ∧ (∀ e ∈ B.sideRows, e.1 = none) ∧
       (let image := (piecesOf w).map fun p => (memRead (s.slot 0).mem p.1 p.2.2).map fun x => (x, (0 : BitVec 16))
        (lineTags ((List.zip (piecesOf w) image).map fun e => placePiece e.1.2.1 e.2).flatten (some [])).isSome = true) ∧ outside ((piecesOf w).map fun p => (p.2.1, p.2.2)) = none) := by
  unfold Issues State.hasSleeve; decide +kernel

/-- `n` lines in the spill slots of die 0, and `k` more in its directory's share. -/
def filled (n k : Nat) : State := { on with memSide := { on.memSide with
  spilled := List.replicate n (0, 0), unsettled := List.replicate (n + k) (0, 0) } }

theorem filled_spills (n k : Nat) (hn : spillSlots ≤ n) (hk : directoryLines ≤ k) : (filled n k).spillFull [(0, 0)] = true := by
  have hd : (filled n k).dieOf 0 0 = 0 := rfl
  have hr (m : Nat) : (filled n k).onDie 0 (List.replicate m (0, 0)) = List.replicate m (0, 0) := by simp [State.onDie, hd]
  have hs : (filled n k).spilled = List.replicate n (0, 0) := by simp [State.spilled, filled, on, State.reset]
  have hb : (filled n k).basted = [] := rfl
  have hc : (filled n k).cachedLines 0 = k := by
    have hu : (filled n k).memSide.unsettled = List.replicate (n + k) (0, 0) := rfl
    unfold State.cachedLines; rw [hb, hu, hs, List.nil_append, hr, hr, List.length_replicate, List.length_replicate]; omega
  have h1 : (filled n k).onDie 0 [(0, 0)] = [(0, 0)] := hr 1
  have hm : (0, 0) ∈ (filled n k).onDie 0 ((filled n k).spillsOf [(0, 0)]) := by
    refine List.mem_filter.mpr ⟨List.mem_flatMap.mpr ⟨0, by decide, ?_⟩, by simp [hd]⟩
    rw [hc, h1, Nat.sub_eq_zero_of_le hk]; exact List.mem_cons_self
  have hl := List.length_pos_of_mem hm
  refine List.any_eq_true.mpr ⟨0, by decide, decide_eq_true ?_⟩
  rw [hs, hr, List.length_replicate]
  exact ⟨by omega, by omega⟩

theorem witness_spill_full : (filled spillSlots directoryLines).spillFull [(0, 0)] = true ∧ on.spillFull [(0, 0)] = false :=
  ⟨filled_spills _ _ (Nat.le_refl _) (Nat.le_refl _), by decide +kernel⟩

theorem witness_stream_store_tload :
    (∀ d ∈ [5, 6], let w := stream 1 1 d
      let B := farBolt w
      let ps := piecesOf w
      let data := ps.map fun p => (memRead B.mem p.1 p.2.2).zipIdx.map fun e => (e.1, B.lineTag ((p.1 + e.2) / 128))
      let ms := ((List.zip ps data).map fun e => placePiece e.1.2.1 e.2).flatten
      Issues (onBolt B) 0 B (aRun 3 .running) w 4 1 ∧ lineTags ms (some []) = some [(0, 0)] ∧ outside (ps.map fun p => (p.1, p.2.2)) = none ∧
        ((onBolt B).translate slv [0] B.xlate).2 = none ∧ (∀ l ∈ slv.leaves, l.node = 0xFFFF) ∧
        (B.view (streamWord w).dst).space = (if d = 5 then 1 else 2)) ∧
    (let w := word 4 2 [(5, 107), (1, 102), (1, 86), (1, 70)]
     let B := farBolt w
     let k := streamWord w
     let src := B.view k.src
     let rb := rowBytes src.fmt k.len
     Issues (onBolt B) 0 B (aRun 3 .running) w 4 2 ∧ src.space = 1 ∧ isMx src.fmt = false ∧ 8 ∣ k.rows * fmtWidth src.fmt ∧ (B.view k.dst).pitch = 0 ∧
       ((onBolt B).readFault slv (aRun 3 .running) B.xlate (pieceLines ((List.range k.rows).map fun i => (src.row rb i, 0, rb)))).2 = none ∧
       outside ((B.view k.dst).extents src.fmt k.len k.rows) = none) ∧
    ∀ a, devTag slv (aRun 3 .running) a = 0 := by
  refine ⟨?_, ?_, fun _ => rfl⟩ <;> (unfold Issues; decide +kernel)

theorem witness_stream_stops :
    (let w := stream 0 5 1
     let B : Bolt := { farBolt w with cursors := put {} (farBolt w).cursors 5 { ({} : Cursor) with space := 1, base := 65536 } }
     let r := aRun 3 .running
     let ps := streamPieces (B.view 5) (B.view 1) 1 1
     Issues (onBolt B) 0 B r w 4 0 ∧ (onBolt B).hasSleeve 0 slv ∧ ((onBolt B).readFault slv r B.xlate (pieceLines ps)).2 = some (65536, 0x10)) ∧
    (slv.leafAt 65536 = none ∧ on.walkBad 0 65536 0 = false ∧ slv.leafAt 65535 ≠ none ∧
      (let s : State := { on with memSide := { on.memSide with badTables := [(0, 0, 65536 / tableRange 0), (0, 0, 0)] } };
        s.walkBad 0 65536 0 = true ∧ s.walkBad 0 65535 0 = true) ∧
      (let v : Sleeve := { slv with poison := [0] }; (0 : Nat) / 128 ∈ v.poison ∧ bastedLine (aRun 3 .running) 0 = none) ∧
      (let v : Sleeve := { slv with tags := [(0, 5)] }; devTag v (aRun 3 .running) 0 ≠ 0 ∧ (devTag v (aRun 3 .running) 0).toNat ∉ on.heldTenants) ∧
      0 / 128 ∉ slv.poison ∧ devTag slv (aRun 3 .running) 0 = 0) ∧
    ((onBolt (bolt0 [])).liveRun 0 = some (aRun 3 .running) ∧ slv.leafAt 65535 = some ⟨0, 0, 0, 1, 0, true, 0xFFFF, false, 0⟩ ∧
      0 ∉ ((onBolt (bolt0 [])).bolt 0).xlate ∧ on.walkBad 0 65535 0 = false) := by
  unfold Issues State.hasSleeve; decide +kernel

/-- STACK on lane 3 with the operand at cursor 1, one token of 32 elements under tag 7. -/
def stack (op mapEn : Nat) : PWord := word 5 op [(3, 110), (1, 103), (2, 98), (mapEn, 97), (7, 81), (31, 65)]
def frame7 : Frame := ⟨7, 0, 0, 0, 32, 1, 127, [⟨0, 1, true, List.replicate 64 0⟩], 0, false⟩
def laneBolt (w : PWord) (size : Nat) (fs : List Frame) : Bolt := { boltC [w] with lanes := [(3, { size := size, frames := fs, stop := sumOf (fs.map Frame.lines) })] }

theorem witness_stack_maps :
    (∀ op ∈ [0, 1, 2, 3], let w := stack op 1
      let B (x : Nat) : Bolt := { laneBolt w 384 [] with mem := memWrite [] 256 (leBytes 8 x) }
      Issues (onBolt (B (2 ^ 32))) 0 (B (2 ^ 32)) (aRun 3 .running) w 5 op ∧ Issues (onBolt (B (2 ^ 49 + 2 ^ 32))) 0 (B (2 ^ 49 + 2 ^ 32)) (aRun 3 .running) w 5 op ∧
        (B (2 ^ 32)).room [.stack] = true ∧ mapReserved (stackRows (B (2 ^ 32)) (stackWord w)) = false ∧
        mapReserved (stackRows (B (2 ^ 49 + 2 ^ 32)) (stackWord w)) = true ∧ mapReserved (stackRows (laneBolt (stack op 0) 384 []) (stackWord (stack op 0))) = false) := by
  unfold Issues; decide +kernel

theorem witness_stack_push :
    (∀ size ∈ [128, 384], let w := stack 0 0
      let B := laneBolt w size []
      let k := stackWord w
      let v := B.view k.ls
      Issues (onBolt B) 0 B (aRun 3 .running) w 5 0 ∧ B.room [.stack] = true ∧ k.codec = 0 ∧
        tagFault B v k.width (starts 0 (stackRows B k)) 0 = none ∧ outside (v.extents v.fmt 1 k.width) = none ∧
        B.laneSize k.lane = size ∧ (laneSeen B (aRun 3 .running) 0 k.lane).stop = 0) ∧
    (let w := stack 0 0
     let B : Bolt := { laneBolt w 384 [] with tags := [(0, 5)] }
     let k := stackWord w
     Issues (onBolt B) 0 B (aRun 3 .running) w 5 0 ∧ tagFault B (B.view k.ls) k.width (starts 0 (stackRows B k)) 0 = some 0) ∧
    (∀ size ∈ [0, 384], let w := stack 2 0
      let B := laneBolt w size []
      Issues (onBolt B) 0 B (aRun 3 .running) w 5 2 ∧ B.laneSize 3 = size) := by
  unfold Issues; decide +kernel

theorem witness_stack_pop :
    (∀ op ∈ [1, 3], Issues (onBolt (laneBolt (stack op 0) 384 [])) 0 (laneBolt (stack op 0) 384 []) (aRun 3 .running) (stack op 0) 5 op ∧
      framesOf (laneBolt (stack op 0) 384 []) (aRun 3 .running) 0 3 = []) ∧
    (let w := stack 1 0
     let B := laneBolt w 384 [frame7]
     let k := stackWord w
     let v := B.view k.ls
     Issues (onBolt B) 0 B (aRun 3 .running) w 5 1 ∧ framesOf B (aRun 3 .running) 0 k.lane = [frame7] ∧ frame7.lost = false ∧
       popMatches frame7 k 1 v.ownFmt = true ∧ popMatches { frame7 with tag := 8 } k 1 v.ownFmt = false ∧ k.mapEn = false ∧ k.widen = false ∧
       outside (v.extents frame7.fmt 1 frame7.width) = none ∧ frame7.rows.length = 1 ∧ isMx frame7.fmt = false ∧ 32 ∣ frame7.width) ∧
    (let w := stack 3 0
     let f : Frame := { frame7 with fmt := 2 }
     let B := laneBolt w 384 [f]
     Issues (onBolt B) 0 B (aRun 3 .running) w 5 3 ∧ f.lost = false ∧ f.tag = BitVec.ofNat 16 (stackWord w).tag ∧ f.fmt = (onBolt B).baseLatchFmt 0 ∧
       rowTableFault f.rows (stackRows B (stackWord w)) 0 = none ∧ frame7.fmt ≠ (onBolt B).baseLatchFmt 0) := by
  unfold Issues; decide +kernel

theorem witness_lossless :
    (2 : Nat) ≤ 10 ∧ (List.replicate 32 1).length = 32 * 1 ∧ (∀ x ∈ List.replicate 32 1, x < 2 ^ fmtWidth 2) ∧ isMx 2 = false ∧
    (∀ x ∈ List.replicate 64 (2 ^ fmtWidth 4 - 1), x < 2 ^ fmtWidth 4) ∧ isMx 4 = true ∧ ∀ x ∈ [0, 255], x < 256 := by
  decide +kernel

theorem witness_reduce :
    (∀ op ∈ [0, 1], let w := word 7 op [(3, 108), (1, 103), (1, 82), (7, 46)]
      let B := boltC [w]
      let s : State := { onBolt B with groups := [⟨0, group3, true, false, [], []⟩] }
      Issues s 0 B (aRun 3 .running) w 7 op ∧ B.room [.seam] = true ∧ s.group 0 (reduceWord w).group = some ⟨0, group3, true, false, [], []⟩ ∧
        group3.format ≠ 1 ∧ mapReserved (rowMap B.mem (B.view (reduceWord w).mapCur).addr 65536) = false ∧
        (let C : Bolt := { B with mem := memWrite [] (B.view (reduceWord w).mapCur).addr (leBytes 8 (2 ^ 49 + 2 ^ 32)) }
         mapReserved (rowMap C.mem (C.view (reduceWord w).mapCur).addr 65536) = true ∧ C.room [.seam] = true) ∧
        (s.activePost 3).isNone = true ∧ outside ((B.view (reduceWord w).ls).extents (B.view (reduceWord w).ls).fmt 1 (64 * (reduceWord w).blocks)) = none) := by
  unfold Issues; decide +kernel

theorem witness_local_store :
    (let B : Bolt := { boltC [rotWord] with cursors := put {} cursors 4 { ({} : Cursor) with base := 24 * 1048576 - 63 } }
     Issues (onBolt B) 0 B (aRun 3 .running) rotWord 3 0 ∧ B.room [.rotation] = true ∧
       outside ((B.view 1).extents (B.view 1).fmt 1 32 ++ (B.view 4).extents ((aRun 3 .running).recipe 0).format 1 32) = some (24 * 1048576)) ∧
    (∀ e ∈ vectorElementRows, let w := vec e.2.1 1
      let B : Bolt := { boltC [w] with cursors := put {} cursors 1 { ({} : Cursor) with base := 24 * 1048576 } }
      Issues (onBolt B) 0 B (aRun 3 .running) w 2 0 ∧ (vectorWord w).func = e.2.1 ∧ (vectorWord w).chain = true ∧
        outside (vecReads B (vectorWord w)) = some (24 * 1048576 + 3)) := by
  unfold Issues; decide +kernel

theorem witness_bolt_events :
    (let p : Prim := ⟨0, 0, some 1, []⟩
     ∀ q ∈ [({ vector := [p] } : Queues), { rotation := [p] }, { streamer := [p] }, { stack := [p] }, { seam := [p] }],
      let B : Bolt := { bolt0 [] with q := q }
      let s := onBolt B
      s.time.hem = false ∧ s.liveRun 0 = some (aRun 3 .running) ∧ (s.bolt 0).ended = false ∧
        (∃ u ∈ [UnitId.vector, .rotation, .streamer, .stack, .seam], (s.bolt 0).queue u = [p] ∧ s.postPending 0 u = false)) ∧
    (∀ a < 4, let p : Prim := ⟨0, 0, some 1, []⟩
      let B : Bolt := { bolt0 [] with mu := put {} [] a { ({} : MatrixUnit) with cold := false, level := 8, queue := [p] } }
      let s := onBolt B
      s.liveRun 0 = some (aRun 3 .running) ∧ (s.bolt 0).queue (.matrix a) = [p] ∧ (look {} (s.bolt 0).mu a).cold = false ∧
        ∀ x < 4, x ≠ a → ∀ q ∈ (s.bolt 0).queue (.matrix x), q.no ≠ p.no) ∧
    (let u := look {} ({ bolt0 [] with mu := [(3, { ({} : MatrixUnit) with cold := false })] } : Bolt).mu 3; u.cold = false ∧ u.queue = []) ∧
    (∀ a < 4, (look {} (bolt0 []).mu a).cold = true) ∧
    (let u : MatrixUnit := { ({} : MatrixUnit) with cold := false, level := 8, keeper := true, stalled := true }; u.cold = false ∧ u.queue = []) ∧
    (onBolt (bolt0 [])).reservedOn 0 3 = true ∧ on.reservedOn 0 3 = false ∧ (onBolt (bolt0 [])).time.hem = false ∧
    (on.time.hem = false ∧ (onPatch.patch 9).map (·.lost) = some false) := by
  decide +kernel

theorem witness_hem_edge :
    on.stitching = true ∧ on.time.hem = false ∧ onHem.stitching = true ∧ onHem.time.hem = true ∧ onHem.ownEdges = true ∧
    (let s : State := { onHem with power := { onHem.power with capNext := some (624, [2, 1, 0]) } }; s.power.capNext = some (624, [2, 1, 0]) ∧ s.ownEdges = true) ∧
    (let s : State := { onHem with domain := { onHem.domain with standalone := false, role := .topManager } }; s.domain.standalone = false ∧ s.ownEdges = true) ∧
    (∀ e ∈ [4, 5], let s : State := { onHem with domain := { onHem.domain with planDue := some e, resend := [.tickWord 0xB2 1] } }
      s.ownEdges = true ∧ s.stitching = true ∧ s.domain.planDue = some e ∧ s.domain.resend ≠ [] ∧
        (e = 4 → e ≤ s.time.stitch.toNat + 1) ∧ (e = 5 → s.time.stitch.toNat + 1 < e)) := by
  decide +kernel

theorem witness_descriptor_read :
    let q : Sq := { sq0 with d := 7, pi := 4 }
    let s : State := { on with sleeves := [{ slv with sqs := [q] }] }
    s.sqAt (.sleeve 0) 0 = some q ∧ s.readable (.sleeve 0) q = true ∧
    (∀ n ∈ [6, 7], let sq := BitVec.ofNat 16 (fieldOf (leBytes 128 n) 0 2)
      1 ≤ (sq - q.l).toNat ∧ (sq - q.l).toNat ≤ (q.d - q.l).toNat) ∧
    (∀ n ∈ [5, 8], let sq := BitVec.ofNat 16 (fieldOf (leBytes 128 n) 0 2)
      ¬ ((1 ≤ (sq - q.l).toNat ∨ q.lastSeq = some sq) ∧ (sq - q.l).toNat ≤ (q.d - q.l).toNat)) ∧
    ∀ n ∈ [15, 16], let q : Sq := { q with retries := n }
      let s : State := { on with sleeves := [{ slv with sqs := [q] }] }
      s.sqAt (.sleeve 0) 0 = some q ∧ s.readable (.sleeve 0) q = true := by
  decide +kernel

def commit1 : Commit := ⟨.sleeve 0, 0, true, false, [], ⟨0x1234, 0, 0, true, 0, 0, 0, 3, 2, 1, 0, 0, 0, 255, 0⟩, none⟩

theorem witness_go :
    let s : State := { on with hif := { on.hif with commits := [commit1] } }
    s.hif.commits = [commit1] ∧ commit1.issued = true ∧ commit1.answered = false ∧ commit1.sent = none ∧ s.hostOpen = true ∧ s.cqAt commit1.owner commit1.cq = some cq0 ∧
      cq0.full = false ∧ cq0.appearsFull = false ∧ s.hif.msixDue = [] ∧ s.evq.waiting = [] ∧ s.hif.heldInv = [] ∧
      (∀ v ∈ s.sleeves, v.stage ≠ .finish) ∧
      (let q : Cq := { cq0 with tail := 15, head := 3 }; q.full = false ∧ q.appearsFull = false ∧ q.tail + 1 = q.size) ∧
    ∀ en ∈ [true, false], let o := Output.compRec 7 0x20000 true commit1.record
      let c : Commit := { commit1 with answered := true, sent := some o }
      let s : State := { on with hif := { on.hif with commits := [c], msixEnable := en, msixTable := [(0, { ({} : MsixEntry) with masked := false })] } }
      s.hif.commits = [c] ∧ c.issued = true ∧ s.hostOpen = true ∧ s.cqAt c.owner c.cq = some cq0 ∧ c.sent = some o ∧ s.hif.msixEnable = en ∧
        s.hif.msixMaskAll = false ∧ (look {} s.hif.msixTable cq0.vector).masked = false ∧ s.hif.msixDue = [] ∧ s.evq.waiting = [] ∧
        s.hif.heldInv = [] ∧ ∀ v ∈ s.sleeves, v.stage ≠ .finish := by
  decide +kernel

theorem witness_bad_line :
    on.hasSleeve 0 slv ∧ (onBase.slot 0).state ≠ .free ∧ onPatch.patch 9 = some patch9 ∧ on.rel.unravel = none ∧
    (let s := onBolt (laneBolt (stack 1 0) 384 [frame7])
     (look {} (s.bolt 0).lanes 3).frames = [frame7] ∧ s.liveRun 0 = some (aRun 3 .running) ∧ (aRun 3 .running).baste.lanes = []) ∧
    (let L : Lane := ⟨384, [frame7], 0, 2⟩
     let r : Run := { aRun 3 .running with baste := { (aRun 3 .running).baste with lanes := [(laneNo 0 3, L)] } }
     let s : State := { onBolt (laneBolt (stack 1 0) 384 [{ frame7 with tag := 8 }, frame7]) with runs := [r] }
     s.liveRun 0 = some r ∧ r.baste.lanes.find? (fun x => x.1 == laneNo 0 3) = some (laneNo 0 3, L) ∧ L.frames = frame7 :: [] ∧
       (look {} (s.bolt 0).lanes 3).frames = [{ frame7 with tag := 8 }] ++ frame7 :: []) ∧
    ({ on with rel := { on.rel with unravel := some (1, 4) } } : State).rel.unravel ≠ none ∧
    (look {} ({} : Bolt).lanes 3).frames = [] ∧ (0 : Nat) < 16 := by
  unfold State.hasSleeve; decide +kernel

theorem witness_memory_care :
    (let s : State := { on with memSide := { on.memSide with pageCorr := List.replicate 16 (0, 0, 0) } }
     s.pageExists 0 65535 = true ∧ s.pageFails 0 (65535 / 65536) = true ∧ s.writesPage 0 (65535 / 65536) = false ∧ s.memSide.retiring = [] ∧
       0 < s.memSide.spares ∧
       (let t : State := { s with memSide := { s.memSide with spares := 0 }, evq := { s.evq with en := true } }
        t.memSide.spares = 0 ∧ t.memSide.sparesReported = false ∧ t.evq.en = true ∧ t.evq.mask.getLsbD 10 = false ∧ t.pageFails 0 0 = true)) ∧
    ((0 : Nat) < 16 ∧ on.hasSleeve 0 slv ∧ (∀ l ∈ slv.leaves, l.dva % 65536 = 0) ∧ (slv.leafAt 65535).isSome = true ∧ (65535 : Nat) / 65536 = 0) ∧
    ({ on with memSide := { on.memSide with pageCorr := List.replicate 15 (0, 0, 0) } } : State).pageFails 0 (65535 / 65536) = false ∧
    onHem.time.hem = true ∧ 0 < on.memSide.spares ∧ (List.replicate 65536 (0 : Byte)).length = 65536 ∧
    (let t : State := { onBase with bases := { onBase.bases with slots := put {} onBase.bases.slots 0 { onBase.slot 0 with refetch := [0] } } }
     (0 : Nat) ∈ (t.slot 0).refetch) := by
  unfold State.hasSleeve; decide +kernel

theorem witness_host_pages :
    (onBolt (bolt0 [])).liveRun 0 = some (aRun 3 .running) ∧
    (let v : Sleeve := { slv with windows := [⟨0, 7, 0, 4096, true, true⟩] }
     let s : State := { onBolt (bolt0 []) with sleeves := [v], hif := { on.hif with atc := [⟨7, 0, 1, true, true, 5⟩] } }
     s.hasSleeve 0 v ∧ v.hostAddr 4095 = some (7, 4095) ∧ v.windows.find? (fun x => x.id == (windowOf 4095).1) = some ⟨0, 7, 0, 4096, true, true⟩ ∧
       0 < s.pageRoom v.id ∧ s.hif.pageReqs = [] ∧ s.hostLine v 4095 = some (5 * 64 + 63)) ∧
    ((false || true) = true ∧ (1 : Nat) ≠ 0 ∧ on.hif.atc.length < 8192) ∧
    (let q : PageReq := ⟨511, 0, 7, 0, true, 1, 0, .asked⟩
     let s : State := { onBolt (bolt0 []) with hif := { on.hif with pageReqs := [q] } }
     s.hif.pageReqs = [q] ∧ q.answered 7 0 0 = true ∧ s.findRun q.run = some (aRun 3 .running) ∧ (aRun 3 .running).stop = none ∧
       q.answered 7 1 1 = false) ∧
    (on.commitCovers 7 0 1 = false ∧
      ({ on with hif := { on.hif with commits := [{ commit1 with writes := [.hostWrite 7 4095 [0] none] }] } } : State).commitCovers 7 0 1 = true) ∧
    (let g : PageReq := ⟨511, 0, 7, 0, true, 0, 0, .sent⟩
     let s : State := { on with hif := { on.hif with pageReqs := [g] } }
     s.hif.pageReqs.find? (fun q => q.inGroup g.group) = some g ∧ g.run = 0 ∧ ∀ q ∈ s.hif.pageReqs, q.stage = .sent) ∧
    (let g : PageReq := ⟨0, 0, 7, 0, true, 1, 0, .sent⟩
     let s : State := { onBolt (bolt0 []) with hif := { on.hif with pageReqs := [g, { g with group := 1 }] } }
     s.hif.pageReqs.find? (fun q => q.inGroup g.group) = some g ∧ g.run ≠ 0 ∧ (∀ q ∈ s.hif.pageReqs, q.stage = .sent) ∧
       s.findRun g.run = some (aRun 3 .running) ∧ (aRun 3 .running).stop = none ∧
       ∃ q ∈ s.hif.pageReqs.filter (fun q => !q.inGroup g.group), q.run = g.run) ∧
    (let g : PageReq := ⟨0, 0, 7, 0, true, 1, 0, .sent⟩
     let s : State := { on with runs := [aRun 0 .waiting], hif := { on.hif with pageReqs := [g] } }
     s.hif.pageReqs.find? (fun q => q.inGroup g.group) = some g ∧ (∀ q ∈ s.hif.pageReqs, q.stage = .sent) ∧ (aRun 0 .waiting).id = g.run ∧
       (aRun 0 .waiting).stop = none ∧ (aRun 0 .waiting).preds = [] ∧ s.hasSleeve 0 slv ∧
       s.hif.pageReqs.filter (fun q => !q.inGroup g.group) = []) := by
  unfold State.hasSleeve; decide +kernel

theorem witness_host_link :
    ({ on with hif := { on.hif with d3hot := true } } : State).hostOpen = false ∧ on.hostOpen = true ∧
    on.hif.link = .l0 ∧ (∃ e ∈ ({ on.hif with lineCache := [(0, 5)] } : HostIf).lineCache, e.2 = 5) ∧ (∀ e ∈ on.hif.lineCache, e.2 ≠ 5) ∧
    ({ on.hif with link := .recovery } : HostIf).link = .recovery ∧ ({ on.hif with d3hot := true } : HostIf).d3hot = true ∧ on.sleeves ≠ [] ∧
    (let s : State := { on with sleeves := [], dev := { on.dev with teardown := true } }; s.dev.teardown = true ∧ s.sleeves = []) ∧
    (let q : Cq := { cq0 with full := true, tail := 15 }
     let s : State := { on with sleeves := [{ slv with cqs := [q] }] }
     s.cqAt (.sleeve 0) 0 = some q ∧ q.full = true ∧ ({ q with head := 0 } : Cq).appearsFull = true ∧ ({ q with head := 1 } : Cq).appearsFull = false ∧
       s.hif.commits = [] ∧ s.evq.waiting = [] ∧ s.hif.msixDue = [] ∧ ∀ v ∈ s.sleeves, v.stage ≠ .finish) := by
  decide +kernel

/-- A worker of domain 0 under manager node 0, with port 0 in state `st` to the manager. -/
def member (st : PortState) : State :=
  { on with
    domain := { on.domain with standalone := false, node := 7, manager := 0, role := .worker, parent := some 0 }
    ports := [(0, { ({} : Port) with state := st, peerNode := 0 })] }
def managed (r : Role) : State := { member .up with domain := { (member .up).domain with role := r, node := 0, roster := [⟨7, 1, none⟩] } }
def trained : TrainResult := ⟨true, List.replicate 8 [0, 0, 0], 0, 10, 0, 1, 0, true, true⟩

theorem witness_ports :
    ((member .down).seamOpen = true ∧ ((member .down).port 0).state = .down ∧ 0 / 8 ∉ (member .down).power.hotBays ∧
      ((member .down).port 47).state = .down ∧ 47 / 8 ∉ (member .down).power.hotBays) ∧
    ({ ((member .down).port 0) with signal := true } : Port).signal = true ∧
    (∃ k ∈ List.range 256, (adopted { trained with peerConfig := k }).isSome = true) ∧
    ((member .training).port 0).state = .training ∧ trained.ok = true ∧ trained.chainOk = true ∧ trained.keyOk = true ∧
    ({ on.dev with bootCert := true } : Dev).bootCert = true ∧ on.snap.ctrl = 0 ∧
    ((member .up).port 0).state = .up ∧ ((member .standby).port 0).state = .standby ∧ ((member .fenced).port 0).state = .fenced ∧
    (let s : State := { member .down with power := { on.power with hotBays := [0, 5] } }; (5 : Nat) < 6 ∧ (5 : Nat) ∈ s.power.hotBays ∧ s.seamOpen = true) := by
  decide +kernel

/-- A flit with its own CRC-32 (R264, R265). -/
def flit (vc k seq ack : Nat) : Flit :=
  let h := flitHeader vc k (BitVec.ofNat 12 seq) (BitVec.ofNat 12 ack)
  ⟨h, List.replicate 240 0, BitVec.ofNat 32 (crc32 (leBytes 4 h.toNat ++ List.replicate 240 0)), some 4⟩
def seg (dst vc counter : Nat) : Segment := ⟨0, 0, dst, vc, true, counter, 64, 0, none⟩

theorem witness_flits :
    (member .up).power.pstate ≠ .rest ∧ (member .standby).power.pstate ≠ .rest ∧
    (∀ k < 3, let P := (member .up).port 0; let f := flit 23 k 0 4095
      P.state = .up ∧ f.fecOk = true ∧ f.corrected ≤ P.correctable ∧ f.payload.length = P.flitPayload ∧ flitCrcOk f = true ∧ flitKind f = k ∧
        flitSeq f = P.expect ∧ flitVc f = 23 ∧ P.carries 23 = true ∧ sumOf (P.rxUsed.map (·.2)) < 2048 ∧ P.queue = [] ∧ flitAck f + 1 = P.acked) ∧
    (let f := flit 1 0 1 0; ((member .standby).port 0).carries 1 = true ∧ flitSeq f ≠ ((member .standby).port 0).expect) ∧
    (let f : Flit := { flit 23 0 0 0 with fec := none }; f.fecOk = false) ∧
    (((member .up).port 0).correctable < ({ flit 23 0 0 0 with fec := some 5 } : Flit).corrected) ∧
    (let f : Flit := { flit 23 0 0 0 with crc := (flit 23 0 0 0).crc + 1 }
     f.fecOk = true ∧ f.corrected ≤ ((member .up).port 0).correctable ∧ flitCrcOk f = false) ∧
    (let g := seg 9 5 1
     let P : Port := { ((member .up).port 0) with queue := [(g, 1)] }
     P.queue = [(g, 1)] ∧ 2 ≤ g.vc ∧ P.carries g.vc = true ∧ 1 ≤ look 0 P.credits g.vc + 1 ∧ (1 : Nat) ≤ 1024 - (P.sent - P.acked).toNat) ∧
    (∀ n ∈ [15, 16], let P : Port := { ((member .up).port 0) with sent := 1, replayFails := n }
      P.queue = [] ∧ flitAck (flit 0 2 0 4095) + 1 = P.acked ∧ P.sent ≠ P.acked ∧ (P.replayFails < 16 ∨ 16 ≤ P.replayFails)) := by
  decide +kernel

theorem witness_segments :
    (∀ n ∈ [0, 1], let g := seg 9 5 1
      let P : Port := { ({} : Port) with state := .up, peerNode := 0, credits := put 0 [] 5 n }
      let s : State := { member .up with ports := (List.range 48).map fun x => (x, P) }
      (s.port 0).carries g.vc = true ∧ g.dst ≠ s.domain.node ∧ 2 ≤ g.vc ∧
      (∀ q < 48, (s.port q).queue = [] ∧ (s.port q).carries g.vc = true ∧ look 0 (s.port q).credits g.vc = n ∧ (s.port q).flitsOf g.length = 1 ∧
        (1 : Nat) ≤ 1024 - ((s.port q).sent - (s.port q).acked).toNat)) ∧
    (let s := member .up
     (s.port 0).carries 0 = true ∧ (seg 7 0 1).dst = s.domain.node ∧ s.keyable (seg 7 0 1) = true ∧ s.segWindow (seg 7 0 1) = none) ∧
    (let x : SegWindow := ⟨0, 0, 0, 5000, [904, 5000]⟩
     let s : State := { member .up with segWindows := [x] }
     s.segWindow (seg 7 0 5000) = some x ∧ (5000 : Nat) ≤ x.high ∧ x.high - 5000 ≤ 4096 ∧ (5000 : Nat) ∈ x.seen ∧
       (904 : Nat) ≤ x.high ∧ x.high - 904 ≤ 4096 ∧ (904 : Nat) ∈ x.seen ∧ s.segWindow (seg 7 0 903) = some x ∧ 903 + 4096 < x.high ∧
       x.high < 5001) ∧
    (let r : Run := { aRun 3 .running with coll := some 3, collSeq := 1, collNo := some 2 }
     let s : State := { member .up with runs := [r] }
     s.keyable (seg 7 7 1) = false ∧ 4 ≤ (seg 7 7 1).vc ∧ s.awaiting 7 = some r ∧ s.findRun r.id = some r ∧ s.isManager = false ∧
       (s.port 0).carries 7 = true ∧ s.segWindow (seg 7 7 1) = none) := by
  decide +kernel

def edgeOf (stitch len epoch : Nat) : BitVec 56 := BitVec.ofNat 56 (stitch * 2 ^ 8 + len * 2 ^ 6 + epoch)

theorem witness_ticks :
    (let s : State := { member .up with time := { onHem.time with len := 1 } }
     (s.port 0).ticks = true ∧ s.hasManager = true ∧ s.stitching = true ∧ s.time.hem = true ∧ s.bringUp ≠ .tickWait ∧ s.domain.role ≠ .topManager ∧
       s.domain.parent = some (s.port 0).peerNode ∧ s.domain.tick = .locked ∧ s.time.lenNext = none ∧ s.domain.roleMove = none ∧
       (let w := edgeOf 4 1 0; edgeEpoch w = s.domain.epoch ∧ edgeStitch w = s.time.stitch.toNat + 1 ∧ edgeLen w = s.time.len) ∧
       edgeEpoch (edgeOf 4 1 3) - s.domain.epoch = 3) ∧
    (let s : State := { member .up with dev := { on.dev with phase := .tickWait } }
     s.dev.phase = .tickWait ∧ s.hasManager = true ∧ s.domain.parent = some (s.port 0).peerNode) ∧
    (member .up).follows = true ∧
    (let s : State := { member .up with domain := { (member .up).domain with tick := .holdover, missedEdges := 64 } };
      s.follows = true ∧ s.domain.tick = .holdover ∧ 64 ≤ s.domain.missedEdges) := by
  decide +kernel

theorem witness_decisions_triggers :
    (let s := member .up
     s.hasManager = true ∧ (s.port 0).ticks = true ∧ barrierKind (barrierTick 0 5 2 1 9) = 0 ∧
       s.collMembership (barrierColl (barrierTick 0 5 2 1 9)) = none ∧ barrierKind (barrierTick 1 5 2 0 0) = 1 ∧
       barrierKind (barrierTick 2 0 2 0 0) = 2 ∧ barrierKind (barrierTick 3 0 2 0 0) = 3 ∧ s.time.hem = false ∧ s.decidesColl 2 = false) ∧
    (let c : MgrColl := { membership := 3, seqNo := 0, number := some 2, place := some 4, complete := true }
     let s : State := { managed .topManager with domain := { (managed .topManager).domain with colls := [c] } }
     s.hasManager = true ∧ s.decidesColl 2 = true ∧ ∃ x ∈ s.domain.colls, x.number = some 2 ∧ x.decided = none ∧ x.complete = true) ∧
    (∀ a ∈ [[], [100]], let c : MgrColl := { membership := 3, seqNo := 0, arrivals := a, number := some 2, place := some 4 }
     let s : State := { managed .topManager with domain := { (managed .topManager).domain with colls := [c], presented := [(0, group3), (7, group3)] } }
     let w := barrierTick 0 5 2 2 9
     (s.port 0).ticks = true ∧ barrierKind w = 0 ∧ s.domain.colls.find? (fun c => decide (c.number = some (barrierColl w))) = some c ∧
       s.decides c.membership = true ∧ s.memberCount c.membership ≤ arriveCount s.domain.barriers (barrierColl w) (barrierId w) + barrierCount w ∧
       (c.released < c.arrivals.length ∨ c.arrivals.length ≤ c.released)) ∧
    (let s : State := { member .up with snap := { on.snap with ctrl := 0x12 } }
     s.snap.ctrl.getLsbD 4 = true ∧ on.snap.ctrl.getLsbD 4 = false ∧ s.snap.ctrl.getLsbD 1 = true ∧
       (∀ e ∈ [4, 3 + 32767], let n := stitchesTo s.time.stitch.toNat (bitsOf (triggerWordOf 1 e 0).toNat 55 40); 0 < n ∧ n < 32768) ∧
       s.snap.latched = false) := by
  decide +kernel

theorem witness_members :
    (let s := member .up
     s.hasManager = true ∧ s.isManager = false ∧ s.domain.rosterGen < 1 ∧ s.follows = true ∧ (3 : Nat) < 4 ∧ s.time.stitch.toNat < 4 ∧
       s.domain.role ≠ .topManager) ∧
    (let r : Run := { aRun 0 .candidate with coll := some 3, collSeq := 1, candidates := [6, 8] }
     let s : State := { member .up with runs := [r] }
     r.coll = some 3 ∧ r.collSeq = 1 ∧ r.phase = .candidate ∧ r.stop = none ∧ (∀ x ∈ s.runs, x.coll = some 3 → x.collSeq = 1 → x = r) ∧
       s.findRun r.id = some r ∧ r.candidates.contains 8 = true ∧ r.candidates.contains 7 = false) ∧
    (member .up).isManager = false ∧
    ({ member .up with board := { on.board with removal := .preparing } } : State).leaving = true ∧
    (let m : Mirror := ⟨1, [], [], [], 0, [], 0, [], 0, []⟩
     let s : State := { member .up with domain := { (member .up).domain with role := .standby, mirrored := some m, mirrorAcked := some 2 } }
     s.hasManager = true ∧ s.domain.role = .standby ∧ s.stitching = true ∧ s.domain.mirrored = some m ∧ s.mirrorFresh = true ∧
       ({ s with domain := { s.domain with mirrorAcked := some 1 } } : State).mirrorFresh = false) ∧
    (let s := member .up
     (∀ r ∈ s.runs, r.coll = some 274 → r.collSeq = 1 → r.phase = .waiting ∨ r.stop.isSome = true) ∧ look 0 s.domain.collSeq 274 ≤ 1 ∧
       (274, 1) ∉ s.domain.usedUp ∧ 256 ≤ 274) := by
  decide +kernel

theorem witness_managers :
    (let s := managed .topManager
     s.hasManager = true ∧ s.isManager = true ∧ 7 ≠ s.domain.node ∧ s.decides 3 = true ∧ (∀ c ∈ s.domain.colls, ¬(c.membership = 3 ∧ c.seqNo = 0)) ∧
       (3, 0) ∉ s.domain.soon ∧
       ({ s with time := onHem.time } : State).time.hem = true ∧ s.domain.role = .topManager ∧ s.time.hem = false ∧
       (∀ c ∈ s.domain.colls, s.includes c 7 = false) ∧ (∃ e ∈ s.domain.roster, e.node = 7) ∧ 7 ∈ group3.members ∧ s.blockDiffers group3 = false ∧
       ({ s with domain := { s.domain with presented := [(0, { group3 with headroom := group3.headroom + 1 })] } } : State).blockDiffers group3 = true ∧
       (7, 2) ∉ s.domain.loadReports) ∧
    (let c : MgrColl := { membership := 3, seqNo := 0, number := some 2, place := some 4 }
     let r : Run := { aRun 4 .placed with coll := some 3, collNo := some 2 }
     let s : State := { managed .topManager with domain := { (managed .topManager).domain with colls := [c] }, runs := [r] }
     s.decidesColl 2 = true ∧ (∃ c ∈ s.domain.colls, c.number = some 2 ∧ c.decided = none) ∧
       s.domain.colls.find? (fun c => decide (c.number = some 2)) = some c ∧
       s.runs.find? (fun r => decide (r.coll = some c.membership ∧ r.collSeq = c.seqNo ∧ r.phase ≠ .waiting ∧ r.stop = none)) = some r ∧
       s.findRun r.id = some r) := by
  decide +kernel

/-- A ring group of nodes 0 and 7, of which this module is rank 1, and a post of two blocks to it. -/
def ring : GroupBlock := { group3 with schedule := 1 }
def gr : Group := ⟨0, ring, true, false, [], []⟩
def dataBlock (ovf : Bool) (contrib : Nat) : Bsr16 := ⟨List.replicate 64 1, 127, residueOf (List.replicate 64 1), 0, false, ovf, contrib⟩
def post (pass : Pass) : Post :=
  { run := 1, bolt := 0, group := 3, no := 0, prim := 0, gradient := false, parts := [], cursor := 1, source := 0, shape := [.blocks 2]
    shapes := [], tree := false, tag := 7, blocks := 2, vals := List.replicate 2 (List.replicate 64 Machine.zero), emax := [(0, false), (0, false)], kept := [[], []]
    work := [dataBlock false 1, dataBlock false 1], added := [0, 0], total := [false, false], e1 := [], pass := pass }
def reducing (p : Post) : State := { member .up with groups := [gr], posts := [p], runs := [aRun 3 .running] }

theorem witness_reductions :
    ring.format ≠ 1 ∧ (aRun 3 .running).stop = none ∧ (aRun 3 .running).mismatch = false ∧
    (∀ pass ∈ [Pass.exponent, .data], let p := post pass
      let s := reducing p
      s.activePost 3 = some p ∧ s.findRun p.run = some (aRun 3 .running) ∧ s.group 0 3 = some gr ∧
        (∀ q ∈ s.posts, q.run = p.run → q.group = p.group → q.no = p.no → q = p)) ∧
    (let p := post .exponent
     let s := reducing p
     p.emax.length = p.blocks ∧ p.added.length = p.blocks ∧ p.total.getD 0 false = false ∧ p.total.getD 1 false = false ∧
       (∃ i < 2, p.added.getD i 0 < expectedAdds ring p.tree (s.rankIn gr) p.blocks i) ∧ (0 : Nat) ∉ p.shapes ∧ (0 : Nat) ≠ s.rankIn gr ∧
       p.blocks ≤ 2) ∧
    (let p : Post := { post .exponent with total := [true, true], shapes := [0] }
     p.vals.length = p.blocks ∧ p.total.all id = true ∧ ring.members.length ≤ p.shapes.length + 1 ∧
       let kept := p.vals.zipIdx.map fun e => e.1.map (packMant (agreedExp (p.emax.getD e.2 (-127, false)).1 (p.emax.getD e.2 (-127, false)).2 ring.headroom 0))
       ∀ i < p.blocks, packOk (ownBlock (kept.getD i []) (agreedExp (p.emax.getD i (-127, false)).1 (p.emax.getD i (-127, false)).2 ring.headroom 0) 0
         (p.emax.getD i (-127, false)).2) = true) := by
  decide +kernel

theorem witness_reductions_data :
    (let p := post .data
     let s := reducing p
     let b := bsrOf (bsrBytes (dataBlock false 1))
     let own := dataBlock false 1
     b = own ∧ (∀ i < 2, p.work[i]? = some own ∧ p.total.getD i false = false) ∧ arrivalOk b own.exp own.esc = true ∧
       adderOk b own (addBlocks b own) = true ∧
       arrivalOk (bsrOf (bsrBytes { own with residue := own.residue + 1 })) own.exp own.esc = false ∧
       (∃ i < p.blocks, p.added.getD i 0 < expectedAdds ring p.tree (s.rankIn gr) p.blocks i) ∧
       (∃ i < p.blocks, expectedAdds ring p.tree (s.rankIn gr) p.blocks i ≤ p.added.getD i 0) ∧ p.added.length = p.blocks ∧
       p.total.length = p.blocks) ∧
    (let p : Post := { post .data with total := [true, true], work := [dataBlock false 2, dataBlock false 2] }
     (reducing p).activePost 3 = some p ∧ p.pass = .data ∧ p.total.all id = true ∧
       ∀ b ∈ p.work, b.contrib = ring.members.length % 256 ∧ arrivalOk b b.exp b.esc = true ∧ b.ovf = false) := by
  decide +kernel

/-- A manager that an operator's key reaches, with its boot certificate. -/
def operated : State := { managed .topManager with store := { on.store with anchor := some 1 }, dev := { on.dev with bootCert := true } }
def op1 : MgmtHdr := ⟨1, true⟩

/-- A clear header (R332) of an image of `n` plaintext bytes with image number 9 under key 6, sharded over `span`. -/
def baseHeader (n span : Nat) : List Byte :=
  leBytes 2 1 ++ leBytes 2 1 ++ leBytes 1 span ++ leBytes 3 0 ++ leBytes 8 n ++ leBytes 8 9 ++ leBytes 2 6 ++ leBytes 38 0
def layer5 : LayerEntry := ⟨5, 0, 0, 0, 32, 32, 0, 127, 0, 128, 0⟩
def op (n span : Nat) : LoadOp := ⟨baseHeader n span, [layer5], [7], [7], 0, 3, false, none⟩

theorem witness_base_load :
    operated.isManager = true ∧ operated.takes op1 ∧ (op 4096 1).slot < 4 ∧ headerOk (op 4096 1) = true ∧ (op 4096 1).assigned = none ∧
    (let s : State := { operated with sec := { operated.sec with keys := [⟨6, 1, 0xFF, 0⟩] } }
     s.isManager = true ∧ s.takes op1 ∧ s.heldThere (op 4096 1) = none ∧ s.refusesLoad (op 4096 1) = false ∧
       s.refusesLoad { op 4096 1 with lackPages := true } = true ∧ headerOk { op 4096 1 with lackPages := true } = true) ∧
    (let s := member .up
     let o : LoadOp := { op 4096 1 with assigned := some (2, 20), seeds := [7] }
     let s : State := { s with domain := { s.domain with roster := [⟨7, 1, none⟩] } }
     s.isManager = false ∧ s.hasManager = true ∧ headerOk o = true ∧ o.assigned = some (2, 20) ∧ s.domain.node ∈ s.loadNodes o ∧
       (s.slot o.slot).state = .free) := by
  unfold State.takes; decide +kernel

theorem witness_base_commands :
    (let s : State := { operated with bases := onBase.bases, domain := { operated.domain with holdings := [⟨2, 9, 0, 6, 0, 20, [7], true⟩] } }
     isAlias 0xF000 = true ∧ isAlias 0xF0FF = true ∧ s.switchOk 0xF000 2 = true ∧ s.time.stitch.toNat < 4 ∧ s.retireOk 2 false = true ∧
       s.isManager = true ∧ s.takes op1) ∧
    (let c : MgrColl := { membership := 3, seqNo := 0, number := some 2, place := some 4 }
     let r : Run := { aRun 4 .placed with coll := some 3, collNo := some 2 }
     let s : State := { operated with runs := [r], domain := { operated.domain with colls := [c] } }
     s.domain.colls.find? (fun x => decide (x.number = some 2)) = some c ∧
       s.runs.find? (fun r => decide (r.coll = some c.membership ∧ r.collSeq = c.seqNo ∧ r.phase ≠ .waiting ∧ r.stop = none)) = some r ∧
       s.findRun r.id = some r) := by
  unfold State.takes; decide +kernel

theorem witness_base_chunks :
    (∀ host ∈ [true, false], let q : Slot := { ({} : Slot) with state := .loading, plainBytes := 2 ^ 20 + 1, handle := 2, seeds := [0], layers := [layer5] }
     let s : State := { operated with bases := { operated.bases with slots := [(0, q)], ingest := some (7, 0, 2 ^ 30) } }
     (s.slot 0).state = .loading ∧ (1 : Nat) < chunkCount (s.slot 0).plainBytes ∧ (1 : Nat) ∉ (s.slot 0).got ∧
       (host = true → s.bases.ingest.isSome = true ∧ s.domain.node ∈ q.seeds) ∧ tableAgrees q 1 [0] = true ∧
       chunkText (s.slot 0) 1 none = none ∧ [(0 : Byte)].length = min (2 ^ 20) ((s.slot 0).plainBytes - 2 ^ 20 * 1) ∧ (1 : Nat) ∉ (s.slot 0).failedOnce ∧
       (1 : Nat) ∈ ({ s.slot 0 with failedOnce := [1] } : Slot).failedOnce) ∧
    (let q : Slot := { ({} : Slot) with state := .loading, plainBytes := 32, handle := 2, layers := [layer5] }
     let zeros := List.replicate 32 (0 : Byte)
     (0 : Nat) < chunkCount q.plainBytes ∧ zeros.length = min (2 ^ 20) (q.plainBytes - 2 ^ 20 * 0) ∧ tableAgrees q 0 zeros = false) := by
  decide +kernel

theorem witness_bring_up :
    (let s : State := { State.reset with board := { State.reset.board with stage := .off, trip := some .thermal } }; s.board.stage = .off ∧ (32000 : Nat) ≤ 32000 ∧ (100 : Nat) ≤ 100) ∧
    ({ State.reset.board with stage := .charging } : Board).stage = .charging ∧
    (let s := State.reset
     s.dev.phase = .boot ∧ s.meRuns = true ∧ s.dev.fw = none ∧ s.chooseSlot (some fw) none = some (fw, false) ∧ s.board.trip = none ∧ s.chooseSlot none none = none) ∧
    (let s : State := { State.reset with board := { State.reset.board with perst := false } }
     s.board.perst = false ∧ s.meRuns = true ∧ s.hif.ioReady = false ∧ s.dev.phase ≠ .failed) ∧
    (phase3Cause ⟨true, false, true, true, true, true⟩ = none ∧ phase3Cause ⟨true, true, true, true, true, false⟩ = some 0x0A ∧ State.reset.store.topLeaf < 32768 ∧
      ({ on.dev with phase := .memTrain } : Dev).phase = .memTrain) ∧
    (let s : State := { member .down with dev := { on.dev with phase := .seamTrain } }; s.dev.phase = .seamTrain ∧ s.domain.standalone = false ∧ s.domain.role ≠ .topManager) ∧
    on.domain.standalone = true := by
  decide +kernel

theorem witness_power :
    on.board.stage = .on ∧ 1000 * (100 + 100 + 100) + 60000 ≤ on.power.capW * 880 ∧ on.power.capW * 880 < 1000 * (500 + 500 + 500) + 60000 ∧
    on.power.order.getLast? = some (on.power.order.getLast?.getD 0) ∧
    ({ on.board with inputMw := 1500001 } : Board).inputMw > 1500000 ∧ (30499 : Nat) < 30500 ∧ on.power.supplyHold = false ∧ (on.bolt 0).gate = .none ∧
    ({ on.power with supplyHold := true } : Power).supplyHold = true ∧ on.board.stage ≠ .off ∧
    (∀ n ∈ [0, 43, 44, 75, 76, 81], n < 82 ∧ (limitsOf n).2.2 ≤ 115) ∧ on.power.pstate ≠ .rest ∧
    (let s : State := { on with bolts := [(15, { ({} : Bolt) with gate := .power, exitDone := some 0 })] }; (s.bolt 15).exitDone.isSome = true) := by
  decide +kernel

theorem witness_thermal :
    on.board.stage = .on ∧
    (∀ n ∈ [0, 43, 44, 75], ∃ l ∈ [95, 85], (limitsOf n).1 = some l) ∧ (∀ x ∈ on.power.throttled, x ∉ regionOf 0) ∧
    (∀ n ∈ [0, 43, 44, 75, 76, 81], (limitsOf n).2.1 ≤ 105 ∧ ∀ x ∈ on.power.emergencies, x ∉ regionOf n) ∧ (79 : Nat) < (limitsOf 81).2.1 ∧
    (∀ x ∈ regionOf 0, x ≠ 0 → look 0 on.power.temps x + 5 < 95) ∧ (89 : Nat) + 5 < 95 ∧
    (∀ e ∈ [(11, false, false), (12, false, false), (14, false, false), (15, true, false), (16, true, false), (20, true, true)],
      (on.setTemps [(0, e.1)]).spread = e.1) ∧ on.power.spreadHold = [] ∧ on.power.spreadEmergency = [] := by
  decide +kernel

theorem witness_errors_panel :
    on.stitching = true ∧ (∀ n ∈ [0x01, 0x22], classTwoSource n = true) ∧ on.rel.unravel = none ∧ on.meRuns = true ∧
    ({ on.rel with unravel := some (1, 4) } : Rel).unravel ≠ none ∧ on.sec.entropyFailing = false ∧ ({ on.sec with entropyFailing := true } : Sec).entropyFailing = true ∧
    on.board.removal = .idle ∧ on.board.stage = .on ∧ on.board.lampTest = false ∧ ({ on.dev with phase := .failed } : Dev).phase = .failed ∧
    ({ on.board with removal := .preparing } : Board).removal = .preparing ∧ ({ on.board with removal := .safe } : Board).removal = .safe ∧ ({ on.board with removal := .window } : Board).removal = .window ∧ on.dev.phase ≠ .failed ∧
    (let s : State := { on with session := none, board := { on.board with removal := .preparing } }
     s.board.removal = .preparing ∧ s.session = none ∧ s.hasManager = false ∧ s.sourcing = false) := by
  decide +kernel

theorem witness_management :
    (∀ p ∈ [(⟨0, 0, .topManager, 1, 0, []⟩ : Profile), ⟨1, 0, .manager, 1, 0, []⟩, ⟨0, 1, .worker, 1, 0, []⟩], profileFits p = true) ∧
    operated.meRuns = true ∧ mgmtHdr (.mgmtReset op1) = some op1 ∧ on.store.anchor = none ∧ ({ op1 with sigOk := false } : MgmtHdr).sigOk = false ∧
    op1.seq ≤ ({ operated.store with mgmtSeq := 1 } : Store).mgmtSeq ∧ operated.takes op1 ∧
    (let s : State := { member .up with store := operated.store }; s.isManager = false ∧ look none s.store.profiles s.board.domainSel.toNat = none ∧ s.takes op1) ∧
    operated.isManager = true ∧ operated.time.stitch.toNat < 4 ∧ operated.dev.writerLock ≠ some .host ∧ operated.dev.fw = some fw ∧ 3 ≤ fw.svn ∧
    operated.dev.lowerLeaf ≤ 960 ∧ operated.dev.fw.isSome = true ∧ (∀ k ∈ [0, 1, 2], (operated.certificate k).isSome = true) ∧ operated.certificate 3 = none ∧
    ({ operated with session := none } : State).certificate 2 = none ∧
    operated.time.stitch.toNat + 2 ≤ 5 ∧ 64 * 1600 - 1 < snapUnits operated.time.len ∧ classOrder [2, 0, 1] = true ∧
    (∀ w ∈ [624, 1200], 1000 * sumOf (operated.sleeves.map (·.power)) ≤ operated.computePart w [0, 1, 2]) ∧
    ({ operated with board := { on.board with removal := .safe } } : State).leaving = true ∧ operated.store.anchor = some 1 := by
  unfold State.takes; decide +kernel

/-! ### WellFormed refuses: one ill-formed command for each check -/

def badHdr : QHdr := { qh with queue := 8 }
def flit0 : Flit := ⟨0, List.replicate 240 0, 0, some 0⟩
def seg0 : Segment := ⟨1, 1, 2, 3, true, 5, 64, 0, none⟩
def train0 : TrainResult := ⟨true, List.replicate 8 [0, 0, 0], 0, 26000, 2, 0, 0, true, true⟩
def img0 : SealedImage := ⟨1, 5, 0, true, true, true, [], []⟩
def desc0 : PatchDesc := ⟨5, 1, 1, false, 0, [3], 0, [], 0, false⟩
def grp0 : GroupBlock := ⟨0, 0, 0, 0, 0x8001, 1, [1, 2], false⟩
def upd0 : UpdateBlock := ⟨1, false, false, 1, 0, 0, 0, 0, 0, 0, 0, false⟩
def args0 : ArgBlock := ⟨List.replicate 30 0, 0, [], false⟩
def mm0 : MgmtHdr := ⟨1, true⟩
def load0 : LoadOp := ⟨List.replicate 64 0, [], [], [], 0, 0, false, none⟩

theorem test_wf_numbers :
    Instr.wf (.matrixPlain 16) = false ∧ Instr.wf (.portSignalDetect 48) = false ∧ Instr.wf (.basePageRefetch 4 0 []) = false ∧
    Instr.wf (.lineUncorrectable .bastedLine 4 false) = false ∧ Instr.wf (.fatalError 9 0) = false ∧ Instr.wf (.thermalTrip 82 110) = false ∧
    Instr.wf (.pageRetire (2 ^ 23) 0) = false ∧ Instr.wf (.stitchLengthAnnounce (2 ^ 48) 1) = false ∧ Instr.wf (.leaveNotice (2 ^ 16)) = false ∧
    Instr.wf (.openSession mh 1 (2 ^ 32)) = false ∧ Instr.wf (.keeperStallTimeout 0 4) = false ∧ Instr.wf (.opticalEngineBelowRetrainLimit 6) = false ∧
    Instr.wf (.msixUnmask 2048) = false ∧ Instr.wf (.sqDoorbell 17 8 0) = false ∧ Instr.wf (.registerWrite 0 0 3 0) = false ∧
    Instr.wf (.shadowLowWordRead 8 0 4) = false := by decide +kernel

theorem test_wf_headers :
    Instr.wf (.closeSession { mh with sleeve := 256 }) = false ∧ Instr.wf (.fence badHdr) = false ∧ Instr.wf (.fence { qh with owner := .sleeve 16 }) = false ∧
    Instr.wf (.fence { qh with slot := 4096 }) = false ∧ Instr.wf (.fence { qh with gradMode := 4 }) = false ∧ Instr.wf (.fence { qh with deadline := 65536 }) = false ∧
    Instr.wf (.fence { qh with base := 65536 }) = false ∧ Instr.wf (.fence { qh with pattern := 65536 }) = false ∧
    Instr.wf (.fence { qh with preds := List.replicate 5 ⟨0, 0, 0⟩ }) = false ∧ Instr.wf (.fence { qh with preds := [⟨8, 0, 0⟩] }) = false ∧
    Instr.wf (.fence { qh with oppt := some 8 }) = false ∧ Instr.wf (.fence { qh with args := ⟨4, 0⟩ }) = false ∧
    Instr.wf (.fence { qh with argsLen := 2 ^ 32 }) = false ∧ Instr.wf (.fence { qh with statsAddr := ⟨0, 2 ^ 48⟩ }) = false ∧
    Instr.wf (.fence { qh with statsLen := 2 ^ 32 }) = false ∧ Instr.wf (.kill qh ⟨0, 4096, 0⟩) = false ∧
    Instr.wf (.mgmtReset ⟨2 ^ 64, true⟩) = false := by decide +kernel

theorem test_wf_blocks :
    Instr.wf (.run qh { args0 with scalars := [] }) = false ∧ Instr.wf (.run qh { args0 with novr := 1 }) = false ∧
    Instr.wf (.run qh { args0 with novr := 1, overrides := [⟨32, 0, 0⟩] }) = false ∧
    Instr.wf (.run qh { args0 with novr := 2 ^ 16, overrides := List.replicate (2 ^ 16) ⟨0, 0, 0⟩ }) = false ∧
    Instr.wf (.update qh { upd0 with kind := 256 } []) = false ∧ Instr.wf (.update qh { upd0 with step := 2 ^ 32 } []) = false ∧
    Instr.wf (.update qh upd0 [65536]) = false ∧ Instr.wf (.regPatch qh { desc0 with tenant := 65536 } img0) = false ∧
    Instr.wf (.regPatch qh { desc0 with base := 65536 } img0) = false ∧ Instr.wf (.regPatch qh { desc0 with rankCode := 256 } img0) = false ∧
    Instr.wf (.regPatch qh { desc0 with layers := [65536] } img0) = false ∧
    Instr.wf (.regPatch qh { desc0 with darns := [⟨1, 8, 0, 0, false⟩] } img0) = false ∧
    Instr.wf (.regPatch qh { desc0 with darns := List.replicate 256 ⟨1, 0, 0, 0, false⟩ } img0) = false ∧
    Instr.wf (.regPatch qh desc0 { img0 with version := 65536 }) = false ∧ Instr.wf (.regPatch qh desc0 { img0 with tenant := 65536 }) = false ∧
    Instr.wf (.regPatch qh desc0 { img0 with plainBytes := 2 ^ 64 }) = false ∧ Instr.wf (.createGroup qh { grp0 with keyId := 65536 }) = false ∧
    Instr.wf (.createGroup qh { grp0 with group := 256 }) = false ∧ Instr.wf (.createGroup qh { grp0 with width := 256 }) = false ∧
    Instr.wf (.createGroup qh { grp0 with members := [65536] }) = false := by decide +kernel

theorem test_wf_bodies :
    Instr.wf (.regTenant qh 65536 0) = false ∧ Instr.wf (.regTenant qh 0 65536) = false ∧ Instr.wf (.exportPatch qh 65536 ⟨1, 0⟩ 0) = false ∧
    Instr.wf (.exportPatch qh 0 ⟨1, 0⟩ (2 ^ 32)) = false ∧ Instr.wf (.loadPattern qh [] (2 ^ 32)) = false ∧ Instr.wf (.setRecipe qh false 16 0) = false ∧
    Instr.wf (.configStack qh 16 0 0) = false ∧ Instr.wf (.configStack qh 0 4 0) = false ∧ Instr.wf (.configStack qh 0 0 (2 ^ 64)) = false ∧
    Instr.wf (.map qh (2 ^ 64) 0 0 true 0) = false ∧ Instr.wf (.map qh 0 0 4 true 0) = false ∧ Instr.wf (.map qh 0 0 0 true 65536) = false ∧
    Instr.wf (.unmap qh 0 (2 ^ 64)) = false ∧ Instr.wf (.setWindow qh 256 true true 0 0 0) = false ∧ Instr.wf (.clearWindow qh 256) = false ∧
    Instr.wf (.destroyGroup qh 256) = false ∧ Instr.wf (.snapshot qh 0 (2 ^ 48) 0) = false ∧ Instr.wf (.snapshot qh 0 0 (2 ^ 32)) = false ∧
    Instr.wf (.telemetryLink qh ⟨4, 0⟩ 0) = false ∧ Instr.wf (.setStitch qh 4) = false ∧ Instr.wf (.setFloor qh 256) = false ∧
    Instr.wf (.openIngest qh 0 (2 ^ 64) 0) = false ∧ Instr.wf (.createSleeve mh 1 (2 ^ 32) 0 0 0) = false ∧ Instr.wf (.createCq mh 256 0 0 0 0 0) = false ∧
    Instr.wf (.createSq mh 0 256 0 0 0 0) = false ∧ Instr.wf (.deleteQueue mh true 256) = false ∧ Instr.wf (.restartSq mh 0 0 (2 ^ 32)) = false ∧
    Instr.wf (.keyEstablish mh 0 []) = false ∧ Instr.wf (.fwWrite mh (2 ^ 32) []) = false ∧
    Instr.wf (.descriptorRead .admin 0 [] ⟨[], [], [], img0, [], true⟩) = false := by decide +kernel

theorem test_wf_events :
    Instr.wf (.primitiveComplete 0 (.matrix 4)) = false ∧ Instr.wf (.pocketFill 0 65536 0) = false ∧
    Instr.wf (.lineUncorrectable (.sleeveData 16 0) 0 false) = false ∧ Instr.wf (.lineUncorrectable (.tableLine 0 0 4) 0 false) = false ∧
    Instr.wf (.lineUncorrectable (.baseLine 4 0 false) 0 false) = false ∧ Instr.wf (.lineUncorrectable (.patchState 65536) 0 false) = false ∧
    Instr.wf (.lineUncorrectable (.stackFrame 0 4 0) 0 false) = false ∧ Instr.wf (.lineUncorrectable (.pocket 16 0 true) 0 false) = false ∧
    Instr.wf (.patrolScrub [(2 ^ 23, 0)]) = false ∧ Instr.wf (.lineSettle 0 (2 ^ 41)) = false ∧ Instr.wf (.translationWalk 0 (2 ^ 48)) = false ∧
    Instr.wf (.hostReadPoison 16 0) = false ∧ Instr.wf (.atsInvalidation (2 ^ 20) 0 1) = false ∧ Instr.wf (.pageRequestTimeout 512) = false ∧
    Instr.wf (.linkL0Return 17 32) = false ∧ Instr.wf (.cqHeadPoll .admin 8 0) = false ∧
    Instr.wf (.portTrainingComplete 0 { train0 with ber := [] }) = false ∧ Instr.wf (.portTrainingComplete 0 { train0 with peerNode := 65536 }) = false ∧
    Instr.wf (.portTrainingComplete 0 { train0 with ber := List.replicate 8 [0] }) = false ∧
    Instr.wf (.flitData 0 0 [] 0 none) = false ∧ Instr.wf (.flitIdle 48 flit0) = false ∧
    Instr.wf (.flitData 0 0 (List.replicate 240 0) 0 (some 5)) = false ∧ Instr.wf (.flitLink 0 flit0 [(24, 1)] false) = false ∧
    Instr.wf (.segmentReceive 0 { seg0 with vc := 24 } true) = false ∧ Instr.wf (.segmentReceive 0 { seg0 with length := 0 } true) = false ∧
    Instr.wf (.segmentReceive 0 { seg0 with length := 65473 } true) = false ∧ Instr.wf (.tickRttMeasure 0 (2 ^ 32)) = false := by decide +kernel

theorem test_wf_domain :
    Instr.wf (.rosterUpdate (2 ^ 32) []) = false ∧ Instr.wf (.rosterUpdate 0 [⟨65536, 0, none⟩]) = false ∧
    Instr.wf (.rosterUpdate 0 (List.replicate 513 ⟨1, 0, none⟩)) = false ∧ Instr.wf (.collectiveCandidates 1 280 0 [] []) = false ∧
    Instr.wf (.collectiveCandidates 1 0 0 (List.replicate 17 4) []) = false ∧ Instr.wf (.collectivePlacement 0 0 0 (some ⟨2 ^ 48, []⟩) 0) = false ∧
    Instr.wf (.keyDelivery 65536 0 0) = false ∧ Instr.wf (.keyDelivery 0 4 0) = false ∧ Instr.wf (.standbyMirror ⟨2 ^ 32, [], [], [], 0, [], 0, [], 0, []⟩) = false ∧
    Instr.wf (.reductionPassEnd 16) = false ∧ Instr.wf (.reductionBlockArrive 0 0 (.bsr [])) = false ∧
    Instr.wf (.reductionBlockArrive 0 0 (.e1 0 [])) = false ∧ Instr.wf (.reductionBlockArrive 0 0 (.shape 32768 [])) = false ∧
    Instr.wf (.collectiveSquashNotice 0 ⟨none, 280, 0, false⟩) = false ∧ Instr.wf (.baseLoadReport 0 65536) = false ∧
    Instr.wf (.mgmtSetProfile mm0 16 none) = false ∧ Instr.wf (.mgmtSetProfile mm0 0 (some ⟨64, 0, .worker, 0, 0, []⟩)) = false ∧
    Instr.wf (.mgmtSetProfile mm0 0 (some ⟨0, 512, .worker, 0, 0, []⟩)) = false ∧ Instr.wf (.mgmtRoster mm0 [⟨65536, 0, none⟩]) = false ∧
    Instr.wf (.mgmtRoleMove mm0 (2 ^ 48)) = false ∧ Instr.wf (.baseLoad mm0 [] [] [] [] 0 0 false none) = false ∧
    Instr.wf (.baseLoad mm0 load0.header [⟨5, 0, 16, 0, 32, 32, 0, 127, 0, 128, 0⟩] [] [] 0 0 false none) = false ∧ Instr.wf (.baseLoad mm0 load0.header [] [] [] 0 4 false none) = false ∧ Instr.wf (.baseSwitch mm0 65536 0 0) = false ∧
    Instr.wf (.baseRetire mm0 ⟨65536, false⟩) = false ∧ Instr.wf (.mgmtSvnRaise mm0 64) = false ∧ Instr.wf (.mgmtQuote mm0 []) = false ∧
    Instr.wf (.mgmtCertificate mm0 3) = false ∧ Instr.wf (.mgmtDomainSnapshot mm0 0 0 (2 ^ 24)) = false ∧ Instr.wf (.mgmtSetCap mm0 0 []) = false ∧
    Instr.wf (.mgmtIdentify mm0 256) = false ∧ Instr.wf (.modEnRise 0 65536) = false ∧ Instr.wf (.supplyWarning 65536) = false ∧
    Instr.wf (.thermalThrottle 0 256) = false ∧ Instr.wf (.spreadEmergency [(82, 1)]) = false ∧ Instr.wf (.unravel 0 256) = false := by decide +kernel

theorem test_wf_accepts :
    Instr.wf (.matrixPlain 15) = true ∧ Instr.wf (.fence qh) = true ∧ Instr.wf (.run qh args0) = true ∧ Instr.wf (.regPatch qh desc0 img0) = true ∧
    Instr.wf (.createGroup qh grp0) = true ∧ Instr.wf (.segmentReceive 47 seg0 true) = true ∧ Instr.wf (.portTrainingComplete 0 train0) = true ∧
    Instr.wf (.flitLink 0 flit0 [(23, 1)] true) = true ∧ Instr.wf (.baseLoad mm0 load0.header [] [] [] 0 0 false none) = true ∧ Instr.wf (.update qh upd0 [1]) = true ∧ Instr.wf (.mgmtSvnRaise mm0 63) = true := by decide +kernel

/-! ### The manual's worked examples and tables -/

/-- 13.75, the value of "Worked conversions" (chapter 3). -/
def v1375 : Machine.Num := .fin false 55 (-2)
/-- An element of 13.75 handed off at exponent X, to nearest even: its bits and class. -/
def conv (f : Nat) (x : Int) : Nat × ElemClass := handOffElem f .nearest (v1375.scale (-x))

/-- "Worked conversions": every row of the first table, with the MX scale bytes. -/
theorem test_worked_conversions :
    conv 0 0 = (0x415C, .plain) ∧ conv 1 0 = (0x4AE0, .plain) ∧ conv 2 0 = (0x56, .plain) ∧ conv 3 0 = (0x4B, .plain) ∧
    mxBlockScale 4 0 [v1375] = (0x7A, false) ∧ conv 4 (-5) = (0x7E, .plain) ∧
    mxBlockScale 6 0 [v1375] = (0x7E, false) ∧ conv 6 (-1) = (0x1F, .plain) ∧
    mxBlockScale 7 0 [v1375] = (0x80, false) ∧ conv 7 1 = (0x1E, .plain) ∧
    mxBlockScale 8 0 [v1375] = (0x80, false) ∧ conv 8 1 = (0x7, .saturated) ∧
    mxBlockScale 8 1 [v1375] = (0x81, false) ∧ conv 8 2 = (0x5, .plain) ∧ conv 9 0 = (0x0E, .plain) := by decide +kernel

/-- "Worked conversions": the table of small values and boundaries. -/
theorem test_boundary_conversions :
    handOffElem 2 .nearest (.fin false 3 (-9)) = (0x03, .plain) ∧ toTally (.fin false 1 (-130)) = Machine.zero ∧
    handOffElem 3 .nearest (.fin false 3 (-21)) = (0x00, .zero) ∧ handOffElem 2 .nearest (.fin true 450 0) = (0xFE, .saturated) ∧
    handOffElem 2 .nearest (.fin false 27 (-1)) = (0x56, .plain) ∧ handOffElem 2 .nearest (.fin false 25 (-1)) = (0x54, .plain) := by
  decide +kernel

/-- "Worked conversions": stochastic rounding of 13.75 to E4M3 under two draws. -/
theorem test_stochastic_conversion :
    (handOffElem 2 (.stochastic 0x1F40) v1375).1 = 0x55 ∧ (handOffElem 2 (.stochastic 0x9C40) v1375).1 = 0x56 := by decide +kernel

/-- "An update too small for the face" (chapter 3), and step 8 of "One AdamW element late in training" (chapter 6). -/
theorem test_two_ply :
    twoPlyAdd (.fin true 53687 (-29)) 0x3DCC 0xCCCD = some (0x3DCC, 0x985F) ∧
    twoPlyAdd (.fin true 65523 (-30)) 0x3DCC 0xCCCD = some (0x3DCC, 0xACCF) ∧ twoPlyAdd .nan 0x3DCC 0xCCCD = none := by decide +kernel

/-- "One AdamW element late in training": step 2, and steps 1 to 8 with AdamW's λ and η on a momentum of 2^-10. -/
theorem test_update_moment :
    let u : UpdateBlock := ⟨1, false, false, 65536, 0x3880, 0x3E00, 0x3A80, 0x3580, 0x3C00, 0x3F80, 0x3F80, false⟩
    (optStep u oneNum oneNum oneNum false (decodeBits 0 0x3DCC) (.fin false 1 (-10)) (.fin false 1 (-10)) (.fin false 1 (-10))).2.1.lt
      (.fin false 1 (-10)) = false ∧
    (Machine.Num.fin false 1 (-10)).lt
      (optStep u oneNum oneNum oneNum false (decodeBits 0 0x3DCC) (.fin false 1 (-10)) (.fin false 1 (-10)) (.fin false 1 (-10))).2.1 = false ∧
    mxBlockScale 4 0 [.fin false 1 (-10)] = (0x6D, false) ∧ handOffElem 4 .nearest (.fin false 256 0) = (0x78, .plain) := by decide +kernel

/-- The cycle table under R94. -/
theorem test_matrix_cycles :
    plainCycles .fp8 4 1024 1024 4096 = 65584 ∧ plainCycles .fp8 4 512 1024 1024 = 8240 ∧ plainCycles .fp8 4 1024 128 1024 = 2096 ∧
    plainCycles .fp8 4 1024 320 1024 = 8240 ∧ plainCycles .fp8 4 32 1024 4096 = 2096 ∧ plainCycles .fp8 4 8 1024 4096 = 2096 ∧
    plainCycles .bf16 4 1024 1024 1024 = 32816 ∧ plainCycles .fp4 4 1024 1024 4096 = 32816 ∧ plainCycles .fp4 4 64 512 4096 = 1072 ∧
    heldEntries .fp8 4 1024 1024 = 262144 := by decide +kernel

/-- "A sparse trained mask" (chapter 4). -/
theorem test_sparse_mask : backwardCycles .fp8 4 512 1024 4096 0x11111111 = 41008 := by decide +kernel

/-- "A 3-D kernel on an atmospheric grid" (chapter 4): the segments of output position (0, 0, 5), L0 = 0. -/
theorem test_convolution_segments :
    let c : Cursor := { ({} : Cursor) with stride := [0x40, 0x440, 0x4840, 0] }
    let x : ExtConv := ⟨⟨4, 5, 3, 1, 1, 1⟩, ⟨16, 17, 3, 1, 1, 1⟩, ⟨16, 17, 3, 1, 1, 1⟩, false, 0, 0⟩
    (List.range 20).map (convSegment {} c x 5) =
      List.replicate 12 none ++ [some 0x100, some 0x140, some 0x180, some 0x540, some 0x580, some 0x5C0, none, none] := by decide +kernel

/-- "Packing" (R156): the two example groups take 18 and 29 bytes, and both read back. -/
theorem test_packed_groups :
    let g1 := List.replicate 20 0 ++ (List.range 12).map (0x3F00 + ·)
    let g2 := List.replicate 20 0 ++ 0x3FA0 :: (List.range 11).map (0x3F00 + ·)
    (packGroup 0 g1).length = 18 ∧ (packGroup 0 g1).take 2 = [3, 0x7E] ∧ (packGroup 0 g2).length = 29 ∧ (packGroup 0 g2).take 1 = [1] ∧
    (unpackGroup 0 (packGroup 0 g1)).1 = g1 ∧ (unpackGroup 0 (packGroup 0 g2)).1 = g2 := by decide +kernel

/-- Word 8 of "One patched layer" (chapter 8). -/
theorem test_matrix_word :
    let w : PWord := 0x00B0F0FFFFDFFC653808180000000000
    wordHdr w = ⟨0, 0, some 3, 0⟩ ∧ matrixWord w = ⟨15, false, false, 256, 1024, 2048, 3, 5, 7, 0x103, 0, 0, false, 0, 0⟩ := by decide +kernel

/-- The example of R240. -/
theorem test_address_map : dpaPlace 0x0C835E80 = (0, 2, 3, 1) ∧ dpaOffset 0x0C835E80 = 0xC8280 := by decide +kernel

/-- The budgets of R32. -/
theorem test_budgets :
    [8, 10, 12, 14, 15].map (budgetBeads 0) = [93, 117, 140, 164, 175] ∧ [8, 10, 12, 14, 15].map (budgetBeads 1) = [187, 234, 281, 328, 351] ∧
    [8, 10, 12, 14, 15].map (budgetBeads 2) = [375, 468, 562, 656, 703] ∧
    [8, 10, 12, 14, 15].map (budgetBeads 3) = [750, 937, 1125, 1312, 1406] := by decide +kernel

/-- The residues under R289. -/
theorem test_residues : residueOf [7000] = 115 ∧ residueOf [-300] = 210 := by decide +kernel

/-- The sum of `n` members' blocks of one mantissa. -/
def chainSum (m : Int) (exp : BitVec 8) (esc : Nat) : Nat → Bsr16
  | 0 => ownBlock [m] exp esc false
  | n + 1 => addBlocks (chainSum m exp esc n) (ownBlock [m] exp esc false)

/-- "A saturated block in a group of eight" (chapter 11): exponents, residues, saturation and the escalation pass. -/
theorem test_reduction_example :
    agreedExp (-12) false 2 0 = 118 ∧ packMant 118 (.fin false 7000 (-24)) = 7000 ∧
    (List.range 4).map (fun n => (chainSum 7000 118 0 n).residue) = [115, 230, 90, 205] ∧
    ((chainSum 7000 118 0 4).mant, (chainSum 7000 118 0 4).residue, (chainSum 7000 118 0 4).ovf) = ([32767], 127, true) ∧
    ((chainSum 7000 118 0 7).mant, (chainSum 7000 118 0 7).contrib, (chainSum 7000 118 0 7).ovf) = ([32767], 8, true) ∧
    agreedExp (-12) false 2 1 = 120 ∧
    ((chainSum 7000 120 1 7).mant, (chainSum 7000 120 1 7).residue, (chainSum 7000 120 1 7).ovf) = ([14000], 230, false) := by decide +kernel

/-- "Decoding a late record" (chapter 14). -/
theorem test_record_bytes :
    (CompRec.bytes false ⟨0x0004, 0x01, 0, true, 5, 0x01, 0, 0x42A10, 37, 8, 221, 214, 0, 13, 0⟩) =
      [0x04, 0, 0x01, 0, 0x05, 0x40, 0x01, 0, 0x10, 0x2A, 0x04, 0, 0, 0, 0x25, 0, 0x08, 0, 0xDD, 0, 0xD6, 0, 0, 0,
       0, 0, 0, 0, 0, 0, 0, 0x0D] := by decide +kernel

/-- "Reading one record and acting on it" (chapter 15). -/
theorem test_slowdown_index : slowIndex 66560 60416 = 0x011A ∧ slowIndex 0 0 = 0x0100 := by decide +kernel

/-- The example of R455: CD0 at OP7 beside a die at OP0, and beside one at OP2. -/
theorem test_rail_lift : (liftRails [630, 860, 600, 600]).getD 0 0 = 710 ∧ (liftRails [630, 780, 630, 630]).getD 0 0 = 630 := by decide +kernel

/-- "A late header" (chapter 13): 0x3B9E fails the check and 0x3C07 passes. -/
theorem test_late_header :
    ({ sq0 with l := 0x3C06, d := 0x3C07 } : Sq).accepts 0x3B9E = false ∧ ({ sq0 with l := 0x3C06, d := 0x3C07 } : Sq).accepts 0x3C07 = true := by
  decide +kernel

/-- "A chain on two bolts" (chapter 2): the book after C1 to C3 takes C4 in S + 3 and no earlier, here with S = 3. -/
theorem test_chain_placement :
    let held (id e c : Nat) (bolts : BitVec 16) : Run :=
      { aRun e .placed with id := id, hdr := { qh with bolts := bolts }, costs := (boltsIn bolts).map fun b => (b, c) }
    let s : State := { on with runs := [held 11 4 100 0x2000, held 12 5 281 0x2000, held 13 6 60 0x2000, held 14 4 80 0x3000, held 15 7 150 0x3000] }
    let c4 : Run := { aRun 0 .waiting with id := 20, hdr := { qh with bolts := 0x2000 } }
    [4, 5, 6].map (s.fitsIn c4 [(13, 221)] [] 0) = [false, false, true] := by decide +kernel

/-- "Freezing domain 0 in one instant" (chapter 18): the TRIGGER word arms stitch 0x4_2A12 at offset 48,000. -/
theorem test_trigger_word :
    let s : State := { on with domain := { on.domain with standalone := false, node := 5 }, time := { on.time with stitch := 0x42A10 }
                               snap := { on.snap with ctrl := 0x10 } }
    (match exec (.triggerWord 0x2A1200BB800051) s with
    | .next t => decide (t.snap = (s.armSnap 0x42A12 48000 0x51 4).snap ∧ t.out = [.tickWord tickTrigger 0x2A1200BB800051])
    | _ => false) = true := by decide +kernel

/-- The bytes of a block (R286, R288): mantissas 7000 and -300, EXP 118, ESC 1, NONFIN and OVF clear, one contributor. -/
theorem test_bsr_bytes :
    let b : Bsr16 := ⟨7000 :: -300 :: List.replicate 62 0, 118, 70, 1, false, false, 1⟩
    (bsrBytes b).length = 132 ∧ (bsrBytes b).take 4 = [0x58, 0x1B, 0xD4, 0xFE] ∧ (bsrBytes b).drop 128 = [118, 70, 4, 1] ∧ bsrOf (bsrBytes b) = b := by
  decide +kernel

end Sys2Proof.Tests
end

section
/-! SUPPORT. The admin mailbox: a request that is taken at once, and the requests that complete in the same step (R381, R424,
R428, R430, R431). -/
namespace Sys2Proof.Machine
open Sys2Proof

/-! ### The protocol of R381 -/

/-- `s` once the mailbox has taken a request with header `h`: BUSY is set and DONE clear until the request's answer. -/
def State.taking (s : State) (h : MbxHdr) : State :=
  { s with mbx := { s.mbx with seq := h.seq, busy := true, done := false, irq := h.irq, sleeve := h.sleeve } }

@[simp] theorem State.taking_dev (s : State) (h : MbxHdr) : (s.taking h).dev = s.dev := rfl
@[simp] theorem State.taking_session (s : State) (h : MbxHdr) : (s.taking h).session = s.session := rfl
@[simp] theorem State.taking_sec (s : State) (h : MbxHdr) : (s.taking h).sec = s.sec := rfl
@[simp] theorem State.taking_freeCtr (s : State) (h : MbxHdr) : (s.taking h).freeCtr = s.freeCtr := rfl
@[simp] theorem State.taking_contractVer (s : State) (h : MbxHdr) : (s.taking h).contractVer = s.contractVer := rfl
@[simp] theorem State.taking_isManager (s : State) (h : MbxHdr) : (s.taking h).isManager = s.isManager := rfl
@[simp] theorem State.taking_keyHandles (s : State) (h : MbxHdr) (kind : Nat) :
    (s.taking h).keyHandles kind = s.keyHandles kind := rfl
@[simp] theorem State.taking_sleeve (s : State) (h : MbxHdr) (n : Nat) : (s.taking h).sleeve n = s.sleeve n := rfl

/-- An idle mailbox of a module that has not failed takes a request without reserved bytes set, if a session is open or the
request opens one. -/
theorem State.mbxRequest_taken {s : State} {h : MbxHdr} {opens : Bool} (op : Nat) (k : State → State)
    (hio : s.hif.ioReady = true) (hidle : s.mbx.busy = false) (hres : h.reserved = false) (hup : s.dev.phase ≠ .failed)
    (hsess : opens = true ∨ s.session.isSome = true) : s.mbxRequest h op opens k = k (s.taking h) := by
  have hopen : (!opens && s.session.isNone) = false := by
    rcases hsess with ho | hs
    · simp [ho]
    · simp [Option.isNone_eq_false_iff.mpr hs]
  simp [State.mbxRequest, State.taking, hio, hidle, hres, hup, hopen]

/-- A request none of whose tests holds goes on. -/
theorem State.mbxCheck_passed {s : State} {op : Nat} {cs : List (Bool × Status)} {k : State → State}
    (h : ∀ c ∈ cs, c.1 = false) : s.mbxCheck op cs k = k s := by
  induction cs with
  | nil => rfl
  | cons c cs ih =>
    simp [State.mbxCheck, h c (by simp), ih fun x hx => h x (by simp [hx])]

/-- What the mailbox reports of an answered request: DONE without BUSY, its status, the sequence number it was taken with. -/
theorem State.mbxDone_reports (s : State) (op : Nat) (st : Status) (payload : List Byte) :
    (s.mbxDone op st payload).mbx.busy = false ∧ (s.mbxDone op st payload).mbx.done = true ∧
    (s.mbxDone op st payload).mbx.status = st ∧ (s.mbxDone op st payload).mbx.seq = s.mbx.seq := ⟨rfl, rfl, rfl, rfl⟩

/-- The length of a response that the area can hold: the header's 16 bytes and the payload (R382). -/
theorem State.mbxDone_respLen (s : State) (op : Nat) (st : Status) (payload : List Byte) (h : payload.length ≤ 2032) :
    (s.mbxDone op st payload).mbx.respLenM1.toNat + 1 = 16 + payload.length := by
  simp [State.mbxDone, leBytes]
  omega

/-! ### Handles -/

/-- Among more consecutive values than a list is long, one is not in it. -/
theorem exists_unused (lo n : Nat) (used : List Nat) (hlen : used.length < n) : ∃ i, i < n ∧ lo + i ∉ used := by
  induction n generalizing used with
  | zero => exact absurd hlen (Nat.not_lt_zero _)
  | succ n ih =>
    by_cases hlast : lo + n ∈ used
    · have hshort : (used.erase (lo + n)).length < n := by
        rw [List.length_erase_of_mem hlast]
        have := List.length_pos_of_mem hlast
        omega
      obtain ⟨i, hi, hfree⟩ := ih _ hshort
      have hne : lo + i ≠ lo + n := by omega
      exact ⟨i, by omega, fun hmem => hfree ((List.mem_erase_of_ne hne).mpr hmem)⟩
    · exact ⟨n, Nat.lt_succ_self n, hlast⟩

/-- A new handle is one that nobody holds. -/
theorem handleIn_unused (lo n : Nat) (used : List Nat) (pick : Nat) : handleIn lo n used pick ∉ used := by
  unfold handleIn
  dsimp only
  split
  · obtain ⟨i, hi, hfree⟩ := exists_unused lo _ used (Nat.lt_succ_self _)
    cases hfind : (List.range (used.length + 1)).find? fun i => !used.contains (lo + i) with
    | none => exact absurd (List.find?_eq_none.mp hfind i (List.mem_range.mpr hi)) (by simpa using hfree)
    | some j => simpa using List.find?_some hfind
  · rename_i hpick
    simpa using hpick

/-! ### A write into the inactive firmware slot -/

/-- The bytes go into the slot that is not running. -/
theorem State.inactiveImage_writeSlot (s : State) (off : Nat) (data : List Byte) :
    (s.writeSlot off data).inactiveImage = memWrite s.inactiveImage off data := by
  cases hslot : s.dev.fwSlot <;> simp [State.writeSlot, State.inactiveImage, hslot]

/-- The running slot is left alone. -/
theorem State.activeImage_writeSlot (s : State) (off : Nat) (data : List Byte) :
    (s.writeSlot off data).activeImage = s.activeImage := by
  cases hslot : s.dev.fwSlot <;> simp [State.writeSlot, State.activeImage, hslot]

/-! ### The requests that complete at once -/

section
variable {s : State} {h : MbxHdr} (hio : s.hif.ioReady = true) (hidle : s.mbx.busy = false) (hres : h.reserved = false)
  (hup : s.dev.phase ≠ .failed)
include hio hidle hres hup

/-- OPEN_SESSION of a served major version opens the next session under a leaf of its own (R9, R428). -/
theorem exec_openSession_opens {f : FwBundle} {major pasid : Nat} (hready : s.dev.phase = .ready) (hfw : s.dev.fw = some f)
    (hold : f.oldest.toNat ≤ major) (hnew : major ≤ f.major.toNat) (hpasid : pasid < 2 ^ 20) (hnone : s.session = none)
    (hent : s.sec.entropyFailing = false) (hleaf : s.dev.lowerLeaf < 1024) :
    exec (.openSession h major pasid) s = .next (({ s.taking h with
      freeCtr := s.freeCtr + 1
      session := some ⟨major, pasid, s.dev.sessionNo + 1, s.freeCtr⟩
      dev := { s.dev with sessionNo := s.dev.sessionNo + 1, lowerLeaf := s.dev.lowerLeaf + 1 } } : State).mbxDone 1 0
        (leBytes 4 s.contractVer)) := by
  have hrange : ¬ 1048576 ≤ pasid := by omega
  change execOpenSession h major pasid s = _
  rw [execOpenSession, State.mbxRequest_taken 1 _ hio hidle hres hup (.inl rfl)]
  simp [State.fresh, hready, hnone, hfw, hold, hnew, hrange, hent, Nat.not_le.mpr hleaf]

variable (hsess : s.session.isSome = true)
include hsess

/-- KEM_GET answers the 1,568 bytes of the session's encapsulation key (R430). -/
theorem exec_kemGet_answers : ∃ ek : List Byte, ek.length = 1568 ∧
    exec (.kemGet h) s = .next ((s.taking h).mbxDone 0x30 0 ek) := by
  change ∃ ek : List Byte, ek.length = 1568 ∧ execKemGet h s = _
  rw [execKemGet, State.mbxRequest_taken 0x30 _ hio hidle hres hup (.inr hsess)]
  exact ⟨_, by simp, rfl⟩

/-- KEY_ESTABLISH of a kind with room holds one more key, under a handle that no key of its kind has (R430, R431). -/
theorem exec_keyEstablish_adds {kind : Nat} {ct : List Byte} (hkind : kind ≤ 2) (hct : ct.length = 1568)
    (hmgr : kind ≠ 0 → s.isManager = true)
    (hfor : if kind = 0 then (s.sleeve h.sleeve).isSome = true else h.sleeve = 255)
    (hroom : (s.keyHandles kind).length < keyLimit kind) (hent : s.sec.entropyFailing = false) :
    ∃ key : KeyRec, key.kind = kind ∧ key.sleeve = h.sleeve ∧ key.handle ∉ s.keyHandles kind ∧
      exec (.keyEstablish h kind ct) s = .next (({ s.taking h with
        freeCtr := s.freeCtr + 1, sec := { s.sec with keys := key :: s.sec.keys } } : State).mbxDone 0x31 0
          (leBytes 2 key.handle)) := by
  have hright : (decide (kind ≠ 0) && !s.isManager) = false := by
    by_cases hk : kind = 0
    · simp [hk]
    · simp [hmgr hk]
  have howner : (if kind = 0 then (s.sleeve h.sleeve).isNone else decide (h.sleeve ≠ 255)) = false := by
    by_cases hk : kind = 0
    · simpa [hk] using hfor
    · simpa [hk] using hfor
  have hfits : (decide (keyLimit kind ≤ (s.keyHandles kind).length) || s.sec.entropyFailing) = false := by
    simp [hroom, hent]
  change ∃ key : KeyRec, _ ∧ _ ∧ _ ∧ execKeyEstablish h kind ct s = _
  rw [execKeyEstablish, State.mbxRequest_taken 0x31 _ hio hidle hres hup (.inr hsess), State.mbxCheck_passed]
  · exact ⟨_, rfl, rfl, handleIn_unused _ _ _ _, rfl⟩
  · simp only [State.taking_isManager, State.taking_sleeve, State.taking_keyHandles, State.taking_sec, List.forall_mem_cons]
    exact ⟨by simp [hkind, hct], hright, howner, hfits, by simp⟩

/-- FW_WRITE within the slot, while the ME does not write it, puts the bytes there and gives the host the writer lock
(R424). -/
theorem exec_fwWrite_writes {off : Nat} {data : List Byte} (hfit : off + data.length ≤ slotBytes)
    (hlock : s.dev.writerLock ≠ some .me) :
    exec (.fwWrite h off data) s = .next ((({ s.taking h with
      dev := { s.dev with writerLock := some .host } } : State).writeSlot off data).mbxDone 0x40 0 []) := by
  change execFwWrite h off data s = _
  rw [execFwWrite, State.mbxRequest_taken 0x40 _ hio hidle hres hup (.inr hsess), State.mbxCheck_passed]
  · rfl
  · simp [hfit, hlock]

/-- FW_ACTIVATE of a verified slot whose SVN is not below the fused minimum names that slot for the next start and frees the
writer lock (R424, R425). -/
theorem exec_fwActivate_activates {f : FwBundle} (hsvn : s.store.svnMin ≤ f.svn) :
    exec (.fwActivate h (some f)) s = .next (({ s.taking h with
      store := { s.store with activation := some (!s.dev.fwSlot) }
      dev := { s.dev with writerLock := none } } : State).mbxDone 0x41 0 []) := by
  change execFwActivate h (some f) s = _
  rw [execFwActivate, State.mbxRequest_taken 0x41 _ hio hidle hres hup (.inr hsess)]
  exact congrArg _ (if_neg (Nat.not_lt.mpr hsvn))

end

/-- Settles O12: each of the five requests is answered at once, and its answer's effect is read off the state that the
mailbox answers from. -/
theorem mailboxCompletesRequest : Obligations.MailboxCompletesRequest := by
  intro s h hio hidle hres hready
  have hup : s.dev.phase ≠ .failed := by simp [hready]
  refine ⟨?_, fun hsess => ⟨?_, ?_, ?_, ?_⟩⟩
  · intro f major pasid hfw hold hnew hpasid hnone hent hleaf
    exact ⟨_, exec_openSession_opens hio hidle hres hup hready hfw hold hnew hpasid hnone hent hleaf,
      State.mbxDone_reports _ _ _ _, ⟨_, rfl, rfl, rfl, rfl⟩, rfl, rfl, rfl⟩
  · obtain ⟨ek, hlen, hexec⟩ := exec_kemGet_answers hio hidle hres hup hsess
    refine ⟨_, hexec, State.mbxDone_reports _ _ _ _, rfl, ?_⟩
    rw [State.mbxDone_respLen _ _ _ _ (by omega), hlen]
  · intro kind ct hkind hct hmgr hfor hroom hent
    obtain ⟨key, hk, hsl, hfree, hexec⟩ := exec_keyEstablish_adds hio hidle hres hup hsess hkind hct hmgr hfor hroom hent
    exact ⟨_, hexec, State.mbxDone_reports _ _ _ _, rfl, key, rfl, hk, hsl, hfree⟩
  · intro off data hfit hlock
    have himage : ∀ u : State, ((u.writeSlot off data).mbxDone 0x40 0 []).inactiveImage = memWrite u.inactiveImage off data :=
      fun u => u.inactiveImage_writeSlot off data
    refine ⟨_, exec_fwWrite_writes hio hidle hres hup hsess hfit hlock, State.mbxDone_reports _ _ _ _, rfl, ?_, ?_, ?_⟩
    · rw [himage, memRead_memWrite]
    · exact State.activeImage_writeSlot { s.taking h with dev := { s.dev with writerLock := some .host } } off data
    · intro a ha
      rw [himage]
      exact memGet_memWrite_outside _ off data a ha
  · intro f hsvn
    exact ⟨_, exec_fwActivate_activates hio hidle hres hup hsess hsvn, State.mbxDone_reports _ _ _ _, rfl, rfl⟩

end Sys2Proof.Machine
end

section
/-! SUPPORT. Host reads by width and alignment (R12, R349): each kind of access once, and the shadows of high words. -/
namespace Sys2Proof.Machine
open Sys2Proof

/-! ### Shadows (R12) -/

/-- What the shadows read once the register at `off` of `bar` has latched `x`. -/
theorem HostIf.shadowOf_latched (h : HostIf) (bar off : Nat) (x : BitVec 32) (b o : Nat) :
    ({ h with shadow := (bar, off, x) :: h.otherShadows bar off } : HostIf).shadowOf b o =
      if b = bar ∧ o = off then some x else ({ h with shadow := h.otherShadows bar off } : HostIf).shadowOf b o := by
  by_cases hsame : b = bar ∧ o = off
  · simp [HostIf.shadowOf, hsame]
  · have hne : ¬ (bar = b ∧ off = o) := fun he => hsame ⟨he.1.symm, he.2.symm⟩
    simp only [HostIf.shadowOf, if_neg hsame]
    rw [List.find?_cons_of_neg (by simpa using hne)]

/-- What the shadows read once that of the register at `off` of `bar` is dropped. -/
theorem HostIf.shadowOf_dropped (h : HostIf) (bar off b o : Nat) :
    ({ h with shadow := h.otherShadows bar off } : HostIf).shadowOf b o =
      if b = bar ∧ o = off then none else h.shadowOf b o := by
  by_cases hsame : b = bar ∧ o = off
  · have hgone : (h.otherShadows bar off).find? (fun x => x.1 == bar && x.2.1 == off) = none :=
      List.find?_eq_none.mpr fun x hx => ne_true_of_eq_false ((Bool.not_eq_true' _).mp (List.mem_filter.mp hx).2)
    simp [HostIf.shadowOf, hsame, hgone]
  · have hkept : (fun x : Nat × Nat × BitVec 32 =>
        decide ((!(x.1 == bar && x.2.1 == off)) = true ∧ (x.1 == b && x.2.1 == o) = true)) =
        fun x => x.1 == b && x.2.1 == o := by
      funext x
      by_cases hx : x.1 = b ∧ x.2.1 = o
      · simp [hx, Classical.not_and_iff_not_or_not.mp hsame]
      · have hx : (x.1 == b && x.2.1 == o) = false := by simpa using hx
        simp [hx]
    simp only [HostIf.shadowOf, HostIf.otherShadows, List.find?_filter, hkept, if_neg hsame]

/-! ### Reads -/

section
variable {s : State} {bar off : Nat} (hio : s.hif.ioReady = true) (hbar : bar ≠ configBar)
include hio hbar

/-- A whole read of a 64-bit register (R12). -/
theorem read_whole64 (harea : inArea bar off = false) (h64 : is64 bar off = true) (hal : off % 8 = 0) :
    exec (.shadowLowWordRead bar off 8) s = .next (s.emit (.readData (BitVec.ofNat 64 (s.reg64 bar off)))) := by
  change execShadowLowWordRead bar off 8 s = _
  simp [execShadowLowWordRead, hio, hbar, harea, h64, hal]

/-- A read of a 64-bit register's low word latches its high word (R12). -/
theorem read_lowWord (harea : inArea bar off = false) (h64 : is64 bar off = true) (hal : off % 4 = 0) :
    exec (.shadowLowWordRead bar off 4) s =
      .next (({ s with hif := { s.hif with
        shadow := (bar, off, BitVec.ofNat 32 (s.reg64 bar off / 2 ^ 32)) :: s.hif.otherShadows bar off } } : State).emit
          (.readData (BitVec.ofNat 64 (s.reg64 bar off % 2 ^ 32)))) := by
  change execShadowLowWordRead bar off 4 s = _
  simp [execShadowLowWordRead, hio, hbar, harea, h64, hal]

/-- A read of a 64-bit register's high word with its shadow (R12). -/
theorem read_highWord_shadow {x : BitVec 32} (harea : inArea bar (off + 4) = false) (h64 : is64 bar off = true)
    (hnext : is64 bar (off + 4) = false) (hal : off % 4 = 0) (hx : s.hif.shadowOf bar off = some x) :
    exec (.shadowLowWordRead bar (off + 4) 4) s =
      .next (({ s with hif := { s.hif with shadow := s.hif.otherShadows bar off } } : State).emit
        (.readData (BitVec.ofNat 64 x.toNat))) := by
  change execShadowLowWordRead bar (off + 4) 4 s = _
  simp [execShadowLowWordRead, hio, hbar, harea, h64, hnext, hal, hx]

/-- A read of a 64-bit register's high word without a shadow (R12). -/
theorem read_highWord_live (harea : inArea bar (off + 4) = false) (h64 : is64 bar off = true)
    (hnext : is64 bar (off + 4) = false) (hal : off % 4 = 0) (hx : s.hif.shadowOf bar off = none) :
    exec (.shadowLowWordRead bar (off + 4) 4) s =
      .next (s.emit (.readData (BitVec.ofNat 64 (s.reg64 bar off / 2 ^ 32)))) := by
  change execShadowLowWordRead bar (off + 4) 4 s = _
  simp [execShadowLowWordRead, hio, hbar, harea, h64, hnext, hal, hx]

/-- A read of a 32-bit register (R12). -/
theorem read_word32 (harea : inArea bar off = false) (hal : off % 4 = 0) (h64 : is64 bar off = false)
    (hhigh : 4 ≤ off → is64 bar (off - 4) = false) :
    exec (.shadowLowWordRead bar off 4) s = .next (s.emit (.readData (BitVec.ofNat 64 (s.reg32 bar off)))) := by
  have hlow : ¬ (4 ≤ off ∧ is64 bar (off - 4) = true) := fun h => by simp [hhigh h.1] at h
  change execShadowLowWordRead bar off 4 s = _
  simp [execShadowLowWordRead, hio, hbar, harea, hal, h64, hlow]

/-- A read of another width or alignment gives all ones and is logged where it touches a register, and gives 0 where it
touches reserved offsets alone (R12, R349). -/
theorem read_otherWidth {width : Nat} (harea : inArea bar off = false) (h4 : ¬ (width = 4 ∧ off % 4 = 0))
    (h8 : ¬ (width = 8 ∧ off % 8 = 0 ∧ is64 bar off = true)) :
    exec (.shadowLowWordRead bar off width) s =
      .next (if touches bar off width = true then
          (s.hostAccess bar off width false).emit (.readData (BitVec.ofNat 64 (2 ^ (8 * min width 8) - 1)))
        else s.emit (.readData 0)) := by
  have h4' (p : Prop) : ¬ (width = 4 ∧ off % 4 = 0 ∧ p) := fun h => h4 ⟨h.1, h.2.1⟩
  change execShadowLowWordRead bar off width s = _
  simp only [execShadowLowWordRead, hio, hbar, harea, h8, h4, h4']
  simp

end

/-! ### Ignored writes -/

section
variable {s : State} {off width : Nat} (hio : s.hif.ioReady = true) (h4 : ¬ (width = 4 ∧ off % 4 = 0))
include hio h4

/-- A write of another width or alignment to the registers of BAR0. -/
theorem write_otherWidth_bar0 (harea : inArea 0 off = false) (h8 : ¬ (width = 8 ∧ off % 8 = 0 ∧ is64 0 off = true))
    (v : BitVec 64) : execRegisterWrite 0 off width v s = .next (s.hostAccess 0 off width true) := by
  have hword (r : Nat) (hr : r % 4 = 0) : ¬ (off = r ∧ width = 4) := by rintro ⟨rfl, hw⟩; exact h4 ⟨hw, hr⟩
  have hwhole (r : Nat) (hr : r % 8 = 0 ∧ is64 0 r = true) : ¬ (off = r ∧ width = 8) := by
    rintro ⟨rfl, hw⟩; exact h8 ⟨hw, hr⟩
  have hcmd (p : Prop) : ¬ (0x1000 ≤ off ∧ off < 0x1800 ∧ p) := by
    rintro ⟨hlo, hhi, -⟩; simp [inArea] at harea; omega
  have hresp (p : Prop) : ¬ (0x1800 ≤ off ∧ off < 0x1FF0 ∧ p) := by
    rintro ⟨hlo, hhi, -⟩; simp [inArea] at harea; omega
  have hline (p : Prop) : ¬ (width = 4 ∧ off % 4 = 0 ∧ p) := fun h => h4 ⟨h.1, h.2.1⟩
  simp [execRegisterWrite, configBar, State.ioWrite, hio, hcmd, hresp, hline, h8, and_or_left, hword 0x1FF8, hword 0x1FFC,
    hword 0x2000, hword 0x2004, hword 0x2008, hword 0x200C, hword 0x1F000, hword 0x1F004, hwhole 0x1FF0 (by decide),
    hwhole 0x1FF8 (by decide), hwhole 0x2000 (by decide)]

/-- A write of another width or alignment to the sleeves' pages of BAR2. -/
theorem write_otherWidth_bar2 (h8 : ¬ (width = 8 ∧ off % 8 = 0 ∧ is64 2 off = true)) (v : BitVec 64) :
    execRegisterWrite 2 off width v s = .next (s.hostAccess 2 off width true) := by
  have hbell : ¬ (off % 4096 = 0 ∧ off ≤ 65536 ∧ width = 8) := by
    rintro ⟨hal, hle, hw⟩
    exact h8 ⟨hw, by omega, by simp [is64, hal, hle]⟩
  have htol (p : Prop) : ¬ (off % 4096 = 8 ∧ off < 65536 ∧ width = 4 ∧ p) := by
    rintro ⟨hal, -, hw, -⟩
    exact h4 ⟨hw, by omega⟩
  simp [execRegisterWrite, configBar, State.ioWrite, hio, hbell, htol]

/-- A write of another width or alignment to the component registers of BAR4. -/
theorem write_otherWidth_bar4 (harea : inArea 4 off = false) (v : BitVec 64) :
    execRegisterWrite 4 off width v s = .next (s.hostAccess 4 off width true) := by
  have hout : 0x8100 ≤ off := by simpa [inArea] using harea
  have htable (p : Prop) : ¬ (off < 0x8000 ∧ p) := by rintro ⟨hlt, -⟩; omega
  have hbits (p : Prop) : ¬ (0x8000 ≤ off ∧ off < 0x8100 ∧ p) := by rintro ⟨-, hlt, -⟩; omega
  simp [execRegisterWrite, configBar, State.ioWrite, hio, htable, hbits, h4]

/-- A write of another width or alignment is ignored and logged (R12). -/
theorem write_otherWidth {bar : Nat} (hbar : bar ≠ configBar) (harea : inArea bar off = false)
    (h8 : ¬ (width = 8 ∧ off % 8 = 0 ∧ is64 bar off = true)) (v : BitVec 64) :
    exec (.registerWrite bar off width v) s = .next (s.hostAccess bar off width true) := by
  change execRegisterWrite bar off width v s = _
  by_cases h0 : bar = 0
  · subst h0; exact write_otherWidth_bar0 hio h4 harea h8 v
  by_cases h2 : bar = 2
  · subst h2; exact write_otherWidth_bar2 hio h4 h8 v
  by_cases hb4 : bar = 4
  · subst hb4; exact write_otherWidth_bar4 hio h4 harea v
  simp [execRegisterWrite, State.ioWrite, hio, hbar, h0, h2, hb4]

end

/-- Settles O7: each clause is one kind of access, read through the lemma of its kind. -/
theorem registerAccessWidths : Obligations.RegisterAccessWidths := by
  intro s bar off width hio hbar harea
  refine ⟨?_, ?_, ?_⟩
  · intro hal h64 hhigh
    exact read_word32 hio hbar harea hal h64 hhigh
  · intro h64 hal
    have hal4 : off % 4 = 0 := by omega
    refine ⟨read_whole64 hio hbar harea h64 hal, ?_, fun hnextArea hnext => ⟨?_, ?_⟩⟩
    · refine ⟨_, read_lowWord hio hbar harea h64 hal4, rfl, ?_, ?_⟩
      · exact (HostIf.shadowOf_latched ..).trans (if_pos ⟨rfl, rfl⟩)
      · intro b o hother
        have hne : ¬ (b = bar ∧ o = off) := fun hsame => hother.elim (· hsame.1) (· hsame.2)
        exact (HostIf.shadowOf_latched ..).trans (by rw [if_neg hne, HostIf.shadowOf_dropped, if_neg hne])
    · intro x hx
      refine ⟨_, read_highWord_shadow hio hbar hnextArea h64 hnext hal4 hx, rfl, ?_, ?_⟩
      · exact (HostIf.shadowOf_dropped ..).trans (if_pos ⟨rfl, rfl⟩)
      · intro b o hother
        exact (HostIf.shadowOf_dropped ..).trans (if_neg fun hsame => hother.elim (· hsame.1) (· hsame.2))
    · intro hx
      exact read_highWord_live hio hbar hnextArea h64 hnext hal4 hx
  · intro h4 h8
    have hread := read_otherWidth hio hbar harea h4 h8
    refine ⟨fun htouch => ?_, fun htouch => ?_, fun v => write_otherWidth hio h4 hbar harea h8 v⟩
    · rw [hread, if_pos htouch]; rfl
    · rw [hread, if_neg (by simp [htouch])]; rfl

end Sys2Proof.Machine
end

section
/-! SUPPORT. Host writes to the event queue, mailbox, sleeve, snapshot and MSI-X registers (R13, R366, R381, R397, R398, R474,
R490). -/
namespace Sys2Proof.Machine
open Sys2Proof

/-! ### Fields of a written value -/

/-- A bit of a written value. -/
theorem bitOf_toNat {n : Nat} (v : BitVec n) (i : Nat) : bitOf v.toNat i = v.getLsbD i := by
  rw [bitOf, BitVec.getLsbD, Nat.testBit_eq_decide_div_mod_eq]

/-- A field of a written value. -/
theorem ofNat_bitsOf {n : Nat} (v : BitVec n) (hi lo : Nat) :
    BitVec.ofNat (hi - lo + 1) (bitsOf v.toNat hi lo) = v.extractLsb' lo (hi - lo + 1) := by
  apply BitVec.eq_of_toNat_eq
  simp [bitsOf, Nat.shiftRight_eq_div_pow]

/-! ### Sleeves after an update -/

/-- An update of one sleeve that keeps its number, read back. -/
theorem State.sleeve_updSleeve (s : State) (n m : Nat) (f : Sleeve → Sleeve) (hf : ∀ v, (f v).id = v.id) :
    (s.updSleeve n f).sleeve m = (s.sleeve m).map fun v => if v.id = n then f v else v := by
  have hid : ((fun v : Sleeve => v.id == m) ∘ fun v => if v.id = n then f v else v) = fun v => v.id == m := by
    funext v
    by_cases hv : v.id = n <;> simp [hv, hf]
  simp only [State.sleeve, State.updSleeve, List.find?_map, hid]

/-- The sleeve found under a number has that number. -/
theorem State.hasSleeve_id {s : State} {n : Nat} {v : Sleeve} (h : s.hasSleeve n v) : v.id = n := by
  simpa using List.find?_some h

/-- The updated sleeve is found under its number. -/
theorem State.hasSleeve_updSleeve_same {s : State} {n : Nat} {v : Sleeve} {f : Sleeve → Sleeve} (hf : ∀ v, (f v).id = v.id)
    (h : s.hasSleeve n v) : (s.updSleeve n f).hasSleeve n (f v) := by
  have hsl : s.sleeve n = some v := h
  rw [State.hasSleeve, State.sleeve_updSleeve s n n f hf, hsl, Option.map_some, if_pos (State.hasSleeve_id h)]

/-- Every other sleeve is found as it was. -/
theorem State.hasSleeve_updSleeve_other {s : State} {n m : Nat} {v : Sleeve} {f : Sleeve → Sleeve} (hf : ∀ v, (f v).id = v.id)
    (hne : m ≠ n) (h : s.hasSleeve m v) : (s.updSleeve n f).hasSleeve m v := by
  have hsl : s.sleeve m = some v := h
  have hid : v.id ≠ n := by rw [State.hasSleeve_id h]; exact hne
  rw [State.hasSleeve, State.sleeve_updSleeve s n m f hf, hsl, Option.map_some, if_neg hid]

/-! ### Register writes -/

section
variable {s : State} (hio : s.hif.ioReady = true)
include hio

/-- EVQ_HEAD takes the written value (R397). -/
theorem write_evqHead (v : BitVec 64) : exec (.registerWrite 0 0x200C 4 v) s =
    .next { s with evq := { s.evq with head := BitVec.ofNat 16 v.toNat } } := by
  change execRegisterWrite 0 0x200C 4 v s = _
  simp [execRegisterWrite, configBar, State.ioWrite, hio]

/-- EVQ_BASE takes a whole page's address, and only while EN is 0 (R397, R398). -/
theorem write_evqBase (v : BitVec 64) : exec (.registerWrite 0 0x2000 8 v) s =
    .next (if s.evq.en = true then s
      else { s with evq := { s.evq with base := BitVec.ofNat 64 (v.toNat / 4096 * 4096) } }) := by
  change execRegisterWrite 0 0x2000 8 v s = _
  simp [execRegisterWrite, configBar, State.ioWrite, hio]

/-- 1 to ERR_BUSY clears it (R380, R381). -/
theorem write_mbxStatus {v : BitVec 64} (hbit : v.getLsbD 2 = true) : exec (.registerWrite 0 0x1FF8 4 v) s =
    .next { s with mbx := { s.mbx with errBusy := false } } := by
  change execRegisterWrite 0 0x1FF8 4 v s = _
  simp [execRegisterWrite, configBar, State.ioWrite, hio, bitOf_toNat, hbit]

/-- SNAP_CTRL keeps its defined bits (R490). -/
theorem write_snapCtrl (v : BitVec 64) : exec (.registerWrite 0 0x1F000 4 v) s =
    .next { s with snap := { s.snap with ctrl := BitVec.ofNat 32 v.toNat &&& 0x00003F1E } } := by
  change execRegisterWrite 0 0x1F000 4 v s = _
  simp [execRegisterWrite, configBar, State.ioWrite, hio]

/-- A live sleeve's latency tolerance takes the written value (R474). -/
theorem write_latTol {n : Nat} {x : Sleeve} (hn : n < 16) (hx : s.hasSleeve n x) (v : BitVec 64) :
    exec (.registerWrite 2 (4096 * n + 8) 4 v) s =
      .next (s.updSleeve n fun x => { x with latTol := BitVec.ofNat 24 v.toNat }) := by
  have hlive : (s.sleeve n).isSome = true := Option.isSome_of_mem hx
  have hpage : (4096 * n + 8) / 4096 = n := by omega
  have hreg : (4096 * n + 8) % 4096 = 8 := by omega
  have hin : 4096 * n + 8 < 65536 := by omega
  change execRegisterWrite 2 (4096 * n + 8) 4 v s = _
  simp [execRegisterWrite, configBar, State.ioWrite, hio, hpage, hreg, hin, hlive]

/-- EVQ_ENABLE is a write of EVQ_CTRL (R398). -/
theorem exec_evqEnable (w : BitVec 32) : exec (.evqEnable w) s = .next (s.writeEvqCtrl w) := by
  change execEvqEnable w s = _
  simp [execEvqEnable, State.ioWrite, hio]

/-- SNAPSHOT_RELEASE is a write of SNAP_STATUS (R490). -/
theorem exec_snapshotRelease (w : BitVec 32) : exec (.snapshotRelease w) s = .next (s.writeSnapStatus w) := by
  change execSnapshotRelease w s = _
  simp [execSnapshotRelease, State.ioWrite, hio]

/-- MSIX_UNMASK clears the vector's mask and sends what that lets go (R366). -/
theorem exec_msixUnmask {n : Nat} (hn : n < 2048) : exec (.msixUnmask n) s =
    .next ({ s with hif := { s.hif with
      msixTable := put {} s.hif.msixTable n { look {} s.hif.msixTable n with masked := false } } } : State).sendPending := by
  change execMsixUnmask n s = _
  simp [execMsixUnmask, State.ioWrite, hio, hn]

end

/-- What EVQ_CTRL takes of a written value (R397, R398). -/
theorem State.writeEvqCtrl_eq (s : State) (w : BitVec 32) :
    s.writeEvqCtrl w =
      let e := { s.evq with
        en := w.getLsbD 31, mask := w.extractLsb' 0 16, size := if s.evq.en then s.evq.size else w.extractLsb' 16 4 }
      { s with evq := if w.getLsbD 31 && !s.evq.en then { e with tail := e.head, lost := 0, owed := false, phase := true } else e } := by
  simp only [State.writeEvqCtrl, bitOf_toNat, ← ofNat_bitsOf w 15 0, ← ofNat_bitsOf w 19 16]

/-! ### Pending messages (R366) -/

/-- An unmasked vector's message goes out where messages are sent and the link is open. -/
theorem State.msix_sent {s : State} {n : Nat} (hen : s.hif.msixEnable = true) (hall : s.hif.msixMaskAll = false)
    (hopen : s.hostOpen = true) (hmask : (look {} s.hif.msixTable n).masked = false) : s.msix n = s.emit (.msix n) := by
  rw [State.msix, if_neg (by rw [hen]; decide), if_neg (by rw [hall, hmask]; decide), if_pos hopen]

/-- The one pending message goes out once its vector is unmasked. -/
theorem State.sendPending_one {s : State} {n : Nat} (hen : s.hif.msixEnable = true) (hall : s.hif.msixMaskAll = false)
    (hopen : s.hostOpen = true) (hpend : s.hif.msixPending = [n]) (hmask : (look {} s.hif.msixTable n).masked = false) :
    s.sendPending = { s with out := s.out ++ [.msix n], hif := { s.hif with msixPending := [] } } := by
  have hgo : (s.hif.msixPending.filter fun v => !(look {} s.hif.msixTable v).masked) = [n] := by
    rw [hpend, List.filter_cons_of_pos (by rw [hmask]; rfl), List.filter_nil]
  have hrest : (s.hif.msixPending.filter fun v => !([n] : List Nat).contains v) = [] := by simp [hpend]
  rw [State.sendPending, if_neg (by rw [hen, hall]; decide)]
  simp only [hgo, hrest, List.foldl_cons, List.foldl_nil]
  exact State.msix_sent hen hall hopen hmask

/-- With nothing pending, or no messages sent, nothing changes. -/
theorem State.sendPending_none {s : State}
    (h : s.hif.msixPending = [] ∨ s.hif.msixEnable = false ∨ s.hif.msixMaskAll = true) : s.sendPending = s := by
  rcases h with hpend | hen | hall
  · have hkeep : { s.hif with msixPending := [] } = s.hif := by rw [← hpend]
    simp [State.sendPending, hpend, hkeep]
  · simp [State.sendPending, hen]
  · simp [State.sendPending, hall]

/-- Settles O8: each clause is the write of one register. -/
theorem reportRegisterWrites : Obligations.ReportRegisterWrites := by
  intro s v w hio
  refine ⟨write_evqHead hio v, fun hen => ?_, fun hen => ?_, write_mbxStatus hio, fun n x hn hx => ?_, write_snapCtrl hio v,
    ⟨fun hen hw => ?_, fun hen hw => ?_, fun hen => ?_⟩, fun hw => ?_, fun hw => ?_, fun n hn => ⟨?_, ?_⟩⟩
  · rw [write_evqBase hio, if_pos hen]
  · rw [write_evqBase hio, if_neg (ne_true_of_eq_false hen)]
  · exact ⟨_, write_latTol hio hn hx v, rfl, State.hasSleeve_updSleeve_same (fun _ => rfl) hx,
      fun m y hne hy => State.hasSleeve_updSleeve_other (fun _ => rfl) hne hy⟩
  · simp only [exec_evqEnable hio, State.writeEvqCtrl_eq, hen, hw]; rfl
  · simp only [exec_evqEnable hio, State.writeEvqCtrl_eq, hen, hw]; rfl
  · simp only [exec_evqEnable hio, State.writeEvqCtrl_eq, hen, Bool.not_true, Bool.and_false]; rfl
  · rw [exec_snapshotRelease hio, State.writeSnapStatus, if_pos hw]
  · rw [exec_snapshotRelease hio, State.writeSnapStatus, if_neg (ne_true_of_eq_false hw)]
  · intro hen hall hopen hpend
    rw [exec_msixUnmask hio hn]
    exact congrArg _ (State.sendPending_one hen hall hopen hpend (by simp))
  · intro hquiet
    rw [exec_msixUnmask hio hn]
    exact congrArg _ (State.sendPending_none hquiet)

end Sys2Proof.Machine
end

section
/-! SUPPORT. The stitch edge (R21, R24 to R26, R33, R35, R282, R328): the part of the state that an edge sets once, the steps of an
edge that leave it alone, and the edge of a module on its own reference. -/
namespace Sys2Proof.Machine
open Sys2Proof

/-! ### The part of the state that an edge sets -/

/-- What an edge sets of a bolt: clock, planned clock, droop, rounding key and its draws (R21, R35, R73). -/
structure BoltEdgePart where
  clock : Nat
  staged : Nat
  deferred : Bool
  stretching : Bool
  roundKey : BitVec 64
  draws : Sparse Nat

/-- What an edge sets of a bolt `b`. -/
def Bolt.edgePart (b : Bolt) : BoltEdgePart := ⟨b.clock, b.staged, b.deferred, b.stretching, b.roundKey, b.draws⟩

/-- What an edge sets of the module: its time but for the count of placements, header reads, cap, what waits for a new plan, and its
bolts. -/
structure EdgePart where
  time : Time
  admHeaders : Nat
  capW : Nat
  capNext : Option (Nat × List Nat)
  order : List Nat
  standalone : Bool
  planDue : Option Nat
  released : List Output
  resend : List Output
  bolt : Nat → BoltEdgePart

/-- What an edge sets of the module `s`. -/
def State.edgePart (s : State) : EdgePart where
  time := { s.time with placed := 0 }
  admHeaders := s.admHeaders
  capW := s.power.capW
  capNext := s.power.capNext
  order := s.power.order
  standalone := s.domain.standalone
  planDue := s.domain.planDue
  released := s.domain.released
  resend := s.domain.resend
  bolt b := (s.bolt b).edgePart

/-- What an edge makes of a bolt's part with a fresh key (R21, R35, R73). -/
def BoltEdgePart.begun (p : BoltEdgePart) (key : BitVec 64) : BoltEdgePart :=
  { p with clock := if p.deferred || p.stretching then p.clock else p.staged, deferred := false, roundKey := key, draws := [] }

theorem Bolt.edgePart_atEdge (b : Bolt) (key : BitVec 64) (short : Bool) :
    (b.atEdge key short).edgePart = b.edgePart.begun key := rfl

/-! ### Updates that leave it alone -/

/-- A fold of steps that keep a reading of the state keeps it. -/
theorem foldl_keeps {α β γ : Type} (g : β → γ) {f : β → α → β} (hf : ∀ s a, g (f s a) = g s) (l : List α) (s : β) :
    g (l.foldl f s) = g s := by
  induction l generalizing s with
  | nil => rfl
  | cons a l ih => exact (ih (f s a)).trans (hf s a)

@[simp] theorem State.edgePart_emit (s : State) (o : Output) : (s.emit o).edgePart = s.edgePart := rfl
@[simp] theorem State.edgePart_fresh (s : State) : s.fresh.2.edgePart = s.edgePart := rfl
@[simp] theorem State.edgePart_runs (s : State) (rs : List Run) : ({ s with runs := rs } : State).edgePart = s.edgePart := rfl
@[simp] theorem State.edgePart_hif (s : State) (h : HostIf) : ({ s with hif := h } : State).edgePart = s.edgePart := rfl
@[simp] theorem State.edgePart_edgePorts (s : State) (l : List EdgePort) :
    ({ s with edgePorts := l } : State).edgePart = s.edgePart := rfl
@[simp] theorem State.edgePart_updPort (s : State) (n : Nat) (f : Port → Port) : (s.updPort n f).edgePart = s.edgePart := rfl
@[simp] theorem State.edgePart_updSlot (s : State) (n : Nat) (f : Slot → Slot) : (s.updSlot n f).edgePart = s.edgePart := rfl
@[simp] theorem State.edgePart_updRun (s : State) (n : Nat) (f : Run → Run) : (s.updRun n f).edgePart = s.edgePart := rfl
@[simp] theorem State.edgePart_dropRun (s : State) (n : Nat) : (s.dropRun n).edgePart = s.edgePart := rfl
@[simp] theorem State.edgePart_refuse (s : State) (r : Run) (st : Status) (detail bno : Nat) :
    (s.refuse r st detail bno).edgePart = s.edgePart := rfl

@[simp] theorem State.edgePart_event (s : State) (type sleeve : Nat) (fields : List (Nat × Nat × Nat)) :
    (s.event type sleeve fields).edgePart = s.edgePart := by
  unfold State.event
  split <;> rfl

/-- An update of the domain that leaves plans and their messages alone. -/
theorem State.edgePart_domain {s : State} {d : Domain} (hs : d.standalone = s.domain.standalone)
    (hp : d.planDue = s.domain.planDue) (hr : d.released = s.domain.released) (hq : d.resend = s.domain.resend) :
    ({ s with domain := d } : State).edgePart = s.edgePart := by
  change { s.edgePart with standalone := d.standalone, planDue := d.planDue, released := d.released, resend := d.resend } = _
  rw [hs, hp, hr, hq]
  rfl

/-- A bolt replaced by one with the same part. -/
theorem State.edgePart_setBolt {s : State} {b : Nat} {v : Bolt} (h : v.edgePart = (s.bolt b).edgePart) :
    (s.setBolt b v).edgePart = s.edgePart := by
  have hbolt : (s.setBolt b v).edgePart.bolt = s.edgePart.bolt := by
    funext x
    change ((s.setBolt b v).bolt x).edgePart = (s.bolt x).edgePart
    by_cases hx : x = b
    · rw [hx, State.bolt_setBolt_same, h]
    · rw [State.bolt_setBolt_other s b x v hx]
  exact congrArg (fun m => { s.edgePart with bolt := m }) hbolt

/-- An update of one bolt that keeps its part. -/
theorem State.edgePart_updBolt {s : State} {b : Nat} {f : Bolt → Bolt} (h : ∀ B, (f B).edgePart = B.edgePart) :
    (s.updBolt b f).edgePart = s.edgePart := State.edgePart_setBolt (h _)

/-- An update of many bolts that keeps the part of each. -/
theorem State.edgePart_updBolts {s : State} {bs : List Nat} {f : Nat → Bolt → Bolt}
    (h : ∀ b B, (f b B).edgePart = B.edgePart) : (s.updBolts bs f).edgePart = s.edgePart :=
  foldl_keeps State.edgePart (fun _ b => State.edgePart_updBolt (h b)) bs s

/-! ### Records, shift and recovery -/

@[simp] theorem State.edgePart_closeRecords (s : State) : s.closeRecords.edgePart = s.edgePart := rfl

@[simp] theorem State.edgePart_shiftRuns (s : State) (pick : Run → Bool) (e k : Nat) (cause : BitVec 8) :
    (s.shiftRuns pick e k cause).edgePart = s.edgePart := State.edgePart_updBolts fun _ _ => rfl

@[simp] theorem State.edgePart_shiftEdge (s : State) (k : Nat) : (s.shiftEdge k).edgePart = s.edgePart := by
  unfold State.shiftEdge
  dsimp only
  split
  · rfl
  · exact (State.edgePart_domain rfl rfl rfl rfl).trans (State.edgePart_shiftRuns _ _ _ _ _)

@[simp] theorem State.edgePart_collsEdge (s : State) (k : Nat) : (s.collsEdge k).edgePart = s.edgePart := rfl

@[simp] theorem State.edgePart_recoverEdge (s : State) : s.recoverEdge.edgePart = s.edgePart := by
  unfold State.recoverEdge
  dsimp only
  rw [foldl_keeps State.edgePart fun s h => s.edgePart_emit _, State.edgePart_hif]
  split
  · split
    · split <;> rfl
    · split <;> rfl
  · split <;> rfl

/-! ### Ports, slots and power states -/

@[simp] theorem State.edgePart_raisePort (s : State) (n : Nat) : (s.raisePort n).edgePart = s.edgePart :=
  State.edgePart_event _ _ _ _

@[simp] theorem State.edgePart_sendPlan (s : State) : s.sendPlan.edgePart = s.edgePart :=
  foldl_keeps State.edgePart (fun s _ => s.edgePart_emit _) _ _

@[simp] theorem State.edgePart_slotsEdge (s : State) : s.slotsEdge.edgePart = s.edgePart := by
  refine foldl_keeps State.edgePart (fun s n => ?_) _ s
  dsimp only
  split <;> rfl

/-- Planning a gate changes no clock and no key. -/
theorem State.edgePart_gateOf (s : State) (p : PState) (b : Nat) : (s.gateOf p b).edgePart = (s.bolt b).edgePart := by
  unfold State.gateOf
  dsimp only
  split
  · rfl
  · split <;> split <;> rfl

@[simp] theorem State.edgePart_powerEdge (s : State) : s.powerEdge.edgePart = s.edgePart :=
  foldl_keeps State.edgePart (fun s b => State.edgePart_setBolt (s.edgePart_gateOf _ b)) _ _

@[simp] theorem State.edgePart_drain (s : State) (n : Nat) : (s.drain n).edgePart = s.edgePart := by
  unfold State.drain
  dsimp only
  split
  · rfl
  · exact foldl_keeps State.edgePart State.edgePart_emit _ _

@[simp] theorem State.edgePart_wakePorts (s : State) (rested : Bool) : (s.wakePorts rested).edgePart = s.edgePart := by
  unfold State.wakePorts
  split
  · exact foldl_keeps State.edgePart State.edgePart_drain _ _
  · rfl

@[simp] theorem State.edgePart_portsEdge (s : State) : s.portsEdge.edgePart = s.edgePart := by
  unfold State.portsEdge
  extract_lets waits added s1 s2 d s3 s4 s5
  have h1 : s1.edgePart = s.edgePart := by
    unfold s1
    split <;> rfl
  have h2 : s2.edgePart = s1.edgePart := foldl_keeps State.edgePart State.edgePart_raisePort _ _
  have h3 : s3.edgePart = s2.edgePart := by
    unfold s3
    split
    · rfl
    · exact State.edgePart_domain rfl rfl rfl rfl
  have h4 : s4.edgePart = s3.edgePart := by
    unfold s4
    split
    · exact s3.edgePart_sendPlan
    · rfl
  have h5 : s5.edgePart = s4.edgePart := by
    refine foldl_keeps State.edgePart (fun s n => ?_) _ _
    split <;> rfl
  rw [State.edgePart_edgePorts, h5, h4, h3, h2, h1]

/-! ### Placement and start of commands -/

@[simp] theorem State.edgePart_beginExits (s : State) (bolts : BitVec 16) (tau : Nat) :
    (s.beginExits bolts tau).edgePart = s.edgePart := by
  unfold State.beginExits
  split
  · split <;> rfl
  · refine State.edgePart_updBolts fun b B => ?_
    split <;> rfl

@[simp] theorem State.edgePart_enter (s : State) (r : Run) (e : Nat) (costs : Sparse Nat) (tau : Nat) :
    (s.enter r e costs tau).edgePart = s.edgePart := State.edgePart_beginExits _ _ _

/-- A claim pins and fills pockets only. -/
theorem State.edgePart_resolveClaim (s : State) (now e : Nat) (b : Bolt) (c : Claim) :
    (s.resolveClaim now e b c).1.edgePart = b.edgePart := by
  unfold State.resolveClaim
  split
  · rfl
  · extract_lets n pin free fill
    have hfill : fill.1.edgePart = b.edgePart := by
      unfold fill
      split
      · rfl
      · refine foldl_keeps Bolt.edgePart (fun _ _ => ?_) _ _
        rfl
    split
    · rfl
    · split
      · split
        · refine foldl_keeps Bolt.edgePart (fun _ _ => ?_) _ _
          rfl
        · exact hfill
      · exact hfill

theorem State.edgePart_resolveClaims (s : State) (now e : Nat) (b : Bolt) (cs : List Claim) :
    (s.resolveClaims now e b cs).1.edgePart = b.edgePart := by
  induction cs generalizing b with
  | nil => rfl
  | cons c cs ih => exact (ih _).trans (s.edgePart_resolveClaim now e b c)

/-- Bolts replaced one after another by bolts with the part that they had at the start. -/
theorem State.edgePart_setBolts {s : State} {f : Nat → Bolt} (hf : ∀ b, (f b).edgePart = s.edgePart.bolt b) (l : List Nat) :
    (l.foldl (fun s b => s.setBolt b (f b)) s).edgePart = s.edgePart := by
  induction l generalizing s with
  | nil => rfl
  | cons b l ih =>
    have hset : (s.setBolt b (f b)).edgePart = s.edgePart := State.edgePart_setBolt (hf b)
    exact (ih fun x => by rw [hset]; exact hf x).trans hset

@[simp] theorem State.edgePart_claimIn (s : State) (r : Run) (claims : Nat → List Claim) (e : Nat) :
    (s.claimIn r claims e).1.edgePart = s.edgePart := by
  unfold State.claimIn
  dsimp only
  rw [List.foldl_map]
  exact State.edgePart_setBolts (fun b => s.edgePart_resolveClaims _ e (s.bolt b) (claims b)) _

/-- A RUN that can be weighed has claimed pockets and nothing else. -/
theorem State.edgePart_weighRun {s : State} {v : Sleeve} {r : Run} {a : ArgBlock} {p : Pattern} {claims : Nat → List Claim}
    {tau e : Nat} {c : Sparse Nat} {t : State} (h : s.weighRun v r a p claims tau e = some (c, t)) :
    t.edgePart = s.edgePart := by
  unfold State.weighRun at h
  split at h
  · cases h
  · rename_i costs t1 hprice
    obtain ⟨_, _, hclaim⟩ := Option.map_eq_some_iff.mp hprice
    cases hclaim
    dsimp only at h
    split at h
    · cases h
      exact s.edgePart_claimIn r claims e
    · cases h

theorem State.edgePart_candidatesFrom {s : State} {weigh : State → Nat → Option (Sparse Nat × State)} {fuel n e : Nat}
    (hw : ∀ s e c t, weigh s e = some (c, t) → t.edgePart = s.edgePart) :
    (s.candidatesFrom weigh fuel n e).2.edgePart = s.edgePart := by
  induction fuel generalizing s n e with
  | zero => rfl
  | succ fuel ih =>
    unfold State.candidatesFrom
    split
    · rfl
    · split
      next c t hc => exact ih.trans (hw s e c t hc)
      next => exact ih

@[simp] theorem State.edgePart_sendList (s : State) (m : Membership) (seqNo : Nat) (stitches arrivals : List Nat) :
    (s.sendList m seqNo stitches arrivals).edgePart = s.edgePart := by
  unfold State.sendList
  split <;> rfl

@[simp] theorem State.edgePart_placeRun (s : State) (v : Sleeve) (r : Run) (a : ArgBlock) (p : Pattern) (xs : List (Nat × Tr))
    (tau : Nat) : (s.placeRun v r a p xs tau).edgePart = s.edgePart := by
  unfold State.placeRun
  dsimp only
  split
  · split
    next hfit => exact (State.edgePart_enter _ _ _ _ _).trans (State.edgePart_weighRun (firstFit_mem hfit))
    next => exact State.edgePart_refuse _ _ _ _ _
  · have hseq (q : Sparse Nat) : ({ s with domain := { s.domain with collSeq := q } } : State).edgePart = s.edgePart := rfl
    split
    · rw [State.edgePart_refuse, hseq]
    · split
      · rw [State.edgePart_refuse, hseq]
      · rw [State.edgePart_sendList, State.edgePart_beginExits, State.edgePart_runs,
          State.edgePart_candidatesFrom fun _ _ _ _ h => State.edgePart_weighRun h, hseq]

@[simp] theorem State.edgePart_placeFixed (s : State) (r : Run) (tau : Nat) : (s.placeFixed r tau).edgePart = s.edgePart := by
  unfold State.placeFixed
  dsimp only
  split
  · exact State.edgePart_enter _ _ _ _ _
  · rfl

@[simp] theorem State.edgePart_placeWaiting (s : State) (id tau : Nat) : (s.placeWaiting id tau).edgePart = s.edgePart := by
  unfold State.placeWaiting
  split
  · rfl
  · split
    · split
      · rfl
      · exact State.edgePart_placeRun _ _ _ _ _ _ _
    · rfl
    · exact State.edgePart_placeFixed _ _ _

@[simp] theorem State.edgePart_placeWaiters (s : State) (tau fuel : Nat) : (s.placeWaiters tau fuel).edgePart = s.edgePart := by
  induction fuel generalizing s with
  | zero => rfl
  | succ fuel ih =>
    unfold State.placeWaiters
    split
    · rw [ih, State.edgePart_placeWaiting]
    · rfl

@[simp] theorem State.edgePart_startOn (s : State) (r : Run) (b : Nat) : (s.startOn r b).edgePart = s.edgePart := by
  unfold State.startOn
  split
  · rw [State.edgePart_updRun]
    exact State.edgePart_setBolt rfl
  · rfl

@[simp] theorem State.edgePart_beginNext (s : State) (b : Nat) : (s.beginNext b).edgePart = s.edgePart := by
  unfold State.beginNext
  split
  · rfl
  · split
    · exact s.edgePart_startOn _ b
    · rfl

/-! ### Roles and the word down the tree -/

@[simp] theorem State.edgePart_dueShift (s : State) (us : Nat) : (s.dueShift us).edgePart = s.edgePart := rfl

@[simp] theorem State.edgePart_takeOver (s : State) : s.takeOver.edgePart = s.edgePart := by
  unfold State.takeOver
  rw [State.edgePart_event, State.edgePart_dueShift, State.edgePart_sendPlan]
  cases s.domain.mirrored <;> rfl

@[simp] theorem State.edgePart_roleEdge (s : State) : s.roleEdge.edgePart = s.edgePart := by
  unfold State.roleEdge
  split
  · rfl
  · dsimp only
    split
    · split
      · exact State.edgePart_takeOver _
      · rfl
    · split <;> rfl

@[simp] theorem State.edgePart_sendEdge (s : State) (k : Nat) : (s.sendEdge k).edgePart = s.edgePart := by
  unfold State.sendEdge
  split <;> rfl

/-! ### The bolts at an edge (R21, R35, R73) -/

/-- One bolt's edge gives it a fresh key. -/
theorem State.edgePart_boltEdge_same (s : State) (b : Nat) :
    (s.boltEdge b).edgePart.bolt b = (s.edgePart.bolt b).begun (Config.entropy s.freeCtr) :=
  (congrArg Bolt.edgePart (State.bolt_updBolt_same _ _ _)).trans (Bolt.edgePart_atEdge _ _ _)

/-- One bolt's edge leaves the others alone. -/
theorem State.edgePart_boltEdge_other (s : State) {b x : Nat} (h : x ≠ b) : (s.boltEdge b).edgePart.bolt x = s.edgePart.bolt x :=
  congrArg Bolt.edgePart (State.bolt_updBolt_other _ _ _ _ h)

/-- The edges of a list of bolts leave the others alone. -/
theorem State.edgePart_boltEdges_other {l : List Nat} {x : Nat} (h : x ∉ l) (s : State) :
    (l.foldl State.boltEdge s).edgePart.bolt x = s.edgePart.bolt x := by
  induction l generalizing s with
  | nil => rfl
  | cons b l ih =>
    exact (ih (List.not_mem_of_not_mem_cons h) _).trans (s.edgePart_boltEdge_other (List.ne_of_not_mem_cons h))

/-- The edges of bolts draw free values on. -/
theorem State.freeCtr_le_boltEdges (s : State) (l : List Nat) : s.freeCtr ≤ (l.foldl State.boltEdge s).freeCtr :=
  (Moves.foldl (fun _ _ h => State.boltEdge_moves h) (Moves.refl s)).keeps.free

/-- Each of the bolts that take their edge one after another gets a key of its own. -/
theorem State.edgePart_boltEdges_mem {l : List Nat} (hl : l.Nodup) {b : Nat} (hb : b ∈ l) (s : State) :
    ∃ n, s.freeCtr ≤ n ∧ n < (l.foldl State.boltEdge s).freeCtr ∧
      (l.foldl State.boltEdge s).edgePart.bolt b = (s.edgePart.bolt b).begun (Config.entropy n) := by
  induction l generalizing s with
  | nil => cases hb
  | cons a l ih =>
    obtain ⟨ha, hl⟩ := List.nodup_cons.mp hl
    by_cases hba : b = a
    · subst hba
      exact ⟨s.freeCtr, Nat.le_refl _, (s.boltEdge b).freeCtr_le_boltEdges l,
        (State.edgePart_boltEdges_other ha _).trans (s.edgePart_boltEdge_same b)⟩
    · obtain ⟨n, hlo, hhi, hn⟩ := ih hl ((List.mem_cons.mp hb).resolve_left hba) (s.boltEdge a)
      exact ⟨n, Nat.le_of_succ_le hlo, hhi, by rw [List.foldl_cons, hn, s.edgePart_boltEdge_other hba]⟩

/-- The edges of bolts set nothing but bolts. -/
theorem State.edgePart_boltEdges (s : State) (l : List Nat) (m : Nat → BoltEdgePart) :
    { (l.foldl State.boltEdge s).edgePart with bolt := m } = { s.edgePart with bolt := m } :=
  foldl_keeps (fun s : State => { s.edgePart with bolt := m }) (f := State.boltEdge) (fun _ _ => rfl) l s

/-! ### Messages of lost ports (R282) -/

@[simp] theorem State.edgePart_sendSegment (s : State) (n : Nat) (g : Segment) : (s.sendSegment n g).edgePart = s.edgePart := by
  unfold State.sendSegment
  split
  · rw [State.edgePart_drain, State.edgePart_updPort]
  · rfl

@[simp] theorem State.edgePart_resendMsg (s : State) (o : Output) : (s.resendMsg o).edgePart = s.edgePart := by
  unfold State.resendMsg
  split
  · exact (foldl_keeps State.edgePart (fun s g => s.edgePart_sendSegment _ g) _ _).trans (State.edgePart_emit _ _)
  · rfl

/-- A message goes out again to its node with what it carries. -/
theorem State.out_resendMsg (s : State) (o : Output) : ∃ x, seamOf x = seamOf o ∧ s.out ++ [x] <+: (s.resendMsg o).out := by
  unfold State.resendMsg
  split
  next port gs m =>
    extract_lets port
    refine ⟨.seam port gs m, by cases gs <;> rfl, ?_⟩
    have hsent : Moves (s.emit (.seam port gs m))
        (gs.foldl (fun s g => s.sendSegment (port % portCount) g) (s.emit (.seam port gs m))) :=
      Moves.foldl (fun _ _ h => State.sendSegment_moves h) (Moves.refl _)
    exact hsent.keeps.out
  next => exact ⟨o, rfl, List.prefix_refl _⟩

/-- Every message of a list goes out again. -/
theorem State.out_resendMsgs (l : List Output) (s : State) :
    ∃ m, (l.foldl State.resendMsg s).out = s.out ++ m ∧ ∀ o ∈ l, ∃ x ∈ m, seamOf x = seamOf o := by
  induction l generalizing s with
  | nil => exact ⟨[], (List.append_nil _).symm, fun _ h => by cases h⟩
  | cons o l ih =>
    obtain ⟨x, hx, m, hm⟩ := s.out_resendMsg o
    obtain ⟨m', hm', hall⟩ := ih (s.resendMsg o)
    refine ⟨x :: m ++ m', by simp [hm', ← hm], fun q hq => ?_⟩
    rcases List.mem_cons.mp hq with rfl | hq
    · exact ⟨x, by simp, hx⟩
    · obtain ⟨y, hy, hyq⟩ := hall q hq
      exact ⟨y, by simp [hy], hyq⟩

/-- While a plan is due, nothing goes out again. -/
theorem State.resendEdge_waits {s : State} (h : s.domain.planDue.isSome = true) : s.resendEdge = s := if_pos (.inl h)

/-- With no plan due, what waited has gone out again. -/
theorem State.resendEdge_sends {s : State} (h : s.domain.planDue = none) :
    s.resendEdge.edgePart = { s.edgePart with released := s.domain.released ++ s.domain.resend, resend := [] } ∧
    ∃ m, s.resendEdge.out = s.out ++ m ∧ ∀ o ∈ s.domain.resend, ∃ x ∈ m, seamOf x = seamOf o := by
  unfold State.resendEdge
  rw [h]
  by_cases hq : s.domain.resend = []
  · rw [if_pos (.inr hq), hq, List.append_nil]
    exact ⟨congrArg (fun q => { s.edgePart with resend := q }) hq, [], (List.append_nil _).symm, fun _ h => by cases h⟩
  · rw [if_neg (by simp [hq])]
    exact ⟨(foldl_keeps State.edgePart State.edgePart_resendMsg _ _).trans rfl, State.out_resendMsgs _ _⟩

/-- What going out again sets: the messages that wait and those that went out. -/
theorem State.edgePart_resendEdge (s : State) : s.resendEdge.edgePart =
    { s.edgePart with released := s.resendEdge.domain.released, resend := s.resendEdge.domain.resend } := by
  cases hdue : s.domain.planDue with
  | none =>
    have hsent := (State.resendEdge_sends hdue).1
    have hr := congrArg EdgePart.released hsent
    have hq := congrArg EdgePart.resend hsent
    change s.resendEdge.domain.released = _ at hr
    change s.resendEdge.domain.resend = _ at hq
    rw [hsent, hr, hq]
  | some e => rw [State.resendEdge_waits (by rw [hdue]; rfl)]; rfl

/-! ### What an edge sets first (R24, R25, R33, R281, R457) -/

/-- What the edge of stitch `n` makes of time. -/
def State.timeAt (s : State) (n : Nat) : Time :=
  { s.time with
    stitch := BitVec.ofNat 48 n, us := s.time.us + stitchUs s.time.len, hem := false, headers := 0, placed := 0, commitsDone := 0
    len := s.time.lenNext.getD s.time.len, lenNext := none, floor := s.time.floorNext.getD s.time.floor, floorNext := none
    correction := 0, emergency := s.lasting, log := [] }

/-- What the edge of stitch `n` leaves of a plan that is due. -/
def planLeft (due : Option Nat) (n : Nat) : Option Nat :=
  if (match due with | some e => decide (e ≤ n) | none => false) = true then none else due

/-- No plan that is due by the edge is left. -/
theorem planLeft_due {due : Option Nat} {n : Nat} (h : ∀ e, due = some e → e ≤ n) : planLeft due n = none := by
  cases due with
  | none => rfl
  | some e => exact if_pos (decide_eq_true (h e rfl))

/-- A plan of a later stitch stays due. -/
theorem planLeft_later {e n : Nat} (h : n < e) : planLeft (some e) n = some e :=
  if_neg (by simpa using h)

/-- What the edge of stitch `n` makes of the part that it sets, with the bolts and the messages as given. -/
def State.partAt (s : State) (n : Nat) (released resend : List Output) (bolt : Nat → BoltEdgePart) : EdgePart where
  time := s.timeAt n
  admHeaders := 0
  capW := (s.power.capNext.map (·.1)).getD s.power.capW
  capNext := none
  order := (s.power.capNext.map (·.2)).getD s.power.order
  standalone := s.domain.standalone
  planDue := planLeft s.domain.planDue n
  released := released
  resend := resend
  bolt := bolt

/-- Time, cap and plan at the edge of stitch `n`. -/
theorem State.edgePart_clockEdge (s : State) (n : Nat) :
    (s.clockEdge n).edgePart = s.partAt n s.domain.released s.domain.resend s.edgePart.bolt := by
  unfold State.clockEdge
  dsimp only
  cases hcap : s.power.capNext with
  | none => simp only [State.edgePart, State.partAt, hcap]; rfl
  | some c => simp only [State.edgePart, State.partAt, hcap]; rfl

/-! ### A whole edge -/

/-- The state in which messages of lost ports go out again: clocks, ports, slots and power states are those of the new stitch. -/
def State.beforeResend (s : State) (k : Nat) : State :=
  ((List.range 16).foldl State.boltEdge ((s.shiftEdge k).collsEdge k).recoverEdge).portsEdge.slotsEdge.powerEdge.wakePorts
    (decide (s.power.pstate = .rest))

/-- Once messages of lost ports have gone out, waiting commands are placed and bolts take their next one. -/
theorem State.startStitch_eq (s : State) (k : Nat) : s.startStitch k = (List.range 16).foldl State.beginNext
    ((s.beforeResend k).resendEdge.placeWaiters 0 (s.beforeResend k).resendEdge.runs.length) := rfl

theorem State.beforeResend_moves (s : State) (k : Nat) : Moves s (s.beforeResend k) :=
  State.wakePorts_moves <| State.powerEdge_moves <| State.slotsEdge_moves <| State.portsEdge_moves <|
    Moves.foldl (fun _ _ h => State.boltEdge_moves h) <| State.recoverEdge_moves <| State.collsEdge_moves <|
    State.shiftEdge_moves <| Moves.refl s

/-- What follows the edges of the bolts leaves what they set. -/
theorem State.edgePart_beforeResend_eq (s : State) (k : Nat) : (s.beforeResend k).edgePart =
    ((List.range 16).foldl State.boltEdge ((s.shiftEdge k).collsEdge k).recoverEdge).edgePart := by
  rw [State.beforeResend, State.edgePart_wakePorts, State.edgePart_powerEdge, State.edgePart_slotsEdge, State.edgePart_portsEdge]

/-- Up to there only bolts are set. -/
theorem State.edgePart_beforeResend (s : State) (k : Nat) (m : Nat → BoltEdgePart) :
    { (s.beforeResend k).edgePart with bolt := m } = { s.edgePart with bolt := m } := by
  rw [State.edgePart_beforeResend_eq, State.edgePart_boltEdges, State.edgePart_recoverEdge, State.edgePart_collsEdge,
    State.edgePart_shiftEdge]

/-- Up to there every bolt has got its clock and a fresh key. -/
theorem State.edgePart_beforeResend_bolt (s : State) (k : Nat) {b : Nat} (hb : b < 16) :
    ∃ n, s.freeCtr ≤ n ∧ n < (s.beforeResend k).freeCtr ∧
      (s.beforeResend k).edgePart.bolt b = (s.edgePart.bolt b).begun (Config.entropy n) := by
  have hstart : Moves s ((s.shiftEdge k).collsEdge k).recoverEdge :=
    State.recoverEdge_moves <| State.collsEdge_moves <| State.shiftEdge_moves <| Moves.refl s
  obtain ⟨n, hlo, hhi, hn⟩ := State.edgePart_boltEdges_mem List.nodup_range (List.mem_range.mpr hb)
    ((s.shiftEdge k).collsEdge k).recoverEdge
  have hrest : Moves ((List.range 16).foldl State.boltEdge ((s.shiftEdge k).collsEdge k).recoverEdge) (s.beforeResend k) :=
    State.wakePorts_moves <| State.powerEdge_moves <| State.slotsEdge_moves <| State.portsEdge_moves <| Moves.refl _
  refine ⟨n, Nat.le_trans hstart.keeps.free hlo, Nat.lt_of_lt_of_le hhi hrest.keeps.free, ?_⟩
  rw [State.edgePart_recoverEdge, State.edgePart_collsEdge, State.edgePart_shiftEdge] at hn
  rw [State.edgePart_beforeResend_eq, hn]

/-- What the edge of stitch `n` has set between `s` and `t`. -/
structure StitchBegun (s : State) (n : Nat) (t : State) : Prop where
  time : t.edgePart.time = s.timeAt n
  admHeaders : t.admHeaders = 0
  standalone : t.domain.standalone = s.domain.standalone
  cap : ∀ w o, s.power.capNext = some (w, o) → t.power.capW = w ∧ t.power.order = o
  resent : (∀ e, s.domain.planDue = some e → e ≤ n) →
    t.domain.resend = [] ∧ t.domain.released = s.domain.released ++ s.domain.resend ∧
    ∃ l, t.out = s.out ++ l ∧ ∀ o ∈ s.domain.resend, ∃ x ∈ l, seamOf x = seamOf o
  waits : ∀ e, s.domain.planDue = some e → n < e →
    t.domain.resend = s.domain.resend ∧ t.domain.released = s.domain.released
  bolt : ∀ b < 16, ∃ m, s.freeCtr ≤ m ∧ m < t.freeCtr ∧ t.edgePart.bolt b = (s.edgePart.bolt b).begun (Config.entropy m)

/-- What follows an edge in the same step leaves what it set. -/
theorem StitchBegun.andThen {s t u : State} {n : Nat} (h : StitchBegun s n t) (hpart : u.edgePart = t.edgePart) (hmoves : Moves t u) :
    StitchBegun s n u where
  time := hpart ▸ h.time
  admHeaders := (congrArg EdgePart.admHeaders hpart).trans h.admHeaders
  standalone := (congrArg EdgePart.standalone hpart).trans h.standalone
  cap w o hc := ⟨(congrArg EdgePart.capW hpart).trans (h.cap w o hc).1, (congrArg EdgePart.order hpart).trans (h.cap w o hc).2⟩
  resent hd := by
    obtain ⟨hq, hr, l, hl, hall⟩ := h.resent hd
    obtain ⟨m, hm⟩ := hmoves.keeps.out
    refine ⟨(congrArg EdgePart.resend hpart).trans hq, (congrArg EdgePart.released hpart).trans hr, l ++ m, ?_, fun o ho => ?_⟩
    · rw [← hm, hl, List.append_assoc]
    · obtain ⟨x, hx, hxo⟩ := hall o ho
      exact ⟨x, List.mem_append_left m hx, hxo⟩
  waits e hd hn := ⟨(congrArg EdgePart.resend hpart).trans (h.waits e hd hn).1,
    (congrArg EdgePart.released hpart).trans (h.waits e hd hn).2⟩
  bolt b hb := by
    obtain ⟨m, hlo, hhi, hm⟩ := h.bolt b hb
    exact ⟨m, hlo, Nat.lt_of_lt_of_le hhi hmoves.keeps.free, hpart ▸ hm⟩

/-- The edge up to where messages of lost ports go out again. -/
theorem State.beforeResend_begun (s : State) (n k : Nat) : let y := (s.closeRecords.clockEdge n).beforeResend k
    Moves s y ∧ y.edgePart = s.partAt n s.domain.released s.domain.resend y.edgePart.bolt ∧
    ∀ b < 16, ∃ m, s.freeCtr ≤ m ∧ m < y.freeCtr ∧ y.edgePart.bolt b = (s.edgePart.bolt b).begun (Config.entropy m) := by
  intro y
  have hclock : Moves s (s.closeRecords.clockEdge n) := State.clockEdge_moves <| State.closeRecords_moves <| Moves.refl s
  have hpart : (s.closeRecords.clockEdge n).edgePart = s.partAt n s.domain.released s.domain.resend s.edgePart.bolt :=
    s.closeRecords.edgePart_clockEdge n
  refine ⟨hclock.trans (State.beforeResend_moves _ k), ?_, fun b hb => ?_⟩
  · exact (State.edgePart_beforeResend _ k y.edgePart.bolt).trans (by rw [hpart]; rfl)
  · obtain ⟨m, hlo, hhi, hm⟩ := State.edgePart_beforeResend_bolt (s.closeRecords.clockEdge n) k hb
    exact ⟨m, Nat.le_trans hclock.keeps.free hlo, hhi, by rw [hm, hpart]; rfl⟩

/-- The edge up to where messages of lost ports have gone out. -/
theorem State.resendEdge_begun (s : State) (n k : Nat) :
    StitchBegun s n ((s.closeRecords.clockEdge n).beforeResend k).resendEdge := by
  obtain ⟨hmoves, hpart, hbolt⟩ := s.beforeResend_begun n k
  generalize (s.closeRecords.clockEdge n).beforeResend k = y at hmoves hpart hbolt ⊢
  have hresend : y.domain.resend = s.domain.resend := congrArg EdgePart.resend hpart
  have hreleased : y.domain.released = s.domain.released := congrArg EdgePart.released hpart
  have hdue : y.domain.planDue = planLeft s.domain.planDue n := congrArg EdgePart.planDue hpart
  have hz : Moves y y.resendEdge := State.resendEdge_moves (Moves.refl y)
  have hzpart : y.resendEdge.edgePart =
      s.partAt n y.resendEdge.domain.released y.resendEdge.domain.resend y.edgePart.bolt :=
    y.edgePart_resendEdge.trans (by rw [hpart]; rfl)
  refine
    { time := congrArg EdgePart.time hzpart, admHeaders := congrArg EdgePart.admHeaders hzpart
      standalone := congrArg EdgePart.standalone hzpart, cap := fun w o hc => ?_, resent := fun hd => ?_
      waits := fun e he hn => ?_, bolt := fun b hb => ?_ }
  · have hw : y.resendEdge.power.capW = _ := congrArg EdgePart.capW hzpart
    have ho : y.resendEdge.power.order = _ := congrArg EdgePart.order hzpart
    simp only [State.partAt, hc] at hw ho
    exact ⟨hw, ho⟩
  · have hnone : y.domain.planDue = none := hdue.trans (planLeft_due hd)
    obtain ⟨hsent, m, hm, hall⟩ := State.resendEdge_sends hnone
    obtain ⟨l, hl⟩ := hmoves.keeps.out
    rw [hresend] at hall
    refine ⟨congrArg EdgePart.resend hsent, ?_, l ++ m, by rw [hm, ← hl, List.append_assoc], fun o ho => ?_⟩
    · rw [← hreleased, ← hresend]
      exact congrArg EdgePart.released hsent
    · obtain ⟨x, hx, hxo⟩ := hall o ho
      exact ⟨x, List.mem_append_right l hx, hxo⟩
  · have hwaits : y.resendEdge = y := State.resendEdge_waits (by rw [hdue, he, planLeft_later hn]; rfl)
    rw [hwaits]
    exact ⟨hresend, hreleased⟩
  · obtain ⟨m, hlo, hhi, hm⟩ := hbolt b hb
    exact ⟨m, hlo, Nat.lt_of_lt_of_le hhi hz.keeps.free, (congrArg (fun p => p.bolt b) hzpart).trans hm⟩

/-- The edge that begins stitch `n`. -/
theorem State.edge_begun (s : State) (n k : Nat) : StitchBegun s n (s.edge n k) := by
  have hresent := s.resendEdge_begun n k
  unfold State.edge
  rw [State.startStitch_eq]
  generalize ((s.closeRecords.clockEdge n).beforeResend k).resendEdge = z at hresent ⊢
  have hbegin (l : List Nat) (u : State) : (l.foldl State.beginNext u).edgePart = u.edgePart :=
    foldl_keeps State.edgePart State.edgePart_beginNext l u
  refine hresent.andThen ?_ ?_
  · rw [hbegin, State.edgePart_placeWaiters]
  · exact Moves.foldl (fun _ _ h => State.beginNext_moves h) (State.placeWaiters_moves (Moves.refl z))

/-- The edge of stitch `n` and a role that moves with it. -/
theorem State.roleEdge_begun (s : State) (n k : Nat) : StitchBegun s n (s.edge n k).roleEdge :=
  (s.edge_begun n k).andThen (State.edgePart_roleEdge _) (State.roleEdge_moves (Moves.refl _))

/-- Which shifts are due makes no difference to what an edge sets. -/
theorem StitchBegun.of_shiftDue {s t : State} {n : Nat} {l : List (Nat × Nat)}
    (h : StitchBegun { s with domain := { s.domain with shiftDue := l } } n t) : StitchBegun s n t :=
  ⟨h.time, h.admHeaders, h.standalone, h.cap, h.resent, h.waits, h.bolt⟩

/-- An edge by the module's own reference: what has begun before its word goes down the tree. -/
theorem State.passEdge_begun (s : State) (n received : Nat) :
    ∃ t k, StitchBegun s n t ∧ s.passEdge n received = t.sendEdge k := by
  refine ⟨_, s.shiftNow n received, ?_, rfl⟩
  dsimp only
  split
  · exact (State.roleEdge_begun _ n _).of_shiftDue
  · exact s.roleEdge_begun n _

/-- In a domain the word of the new stitch is the last output of its edge. -/
theorem State.out_sendEdge {s : State} (h : s.domain.standalone = false) (k : Nat) : (s.sendEdge k).out =
    s.out ++ [.tickWord tickEdge (edgeWordOf (s.sendEdge k).time.stitch.toNat (s.sendEdge k).time.len k
      (s.sendEdge k).domain.epoch.toNat)] := by
  have hsend : s.sendEdge k = s.emit _ := if_neg (ne_true_of_eq_false h)
  rw [hsend]
  rfl

/-- STITCH_EDGE in the hem of a module on its own reference. -/
theorem exec_stitchEdge {s : State} (hrun : s.stitching = true) (hhem : s.time.hem = true) (hown : s.ownEdges = true) :
    exec .stitchEdge s = .next (s.passEdge (s.time.stitch.toNat + 1) 0) := by
  change execStitchEdge s = _
  rw [execStitchEdge, hrun, hhem, hown]
  rfl

/-- Settles O41: what the edge sets (`StitchBegun`) stands when its word has gone down the tree, the last output. -/
theorem edgeBeginsStitch : Obligations.EdgeBeginsStitch := by
  intro s hrun hhem hown
  obtain ⟨u, k, hu, hpass⟩ := s.passEdge_begun (s.time.stitch.toNat + 1) 0
  have ht := hu.andThen (u.edgePart_sendEdge k) (State.sendEdge_moves (Moves.refl u))
  refine ⟨u.sendEdge k, by rw [exec_stitchEdge hrun hhem hown, hpass], congrArg Time.hem ht.time, ?_, congrArg Time.len ht.time,
    congrArg Time.lenNext ht.time, congrArg Time.floor ht.time, congrArg Time.headers ht.time, ht.admHeaders,
    congrArg Time.us ht.time, congrArg Time.log ht.time, ht.resent, ht.waits, ht.cap, fun hdom => ?_, fun b hb => ?_⟩
  · have hstitch : (u.sendEdge k).time.stitch = BitVec.ofNat 48 (s.time.stitch.toNat + 1) := congrArg Time.stitch ht.time
    rw [hstitch, BitVec.ofNat_add, BitVec.ofNat_toNat, BitVec.setWidth_eq]
    rfl
  · exact ⟨u.out, k, State.out_sendEdge (hu.standalone.trans hdom) k⟩
  · obtain ⟨m, hlo, hhi, hm⟩ := ht.bolt b hb
    exact ⟨congrArg BoltEdgePart.clock hm, ⟨m, hlo, hhi, congrArg BoltEdgePart.roundKey hm⟩, congrArg BoltEdgePart.draws hm⟩

end Sys2Proof.Machine
end

section
/-! SUPPORT. Issue of a pattern word (R206, R221): what the sequencer's tests give, and the queues of the units after it. -/
namespace Sys2Proof.Machine
open Sys2Proof

/-! ### The word that may issue -/

/-- A running command is found under its number. -/
theorem State.findRun_of_liveRun {s : State} {b : Nat} {r : Run} (h : s.liveRun b = some r) : s.findRun r.id = some r := by
  unfold State.liveRun at h
  split at h
  · simp at h
  · split at h
    · rename_i q hq
      have hqr : q = r := by simpa using (Option.ite_none_right_eq_some.mp h).2
      have hid := List.find?_some hq
      rw [← hqr, beq_iff_eq.mp hid, hq]
    · simp at h

/-- What issuing a word takes: the bolt as it stands, and a running command. -/
theorem State.issuable_some {s : State} {b : Nat} {B : Bolt} {r : Run} {w : PWord} (h : s.issuable b = some (B, r, w)) :
    s.bolt b = B ∧ s.liveRun b = some r := by
  unfold State.issuable at h
  split at h
  · simp at h
  · split at h
    · simp at h
    · rename_i q hq
      dsimp only at h
      split at h
      · simp at h
      · split at h
        · simp at h
        · simp only [Option.some.injEq, Prod.mk.injEq] at h
          obtain ⟨hB, hr, -⟩ := h
          exact ⟨hB, hr ▸ hq⟩

section
variable {s : State} {b cls op : Nat} {B : Bolt} {r : Run} {w : PWord} (h : Issues s b B r w cls op)
include h

theorem Issues.bolt : s.bolt b = B := (State.issuable_some h.1).1

theorem Issues.findRun : s.findRun r.id = some r := State.findRun_of_liveRun (State.issuable_some h.1).2

/-- A word whose turn it is runs. -/
theorem Issues.word (k : Bolt → Run → PWord → Host.Outcome State Fault Refusal) : s.word b cls op k = k B r w := by
  obtain ⟨hissue, hcls, hop⟩ := h
  simp only [State.word, hissue, hcls, hop, and_self, if_true]

end

/-- A run that an update leaves its number is found as the update left it. -/
theorem State.findRun_updRun {s : State} {n : Nat} {q : Run} {f : Run → Run} (hf : ∀ r, (f r).id = r.id)
    (h : s.findRun n = some q) : (s.updRun n f).findRun n = some (f q) := by
  have hid : ((fun r : Run => r.id == n) ∘ fun r => if r.id = n then f r else r) = fun r => r.id == n := by
    funext r
    by_cases hr : r.id = n <;> simp [hr, hf]
  have hq : q.id = n := by simpa using List.find?_some h
  have hfind : s.runs.find? (fun r => r.id == n) = some q := h
  simp only [State.findRun, State.updRun, List.find?_map, hid, hfind, Option.map_some, hq, if_true]

/-! ### Queues -/

@[simp] theorem Bolt.queue_setQueue_same (b : Bolt) (u : UnitId) (l : List Prim) : (b.setQueue u l).queue u = l := by
  cases u with
  | matrix a => simp [Bolt.setQueue, Bolt.queue]
  | _ => rfl

/-- A matrix unit replaced by one with the same queue. -/
theorem Bolt.queue_putUnit (b : Bolt) (a : Nat) (m : MatrixUnit) (u : UnitId) (hm : u = .matrix a → m.queue = b.queue u) :
    ({ b with mu := put {} b.mu a m } : Bolt).queue u = b.queue u := by
  cases u with
  | matrix x =>
    by_cases hx : x = a
    · subst hx
      simpa [Bolt.queue] using hm rfl
    · simp [Bolt.queue, look_put_other, hx]
  | _ => rfl

theorem Bolt.queue_setQueue_other (b : Bolt) {u x : UnitId} (l : List Prim) (h : x ≠ u) :
    (b.setQueue u l).queue x = b.queue x := by
  cases u with
  | matrix a => exact b.queue_putUnit a _ x (absurd · h)
  | _ => cases x <;> simp_all [Bolt.setQueue, Bolt.queue]

/-- One primitive more on each of some units. -/
theorem Bolt.queue_addEach (p : Prim) {us : List UnitId} (hus : us.Nodup) (b : Bolt) (u : UnitId) :
    (us.foldl (fun b u => b.setQueue u (b.queue u ++ [p])) b).queue u =
      if u ∈ us then b.queue u ++ [p] else b.queue u := by
  induction us generalizing b with
  | nil => rfl
  | cons x us ih =>
    obtain ⟨hx, hus⟩ := List.nodup_cons.mp hus
    rw [List.foldl_cons, ih hus]
    by_cases hu : u = x
    · subst hu
      simp [hx]
    · simp [hu, Bolt.queue_setQueue_other]

/-! ### A primitive on its units -/

/-- A bolt but for its units and their queues. -/
def Bolt.sansUnits (b : Bolt) : Bolt := { b with mu := [], q := {} }

@[simp] theorem Bolt.sansUnits_setQueue (b : Bolt) (u : UnitId) (l : List Prim) : (b.setQueue u l).sansUnits = b.sansUnits := by
  cases u <;> rfl

theorem Bolt.sansUnits_enqueue (b : Bolt) (us : List UnitId) (setf : Option Nat) (also : List Nat) :
    (b.enqueue us setf also).sansUnits = { b.sansUnits with issued := b.issued + 1 } :=
  congrArg (fun x : Bolt => { x with issued := b.issued + 1 })
    (foldl_keeps Bolt.sansUnits (fun _ _ => sansUnits_setQueue _ _ _) us b)

theorem Bolt.queue_enqueue (b : Bolt) {us : List UnitId} (hus : us.Nodup) (setf : Option Nat) (also : List Nat) (u : UnitId) :
    (b.enqueue us setf also).queue u = if u ∈ us then b.queue u ++ [⟨b.pc, b.issued, setf, also⟩] else b.queue u :=
  b.queue_addEach ⟨b.pc, b.issued, setf, also⟩ hus u

@[simp] theorem Bolt.sansUnits_warmUp (b : Bolt) (arrays : List Nat) (reads writes : List (Nat × Nat)) :
    (b.warmUp arrays reads writes).sansUnits = b.sansUnits := by
  refine foldl_keeps Bolt.sansUnits ?_ arrays b
  exact fun _ _ => rfl

@[simp] theorem Bolt.warmUp_pc (b : Bolt) (arrays : List Nat) (reads writes : List (Nat × Nat)) :
    (b.warmUp arrays reads writes).pc = b.pc := (congrArg Bolt.pc (b.sansUnits_warmUp arrays reads writes) :)
@[simp] theorem Bolt.warmUp_issued (b : Bolt) (arrays : List Nat) (reads writes : List (Nat × Nat)) :
    (b.warmUp arrays reads writes).issued = b.issued := (congrArg Bolt.issued (b.sansUnits_warmUp arrays reads writes) :)

/-- Warming up an array leaves what is queued on it. -/
@[simp] theorem Bolt.queue_warmUp (b : Bolt) (arrays : List Nat) (reads writes : List (Nat × Nat)) (u : UnitId) :
    (b.warmUp arrays reads writes).queue u = b.queue u := by
  refine foldl_keeps (Bolt.queue · u) (fun B a => B.queue_putUnit a _ u fun hu => ?_) arrays b
  subst hu
  split <;> rfl

theorem arraysIn_nodup (mask : Nat) : (arraysIn mask).Nodup := List.nodup_range.filter _

theorem Bolt.matrixUnits_nodup (b : Bolt) (mask : Nat) : (b.matrixUnits (arraysIn mask)).Nodup := by
  have harrays : ((arraysIn mask).map UnitId.matrix).Nodup :=
    List.Pairwise.map UnitId.matrix (fun _ _ hne heq => hne (UnitId.matrix.inj heq)) (arraysIn_nodup mask)
  have hrail : ∀ u ∈ (arraysIn mask).map UnitId.matrix, ∀ v ∈ [UnitId.rail], u ≠ v := by
    intro u hu v hv
    obtain ⟨a, -, rfl⟩ := List.mem_map.mp hu
    rw [List.mem_singleton.mp hv]
    exact UnitId.noConfusion
  unfold Bolt.matrixUnits
  split
  · rwa [List.append_nil]
  · exact List.nodup_append.mpr ⟨harrays, List.pairwise_singleton _ _, hrail⟩

section
variable (b : Bolt) (w : PWord) (arrays : List Nat) (last : Nat) (epi : List PWord) (reads writes : List (Nat × Nat))

/-- What the issue of a MATRIX does apart from the units. -/
theorem Bolt.sansUnits_issueMatrix : (b.issueMatrix w arrays last epi reads writes).sansUnits =
    ({ b.sansUnits with
      issued := b.issued + 1, rail := none
      ran := ((railRows b (matrixWord w).m).filterMap (fun r => (sideOf r).1) ++ b.ran).eraseDups
      sideRows := if b.rail.isNone then b.sideRows else (railRows b (matrixWord w).m).map sideOf } : Bolt).after last := by
  have hqueued := (b.warmUp arrays reads writes).sansUnits_enqueue (b.matrixUnits arrays) (wordHdr w).setf
    (flagsOf (b.rail.toList ++ epi))
  rw [b.sansUnits_warmUp, b.warmUp_issued] at hqueued
  exact congrArg (fun x : Bolt => ({ x with
    rail := none
    ran := ((railRows b (matrixWord w).m).filterMap (fun r => (sideOf r).1) ++ b.ran).eraseDups
    sideRows := if b.rail.isNone then b.sideRows else (railRows b (matrixWord w).m).map sideOf } : Bolt).after last) hqueued

@[simp] theorem Bolt.issueMatrix_mem : (b.issueMatrix w arrays last epi reads writes).mem = b.mem :=
  (congrArg Bolt.mem (b.sansUnits_issueMatrix w arrays last epi reads writes) :)
@[simp] theorem Bolt.issueMatrix_latch : (b.issueMatrix w arrays last epi reads writes).latch = b.latch :=
  (congrArg Bolt.latch (b.sansUnits_issueMatrix w arrays last epi reads writes) :)
@[simp] theorem Bolt.issueMatrix_rail : (b.issueMatrix w arrays last epi reads writes).rail = none :=
  (congrArg Bolt.rail (b.sansUnits_issueMatrix w arrays last epi reads writes) :)

/-- A MATRIX issues to its arrays, and with a RAIL attached to the rail engine. -/
theorem Bolt.issueMatrix_issued (mask : Nat) : Issued b w (b.matrixUnits (arraysIn mask)) (flagsOf (b.rail.toList ++ epi)) last
    (b.issueMatrix w (arraysIn mask) last epi reads writes) := by
  have hrest := b.sansUnits_issueMatrix w (arraysIn mask) last epi reads writes
  refine ⟨(congrArg Bolt.issued hrest :), fun u => ?_, (congrArg Bolt.pc hrest :), (congrArg Bolt.loops hrest :),
    (congrArg Bolt.rods hrest :)⟩
  have hqueue := (b.warmUp (arraysIn mask) reads writes).queue_enqueue (b.matrixUnits_nodup mask) (wordHdr w).setf
    (flagsOf (b.rail.toList ++ epi)) u
  rw [b.warmUp_pc, b.warmUp_issued, b.queue_warmUp] at hqueue
  exact hqueue

end

end Sys2Proof.Machine
end

section
/-! SUPPORT. The rail engine: RAIL words (R209), the checks of R116 and R136, and the side path of a forward product (R119 to
R123, R135). -/
namespace Sys2Proof.Machine
open Sys2Proof

/-! ### RAIL words -/

/-- A RAIL word waits on the bolt, and its row map tells whether the command has rows with a patch. -/
theorem railStep_waits {s : State} {b op : Nat} {B : Bolt} {r : Run} {w : PWord} (h : Issues s b B r w 1 op)
    (hroom : B.room [.rail] = true) :
    railStep op b s = .next ((s.setBolt b (({ B with rail := some w } : Bolt).after B.pc)).updRun r.id fun q => { q with
      tenantRows := q.tenantRows || anyPatch (rowMap B.mem (B.view (railWord w).mapCur).addr 65536) }) := by
  rw [railStep, h.word]
  exact if_neg (ne_false_of_eq_true hroom)

/-- A RAIL word on the state: the bolt holds it, and nothing else changes but the command's TENANT_ROWS (R209). -/
theorem railStep_completes {s t : State} {b op : Nat} {B : Bolt} {r : Run} {w : PWord} (h : Issues s b B r w 1 op)
    (ht : t = (s.setBolt b (({ B with rail := some w } : Bolt).after B.pc)).updRun r.id fun q => { q with
      tenantRows := q.tenantRows || anyPatch (rowMap B.mem (B.view (railWord w).mapCur).addr 65536) }) :
    OnlyBoltAndRuns b s t ∧
      t.bolt b = { B with
        rail := some w, pc := (B.after B.pc).pc, loops := (B.after B.pc).loops, rods := (B.after B.pc).rods } ∧
      ∃ q, t.findRun r.id = some q ∧ q = { r with tenantRows := q.tenantRows } := by
  subst ht
  refine ⟨⟨rfl, fun x hx => s.bolt_setBolt_other b x _ hx⟩, s.bolt_setBolt_same b _, _,
    State.findRun_updRun ?_ h.findRun, rfl⟩
  exact fun _ => rfl

/-! ### What stops a RAIL-bearing instruction -/

section
variable {s : State} {r : Run} {layer n : Nat} {sel : Option Nat} {rows : List (Option (Nat × RowEntry))}

theorem State.sideFault_of_railFault {f : Nat × Status} (h : s.railFault r rows = some f) :
    s.sideFault r layer n sel rows = some f := by
  simp [State.sideFault, h]

theorem State.sideFault_of_slotFault {i : Nat} (h : s.railFault r rows = none) (hslot : s.slotFault r layer n sel rows = some i) :
    s.sideFault r layer n sel rows = some (i, 0x37) := by
  simp [State.sideFault, h, hslot]

end

section
variable {s : State} {r : Run} {e : RowEntry}

theorem State.rowFault_reserved (h : e.reserved = true) : s.rowFault r e = some 0x72 := by
  simp [State.rowFault, h]

variable (h : e.reserved = false)
include h

/-- A row without a patch passes where it names no tenant. -/
theorem State.rowFault_plain (hpv : e.pv = false) : s.rowFault r e = if e.selvage ≠ 0 then some 0x30 else none := by
  simp [State.rowFault, h, hpv]

/-- A row that names no patch, or a lost one. -/
theorem State.rowFault_unregistered (hpv : e.pv = true)
    (hgone : s.patch e.patch = none ∨ ∃ p, s.patch e.patch = some p ∧ p.lost = true) : s.rowFault r e = some 0x31 := by
  rcases hgone with hnone | ⟨p, hp, hlost⟩
  · simp [State.rowFault, h, hpv, hnone]
  · simp [State.rowFault, h, hpv, hp, hlost]

/-- A row with a registered patch: its tenant, then its sleeve and base. -/
theorem State.rowFault_registered {p : Patch} (hpv : e.pv = true) (hp : s.patch e.patch = some p) (hlost : p.lost = false) :
    s.rowFault r e = if BitVec.ofNat 16 p.tenant ≠ e.selvage then some 0x30
      else if p.sleeve ≠ ownerNum r.hdr.owner ∨ p.base ≠ r.base then some 0x32 else none := by
  simp [State.rowFault, h, hpv, hp, hlost]

/-- The rows of another tenant (R113, R116). -/
theorem State.rowFault_tenant : s.rowFault r e = some 0x30 ↔ (e.pv = false ∧ e.selvage ≠ 0) ∨
    (e.pv = true ∧ ∃ p, s.patch e.patch = some p ∧ p.lost = false ∧ BitVec.ofNat 16 p.tenant ≠ e.selvage) := by
  cases hpv : e.pv with
  | false => simp [State.rowFault_plain h hpv]
  | true =>
    by_cases hgone : s.patch e.patch = none ∨ ∃ p, s.patch e.patch = some p ∧ p.lost = true
    · rw [State.rowFault_unregistered h hpv hgone]
      rcases hgone with hnone | ⟨p, hp, hlost⟩
      · simp [hnone]
      · simp [hp, hlost]
    · obtain ⟨p, hp⟩ := Option.ne_none_iff_exists'.mp fun hnone => hgone (.inl hnone)
      have hlost : p.lost = false := Bool.eq_false_iff.mpr fun hlost => hgone (.inr ⟨p, hp, hlost⟩)
      rw [State.rowFault_registered h hpv hp hlost]
      by_cases ht : BitVec.ofNat 16 p.tenant = e.selvage
      · simp [hp, ht]
      · simp [hp, hlost, ht]

end

/-! ### Products -/

/-- An element of a mapped list, the default mapped with it. -/
theorem getD_map_default {α β : Type} (l : List α) (f : α → β) (n : Nat) (d : α) :
    (l.map f).getD n (f d) = f (l.getD n d) := by
  rw [List.getD_eq_getElem?_getD, List.getD_eq_getElem?_getD, List.getElem?_map]
  exact Option.getD_map f d l[n]?

theorem qColumns_length (b : Bolt) (v : View) (k n : Nat) : (qColumns b v k n).length = n := by
  unfold qColumns
  split <;> simp [readTensor]

theorem darnForward_length (k0 k n : Nat) (d : Patch × DarnPlace) : (darnForward k0 k n d).length = n := by
  simp [darnForward]

theorem productRow_length (acc : Option (List Num)) (p : List (Option Num)) (qs : List (List Num)) :
    (productRow acc p qs).length = qs.length := by
  simp [productRow]

/-- One output of a row that continues no chain. -/
theorem productRow_getD (p : List (Option Num)) {qs : List (List Num)} {j : Nat} (hj : j < qs.length) :
    (productRow none p qs).getD j zero = (contractProducts none (fillPass (List.zipWith fillMul p (qs.getD j [])))).getD zero := by
  simp [productRow, hj]

/-- A row of a product that continues no chain runs from its own Q where it has one. -/
theorem productOwn_getD {ps : List (List (Option Num))} (qs : List (List Num)) (own : List (Option (List (List Num)))) {i : Nat}
    (hi : i < ps.length) : (productOwn [] ps qs own).getD i [] = productRow none (ps.getD i []) ((own.getD i none).getD qs) := by
  simp [productOwn, hi]

theorem addSide_getD {row a : List Num} {j : Nat} (hrow : j < row.length) (ha : j < a.length) :
    (addSide row (some a)).getD j zero = tallyAdd (row.getD j zero) (a.getD j zero) := by
  simp only [addSide, List.getD_eq_getElem?_getD, List.getElem?_zipWith, List.getElem?_eq_getElem hrow,
    List.getElem?_eq_getElem ha, Option.getD_some]

/-! ### A plain MATRIX with a forward RAIL -/

/-- A primitive all of whose bytes lie in the local store goes on. -/
theorem within_inside {bno : Nat} {es : List (Nat × Nat)} {k : State} (h : outside es = none) : within bno es k = .next k := by
  rw [within, h]

/-- A list's elements without their places. -/
theorem map_zipIdx_fst {α β : Type} (l : List α) (f : α → β) : l.zipIdx.map (fun e => f e.1) = l.map f := by
  rw [← Function.comp_def, ← List.map_map, List.zipIdx_map_fst]

/-- The rows that a plain product under the RAIL `rl` hands off: each row's own tallies with its side sums added (R122, R135). -/
def State.railOut (s : State) (B : Bolt) (k : MatrixWord) (rl : RailWord) (sel : Option Nat) (sums : List (Option (List Num))) :
    List (List Num) :=
  (productOwn [] (given (readTensor B.mem (B.view k.p) k.m k.k)) (qColumns B (B.view k.q) k.k k.n)
    ((railRows B k.m).map fun row => (s.sideDarn rl.layer sel row).map (darnForward 0 k.k k.n))).zipIdx.map
      fun e => addSide e.1 (sums.getD e.2 none)

/-- The Q that row `i` runs from: its patch's darned copy of the layer, else the instruction's own (R135). -/
def State.railQ (s : State) (B : Bolt) (k : MatrixWord) (rl : RailWord) (sel : Option Nat) (i : Nat) : List (List Num) :=
  match s.sideDarn rl.layer sel ((railRows B k.m).getD i none) with
  | some d => darnForward 0 k.k k.n d
  | none => qColumns B (B.view k.q) k.k k.n

/-- The bolt with no chain held on the arrays of `mask`, its side path having left `latch`. -/
def Bolt.endChain (B : Bolt) (mask : Nat) (latch : Option RankLatch) : Bolt :=
  { B with held := B.held.filter fun h => h.mask != mask, railAcc := B.railAcc.filter fun e => e.1 != mask, latch := latch }

/-- The bolt once the MATRIX `w`, a chain of its own, has issued and its side path has left `latch`. -/
def Bolt.issuedRail (B : Bolt) (w : PWord) (latch : Option RankLatch) (reads writes : List (Nat × Nat)) : Bolt :=
  (B.endChain (matrixWord w).mask latch).issueMatrix w (arraysIn (matrixWord w).mask) B.pc [] reads writes

theorem Bolt.matrixUnits_rail {B : Bolt} {rw : PWord} (hrail : B.rail = some rw) (arrays : List Nat) :
    B.matrixUnits arrays = arrays.map .matrix ++ [.rail] := by
  simp [Bolt.matrixUnits, hrail]

theorem Bolt.issuedRail_issued {B : Bolt} {rw : PWord} (hrail : B.rail = some rw) (w : PWord) (latch : Option RankLatch)
    (reads writes : List (Nat × Nat)) : Issued B w ((arraysIn (matrixWord w).mask).map .matrix ++ [.rail])
      (wordHdr rw).setf.toList B.pc (B.issuedRail w latch reads writes) := by
  have h := (B.endChain (matrixWord w).mask latch).issueMatrix_issued w B.pc [] reads writes (matrixWord w).mask
  have hflags : flagsOf (B.rail.toList ++ []) = (wordHdr rw).setf.toList := by
    cases hset : (wordHdr rw).setf <;> simp [flagsOf, hrail, hset]
  rw [← B.matrixUnits_rail hrail, ← hflags]
  exact ⟨h.issued, h.queues, h.place⟩

section
variable {s : State} {b : Nat} {B : Bolt} {r : Run} {w rw : PWord} (h : Issues s b B r w 0 0) (hrail : B.rail = some rw)
  (hroom : B.room ((arraysIn (matrixWord w).mask).map .matrix ++ [.rail]) = true)
include h hrail hroom

/-- A plain MATRIX with its RAIL issues together with it (R209). -/
theorem execMatrixPlain_eq_forwardForm : exec (.matrixPlain b) s = forwardForm s b B r w B.pc
    (given (readTensor B.mem (B.view (matrixWord w).p) (matrixWord w).m (matrixWord w).k))
    (B.rowTags (B.view (matrixWord w).p) (matrixWord w).m (matrixWord w).k)
    ((B.view (matrixWord w).p).extents (B.view (matrixWord w).p).fmt (matrixWord w).m (matrixWord w).k ++
      qExtents (B.view (matrixWord w).q) (matrixWord w).k (matrixWord w).n) := by
  change execMatrixPlain b s = _
  rw [execMatrixPlain, h.word]
  exact if_neg (by rw [B.matrixUnits_rail hrail, hroom]; decide)

theorem execMatrixPlain_stopped {i : Nat} {st : Status} (hstop : s.sideFault r (railWord rw).layer (matrixWord w).n
    (s.slotSel r.base (railWord rw).layer (B.baseAt (B.view (matrixWord w).q).addr)) (railRows B (matrixWord w).m) = some (i, st)) :
    exec (.matrixPlain b) s = .next (s.haltRun r st i b) := by
  rw [execMatrixPlain_eq_forwardForm h hrail hroom]
  simp only [forwardForm, State.railStop, State.railSlot, hrail, Option.bind_some, hstop]

theorem execMatrixPlain_handsOff
    (hstop : s.sideFault r (railWord rw).layer (matrixWord w).n
      (s.slotSel r.base (railWord rw).layer (B.baseAt (B.view (matrixWord w).q).addr)) (railRows B (matrixWord w).m) = none)
    (hcont : (matrixWord w).cont = false) (hhold : (matrixWord w).hold = false) (hepi : (matrixWord w).epi = 0) :
    let k := matrixWord w
    let rl := railWord rw
    let rows := railRows B k.m
    let sel := s.slotSel r.base rl.layer (B.baseAt (B.view k.q).addr)
    let side := forwardSide B rl (s.layerFmt r.base rl.layer) (rows.map (s.sidePatch rl.layer))
      (given (readTensor B.mem (B.view k.p) k.m k.k)) 0 [] true
    let reads := (B.view k.p).extents (B.view k.p).fmt k.m k.k ++ qExtents (B.view k.q) k.k k.n
    let writes := (B.view k.out).extents (r.recipe k.kind).format k.m k.n
    outside (reads ++ writes) = none →
      exec (.matrixPlain b) s = .next (((s.setBolt b (B.issuedRail w side.latch reads writes)).updRun r.id fun q => { q with
          watch := Sys2Proof.Machine.seen q.watch 3 side.clamped }).handOff b r (B.view k.out)
        ⟨k.tag, k.kind, s.rotationOf r B (r.recipe k.kind) k.consEn k.consS, foldUnit (modeOf (B.view k.p).fmt (B.view k.q).fmt)
          (arraysIn k.mask) k.m k.n, selvagesOf rows, (B.rowTags (B.view k.p) k.m k.k).map fun l =>
          (l ++ B.tagsIn (qExtents (B.view k.q) k.k k.n)).eraseDups⟩ (List.range k.m) (s.railOut B k rl sel side.sums)) := by
  intro k rl rows sel side reads writes hin
  rw [execMatrixPlain_eq_forwardForm h hrail hroom]
  simp only [forwardForm, State.railStop, State.railSlot, heldFor, hcont, hhold, epilogueOf, hepi, hrail, hstop,
    Option.bind_some, Option.map_some, if_true, if_false, Bool.false_eq_true, Bool.not_false, List.getD_nil, List.append_nil,
    epilogueReads, List.flatMap_nil]
  have hdrawn := map_zipIdx_fst (B.rowTags (B.view (matrixWord w).p) (matrixWord w).m (matrixWord w).k)
    fun l => (l ++ B.tagsIn (qExtents (B.view (matrixWord w).q) (matrixWord w).k (matrixWord w).n)).eraseDups
  rw [hdrawn, within_inside hin, Bolt.issuedRail, Bolt.endChain, hrail]
  rfl

end

/-- The Q of a row, as the product of `State.railOut` picks it. -/
theorem State.getD_railQ (s : State) (B : Bolt) (k : MatrixWord) (rl : RailWord) (sel : Option Nat) (i : Nat) :
    ((((railRows B k.m).map fun row => (s.sideDarn rl.layer sel row).map (darnForward 0 k.k k.n)).getD i none).getD
      (qColumns B (B.view k.q) k.k k.n)) = s.railQ B k rl sel i := by
  have hmap := getD_map_default (railRows B k.m) (fun row => (s.sideDarn rl.layer sel row).map (darnForward 0 k.k k.n)) i none
  unfold State.railQ
  refine (congrArg (Option.getD · _) hmap).trans ?_
  cases s.sideDarn rl.layer sel ((railRows B k.m).getD i none) <;> rfl

theorem State.railQ_length (s : State) (B : Bolt) (k : MatrixWord) (rl : RailWord) (sel : Option Nat) (i : Nat) :
    (s.railQ B k rl sel i).length = k.n := by
  unfold State.railQ
  split
  · exact darnForward_length _ _ _ _
  · exact qColumns_length _ _ _ _

/-- Element (i, j) of the product that a row's own Q gives (R91, R135). -/
def State.railTally (s : State) (B : Bolt) (k : MatrixWord) (rl : RailWord) (sel : Option Nat) (i j : Nat) : Num :=
  (contractProducts none (fillPass (List.zipWith fillMul ((given (readTensor B.mem (B.view k.p) k.m k.k)).getD i [])
    ((s.railQ B k rl sel i).getD j [])))).getD zero

section
variable (s : State) (B : Bolt) (k : MatrixWord) (rl : RailWord) (sel : Option Nat) (sums : List (Option (List Num))) {i j : Nat}
  (hi : i < k.m) (hj : j < k.n)
include hi

/-- Row `i` of the output. -/
theorem State.railOut_getD : (s.railOut B k rl sel sums).getD i [] = addSide
    (productRow none ((given (readTensor B.mem (B.view k.p) k.m k.k)).getD i []) (s.railQ B k rl sel i)) (sums.getD i none) := by
  have hps : i < (given (readTensor B.mem (B.view k.p) k.m k.k)).length := by simpa [given, readTensor] using hi
  rw [← s.getD_railQ, ← productOwn_getD _ _ hps]
  simp [State.railOut, productOwn, hps]

include hj

/-- Rows without side sums hold the product. -/
theorem State.entry_railOut_none (hsum : sums.getD i none = none) :
    entry (s.railOut B k rl sel sums) i j = s.railTally B k rl sel i j := by
  rw [entry, s.railOut_getD B k rl sel sums hi, hsum]
  exact productRow_getD _ (by rwa [s.railQ_length])

/-- The other rows hold the product with the side sum as its last addend (R122). -/
theorem State.entry_railOut_some {a : List Num} (hsum : sums.getD i none = some a) (ha : j < a.length) :
    entry (s.railOut B k rl sel sums) i j = tallyAdd (s.railTally B k rl sel i j) (a.getD j zero) := by
  have hq : j < (s.railQ B k rl sel i).length := by rwa [s.railQ_length]
  rw [entry, s.railOut_getD B k rl sel sums hi, hsum, addSide_getD (by rwa [productRow_length]) ha, productRow_getD _ hq]
  rfl

end

/-! ### The addend of the side path -/

/-- The factor s of a row's patch. -/
def sideScale : Option (Patch × FactorPlace) → Num
  | some (p, _) => p.scale
  | none => zero

/-- The rank latch's rows as stage 1 leaves them (R119, R121): x × A times s. -/
def scaledRows (lf k0 : Nat) (sides : List (Option (Patch × FactorPlace))) (x : List (List (Option Num))) :
    List (List Num × Nat × Bool) :=
  (List.zip x sides).map fun e => latchRow lf ((stage1 e.1 k0 e.2 []).map fun v => toTally (v.mul (sideScale e.2)))

/-- A side path that takes no latch over and continues no chain. -/
theorem forwardSide_fresh (B : Bolt) {rl : RailWord} (hreuse : rl.reuse = false) (lf k0 : Nat)
    (sides : List (Option (Patch × FactorPlace))) (x : List (List (Option Num))) : forwardSide B rl lf sides x k0 [] true =
      { latch := some ⟨(scaledRows lf k0 sides x).map (·.1), (scaledRows lf k0 sides x).map (fun e => BitVec.ofNat 8 e.2.1),
          tokenOf B rl⟩
        acc := []
        sums := sides.zipIdx.map fun e => stage2 ((scaledRows lf k0 sides x).getD e.2 ([], 0, false)).1 e.1
        clamped := (scaledRows lf k0 sides x).any fun e => e.2.2 } := by
  have hrows : (List.zip x sides).zipIdx.map (fun e => latchRow lf ((stage1 e.1.1 k0 e.1.2 (([] : List (List Num)).getD e.2 [])).map
      fun v => toTally (v.mul (sideScale e.1.2)))) = scaledRows lf k0 sides x :=
    map_zipIdx_fst (List.zip x sides) fun e => latchRow lf ((stage1 e.1 k0 e.2 []).map fun v => toTally (v.mul (sideScale e.2)))
  rw [← hrows]
  simp only [forwardSide, hreuse, Bool.not_true, Bool.false_eq_true, if_false]
  rfl

section
variable (B : Bolt) {rl : RailWord} (hreuse : rl.reuse = false) (lf k0 : Nat) {sides : List (Option (Patch × FactorPlace))}
  {x : List (List (Option Num))} {i : Nat}
include hreuse

/-- A row without a patch that targets the layer gets no addend. -/
theorem forwardSide_none (h : sides[i]? = some none) : (forwardSide B rl lf sides x k0 [] true).sums.getD i none = none := by
  simp [forwardSide_fresh B hreuse, h, stage2]

variable (hlen : x.length = sides.length) {p : Patch} {f : FactorPlace} (h : sides[i]? = some (some (p, f)))
include hlen h

/-- A patch's row gets (s × (x × A)) × B under the latch's rounding (R119 to R122). -/
theorem forwardSide_some :
    let t := (List.range f.rs).map fun k =>
      (contractProducts none (List.zipWith fillMul (x.getD i []) ((rowA p f k).drop k0))).getD zero
    let latch := latchRow lf (t.map fun v => toTally (v.mul p.scale))
    let side := forwardSide B rl lf sides x k0 [] true
    side.sums.getD i none = some ((List.range f.n).map fun n => (contract none latch.1 (rowB p f n)).getD zero) ∧
      ∃ l, side.latch = some l ∧ l.rows.getD i [] = latch.1 := by
  intro t latch side
  have hx : i < x.length := hlen ▸ (List.getElem?_eq_some_iff.mp h).1
  have hrow : (scaledRows lf k0 sides x).getD i ([], 0, false) = latch := by
    have hzip : (List.zip x sides)[i]? = some (x.getD i [], some (p, f)) := by
      simp [List.getElem?_zip_eq_some, h, hx]
    rw [List.getD_eq_getElem?_getD, scaledRows, List.getElem?_map, hzip]
    rfl
  have hfresh : side = _ := forwardSide_fresh B hreuse lf k0 sides x
  rw [hfresh]
  refine ⟨?_, _, rfl, ?_⟩
  · simp only [List.getD_eq_getElem?_getD] at hrow ⊢
    simp [h, hrow, stage2]
  · have hmap := getD_map_default (scaledRows lf k0 sides x) (·.1) i ([], 0, false)
    exact hmap.trans (congrArg (·.1) hrow)

end

/-! ### RAIL words and their MATRIX -/

/-- Settles O32: RAIL words by `railStep`, the stops by `sideFault`, the outputs by the rows of `railOut`, the row checks by
the cases of `rowFault`, and the addend by the rows of `forwardSide`. -/
theorem railWords : Obligations.RailWords := by
  intro s b B r w
  refine ⟨fun c op hc h hroom => ?_, fun rw hrail h hroom => ⟨?_, ?_, ?_⟩, fun e => State.rowFault_reserved,
    fun e he => ⟨State.rowFault_tenant he, State.rowFault_unregistered he, ?_⟩, fun rl lf k0 sides x i hreuse hlen _ => ?_⟩
  · have hexec : exec c s = railStep op b s := by
      simp only [List.mem_cons, Prod.mk.injEq, List.not_mem_nil, or_false] at hc
      rcases hc with ⟨rfl, rfl⟩ | ⟨rfl, rfl⟩ <;> rfl
    exact ⟨_, hexec.trans (railStep_waits h hroom), railStep_completes h rfl⟩
  · exact fun i st hfault => execMatrixPlain_stopped h hrail hroom (State.sideFault_of_railFault hfault)
  · exact fun i hfault hslot => execMatrixPlain_stopped h hrail hroom (State.sideFault_of_slotFault hfault hslot)
  · intro es hfault hcont hhold hepi hin
    refine ⟨_, _, Bolt.issuedRail_issued hrail w _ _ _, Bolt.issueMatrix_mem .., Bolt.issueMatrix_rail ..,
      Bolt.issueMatrix_latch .., fun i hi j hj => ⟨?_, ?_⟩,
      execMatrixPlain_handsOff h hrail hroom hfault hcont hhold hepi hin⟩
    · exact s.entry_railOut_none B _ _ _ _ hi hj
    · exact fun a => s.entry_railOut_some B _ _ _ _ hi hj
  · intro p hpv hp hlost htenant
    have hrow := State.rowFault_registered (r := r) he hpv hp hlost
    refine ⟨fun hother => ?_, fun hsleeve hbase => ?_⟩
    · rw [hrow, if_neg (not_not_intro htenant), if_pos hother]
    · simp [hrow, htenant, hsleeve, hbase]
  · exact ⟨fun p f => forwardSide_some B hreuse lf k0 hlen, forwardSide_none B hreuse lf k0⟩

end Sys2Proof.Machine
end

section
/-! SUPPORT. Queue commands at their commit: a row that acts, what a completion leaves alone, and the commits of the tenant and
patch rows (R108 to R118, R140, R141, R435, R441, R443). -/
namespace Sys2Proof.Machine
open Sys2Proof

/-! ### A row that acts -/

/-- A row in order runs its commit on its run. -/
theorem State.commandRow_acts {s u : State} {h : QHdr} {b : QBody} {r : Run} (hacts : s.actsAs h b u r)
    (k : State → Run → State) : s.commandRow h b k = k u r := by
  obtain ⟨hrun, hrow, hpages⟩ := hacts
  simp only [State.commandRow, State.committing, hrun, hrow, hpages]

theorem State.onSleeve_found {s : State} {r : Run} {v : Sleeve} (h : s.hasSleeve (ownerNum r.hdr.owner) v) (k : Sleeve → State) :
    s.onSleeve r k = k v := by
  have hv : s.sleeve (ownerNum r.hdr.owner) = some v := h
  rw [State.onSleeve, hv]

/-! ### What a completion leaves alone -/

/-- A command that completes meets its dependents' wait, late or not (R52, R386). -/
theorem State.meetsPred_onTime (s : State) (r : Run) : meetsPred (s.onTime r) = true := by
  unfold State.onTime
  repeat' split
  all_goals rfl

@[simp] theorem State.updAccepted_patches (s : State) (o : Owner) (f : List Accepted → List Accepted) :
    (s.updAccepted o f).patches = s.patches := by cases o <;> rfl
@[simp] theorem State.updAccepted_tenants (s : State) (o : Owner) (f : List Accepted → List Accepted) :
    (s.updAccepted o f).tenants = s.tenants := by cases o <;> rfl
@[simp] theorem State.updAccepted_bolts (s : State) (o : Owner) (f : List Accepted → List Accepted) :
    (s.updAccepted o f).bolts = s.bolts := by cases o <;> rfl

@[simp] theorem State.done_patches (s : State) (r : Run) (d : Done) : (s.done r d).patches = s.patches := by
  simp [State.done, State.complete, State.releaseSent, State.meetsPred_onTime]
@[simp] theorem State.done_tenants (s : State) (r : Run) (d : Done) : (s.done r d).tenants = s.tenants := by
  simp [State.done, State.complete, State.releaseSent, State.meetsPred_onTime]
@[simp] theorem State.done_bolts (s : State) (r : Run) (d : Done) : (s.done r d).bolts = s.bolts := by
  simp [State.done, State.complete, State.releaseSent, State.meetsPred_onTime]

@[simp] theorem State.bolt_done (s : State) (r : Run) (d : Done) (b : Nat) : (s.done r d).bolt b = s.bolt b := by
  simp [State.bolt]

/-- A command that changes the patches and forgets areas leaves tenants and bolts. -/
theorem State.patches_done (s : State) (ps : List Patch) (areas : List Nat) (r : Run) (d : Done) :
    let t := (({ s with patches := ps } : State).forgetAreas areas).done r d
    t.patches = ps ∧ t.tenants = s.tenants ∧ ∀ b, t.bolt b = s.bolt b :=
  ⟨State.done_patches .., State.done_tenants .., fun _ => State.bolt_done ..⟩

/-! ### Bolts changed together -/

@[simp] theorem State.updBolts_patches (s : State) (l : List Nat) (f : Nat → Bolt → Bolt) :
    (s.updBolts l f).patches = s.patches := by
  refine foldl_keeps State.patches ?_ l s
  exact fun _ _ => rfl
@[simp] theorem State.updBolts_tenants (s : State) (l : List Nat) (f : Nat → Bolt → Bolt) :
    (s.updBolts l f).tenants = s.tenants := by
  refine foldl_keeps State.tenants ?_ l s
  exact fun _ _ => rfl

theorem State.bolt_updBolts_other {l : List Nat} {b : Nat} (h : b ∉ l) (s : State) (f : Nat → Bolt → Bolt) :
    (s.updBolts l f).bolt b = s.bolt b := by
  induction l generalizing s with
  | nil => rfl
  | cons x l ih =>
    obtain ⟨hx, hl⟩ := not_or.mp (mt List.mem_cons.mpr h)
    exact (ih hl _).trans (s.bolt_updBolt_other x b _ hx)

theorem State.bolt_updBolts_mem {l : List Nat} (hl : l.Nodup) {b : Nat} (h : b ∈ l) (s : State) (f : Nat → Bolt → Bolt) :
    (s.updBolts l f).bolt b = f b (s.bolt b) := by
  induction l generalizing s with
  | nil => exact absurd h List.not_mem_nil
  | cons x l ih =>
    obtain ⟨hx, hl⟩ := List.nodup_cons.mp hl
    rcases List.mem_cons.mp h with rfl | hb
    · exact (State.bolt_updBolts_other hx _ f).trans (s.bolt_updBolt_same b _)
    · have hne : b ≠ x := fun hbx => hx (hbx ▸ hb)
      exact (ih hl hb _).trans (congrArg (f b) (s.bolt_updBolt_other x b _ hne))

/-! ### Patches -/

/-- A new handle is one that nobody holds. -/
theorem freeHandle_unused (used : List Nat) (pick : Nat) : freeHandle used pick ∉ used := by
  unfold freeHandle
  dsimp only
  split
  · obtain ⟨i, hi, hfree⟩ := exists_unused 0 _ used (Nat.lt_succ_self _)
    rw [Nat.zero_add] at hfree
    cases hfind : (List.range (used.length + 1)).find? fun h => !used.contains h with
    | none => exact absurd (List.find?_eq_none.mp hfind i (List.mem_range.mpr hi)) (by simpa using hfree)
    | some j => simpa using List.find?_some hfind
  · rename_i hpick
    simpa using hpick

/-- A patch without the state that its elements hold. -/
def Patch.label (p : Patch) : Patch := { p with copy := [], face := [], lining := [], mom1 := [], mom2 := [] }

theorem State.fillPatch_label (s : State) (p : Patch) (plain : List Byte) (scales : List (BitVec 8)) (f1 f2 : Nat) :
    (s.fillPatch p plain scales f1 f2).label = { p with plain := plain }.label := by
  unfold State.fillPatch
  dsimp only
  split <;> rfl

/-- A bolt without the pockets of a patch (R140). -/
def Bolt.sansPockets (b : Bolt) (n : Nat) : Bolt := { b with pockets := b.pockets.filter fun k => k.2.patch != n }

/-- The patch that a lookup finds is one of the sleeve's own, where it is registered and the sleeve's. -/
theorem State.ownPatch_of_patch {s : State} {v : Sleeve} {n : Nat} {p : Patch} (hp : s.patch n = some p) (hv : p.sleeve = v.id)
    (hlost : p.lost = false) : (s.ownPatch v n).isSome = true := by
  rw [State.ownPatch, List.find?_isSome]
  have hn : p.handle = n := by simpa using List.find?_some hp
  exact ⟨p, List.mem_of_find?_eq_some hp, by simp [hn, hv, hlost]⟩

/-- The patch of a descriptor under a free handle, its region sized for the plaintext given (R109, R118). -/
def State.plannedPatch (u : State) (r : Run) (v : Sleeve) (d : PatchDesc) (i : SealedImage) : Patch :=
  let fmt (k : Nat) : Nat := (r.recipe k).format
  let ts := u.tensors (blankPatch d v r.base)
  let second := d.train && decide (i.plain.length ≠ plainLength ts d.train false (fmt 4) (fmt 5))
  { blankPatch d v r.base with
    handle := freeHandle ((u.patches.filter fun p => !p.lost).map (·.handle)) (Config.handlePick u.freeCtr)
    hasMom2 := second, bytes := regionBytes ts d.train second (fmt 4) (fmt 5) (fmt 3) }

/-- The patch that REG_PATCH makes of a descriptor and its image (R441). -/
def State.newPatch (u : State) (r : Run) (v : Sleeve) (d : PatchDesc) (i : SealedImage) : Patch :=
  u.fillPatch (u.plannedPatch r v d i) i.plain i.scales (r.recipe 4).format (r.recipe 5).format

theorem State.newPatch_label (u : State) (r : Run) (v : Sleeve) (d : PatchDesc) (i : SealedImage) :
    (u.newPatch r v d i).label = { u.plannedPatch r v d i with plain := i.plain }.label := u.fillPatch_label _ _ _ _ _

@[simp] theorem State.newPatch_handle (u : State) (r : Run) (v : Sleeve) (d : PatchDesc) (i : SealedImage) :
    (u.newPatch r v d i).handle = (u.plannedPatch r v d i).handle := (congrArg Patch.handle (u.newPatch_label r v d i) :)
@[simp] theorem State.newPatch_bytes (u : State) (r : Run) (v : Sleeve) (d : PatchDesc) (i : SealedImage) :
    (u.newPatch r v d i).bytes = (u.plannedPatch r v d i).bytes := (congrArg Patch.bytes (u.newPatch_label r v d i) :)

/-- No registered patch has the handle. -/
theorem State.newPatch_unused (u : State) (r : Run) (v : Sleeve) (d : PatchDesc) (i : SealedImage) {q : Patch}
    (hq : q ∈ u.patches) (hlost : q.lost = false) : q.handle ≠ (u.newPatch r v d i).handle := by
  rw [u.newPatch_handle]
  intro heq
  refine freeHandle_unused ((u.patches.filter fun p => !p.lost).map (·.handle)) (Config.handlePick u.freeCtr) ?_
  rw [List.mem_map]
  exact ⟨q, by simp [hq, hlost], heq⟩

/-- The identity of the next image exported (R443, log entry 20). -/
def State.imageId (u : State) : BitVec 128 := BitVec.ofNat 128 ((Config.randomId u.freeCtr).toNat % 2 ^ 64)

/-- A sealed image begins with its version and its tenant (R441). -/
theorem sealedBytes_tag (f tenant : Nat) (imageId : BitVec 128) (plain : List Byte) :
    (sealedBytes f tenant imageId plain).take 4 = leBytes 2 1 ++ leBytes 2 tenant := by
  simp only [sealedBytes, List.append_assoc]
  rw [← List.append_assoc]
  exact List.take_left' (by simp [leBytes])

theorem sealedBytes_ne_nil (f tenant : Nat) (imageId : BitVec 128) (plain : List Byte) :
    sealedBytes f tenant imageId plain ≠ [] := by
  simp [sealedBytes]

/-- Bytes delivered to a sleeve's device memory stand there under tag 0 (R192). -/
theorem State.deliver_device {s : State} {n : Nat} {v : Sleeve} (hv : s.hasSleeve n v) (wins : List Window) {a : Addr}
    (ha : a.space = 1) {bytes : List Byte} (hne : bytes ≠ []) : ∃ w, (s.deliver wins n a bytes).1.hasSleeve n w ∧
      w.mem = memWrite v.mem a.addr bytes ∧ w.tags = (linesOf a.addr bytes.length).foldl (fun t l => put 0 t l 0) v.tags := by
  rw [State.deliver, if_neg hne, if_pos ha]
  exact ⟨_, State.hasSleeve_updSleeve_same (fun _ => rfl) hv, rfl, rfl⟩

/-! ### The commits -/

section
variable {s u : State} {h : QHdr} {r : Run} {v : Sleeve} (hv : u.hasSleeve (ownerNum r.hdr.owner) v)
include hv

theorem exec_regTenant {n key : Nat} (hacts : s.actsAs h (.regTenant n key) u r) (hnew : ∀ x ∈ u.tenants, x.num ≠ n)
    (hroom : u.tenants.length < 65535) (hkey : (u.keyOf key 0 v.id).isSome = true) (hent : u.sec.entropyFailing = false) :
    exec (.regTenant h n key) s = .next (({ (u.newKeySet (tenantOwner n)).2 with
      tenants := u.tenants ++ [⟨n, v.id, key, (u.newKeySet (tenantOwner n)).1⟩] } : State).done r {}) := by
  have hnone : (u.tenants.any fun x => x.num == n) = false := by simpa using hnew
  change execRegTenant h n key s = _
  rw [execRegTenant, State.commandRow_acts hacts, State.commitRegTenant, State.onSleeve_found hv]
  simp only [hnone, Nat.not_le.mpr hroom, Option.isNone_eq_false_iff.mpr hkey, hent, Bool.false_eq_true, if_false]
  rfl

theorem exec_deregTenant {n : Nat} {x : Tenant} (hacts : s.actsAs h (.deregTenant n) u r)
    (hx : u.tenants.find? (fun x => x.num == n && x.sleeve == v.id) = some x)
    (hgone : ∀ p ∈ u.patches, p.tenant = n → p.lost = true) :
    exec (.deregTenant h n) s = .next ((({ u with
      tenants := u.tenants.filter fun y => y.num != n
      patches := u.patches.filter fun p => p.tenant != n
      sec := { u.sec with keys := u.sec.keys.filter fun k => !(k.kind == 0 && k.handle == x.key) } } : State).forgetAreas
        ((u.patches.filter fun p => p.tenant == n).map fun p => patchArea p.handle)).done r {}) := by
  have hnone : (u.patches.any fun p => p.tenant == n && !p.lost) = false := by simpa using hgone
  change execDeregTenant h n s = _
  rw [execDeregTenant, State.commandRow_acts hacts, State.commitDeregTenant, State.onSleeve_found hv, hx]
  exact congrArg _ (if_neg (ne_true_of_eq_false hnone))

theorem exec_deregPatch {n : Nat} (hacts : s.actsAs h (.deregPatch n) u r) (hown : (u.ownPatch v n).isSome = true)
    (hfree : (u.otherRun r fun q => q.patches.contains n) = false) :
    exec (.deregPatch h n) s = .next ((({ u.updBolts (List.range 16) (fun _ b => b.sansPockets n) with
      patches := u.patches.filter fun p => p.handle != n } : State).forgetAreas [patchArea n]).done r {}) := by
  rw [← u.updBolts_patches (List.range 16) fun _ b => b.sansPockets n]
  change execDeregPatch h n s = _
  rw [execDeregPatch, State.commandRow_acts hacts, State.commitDeregPatch, State.onSleeve_found hv]
  simp only [Option.isNone_eq_false_iff.mpr hown, hfree, Bool.false_eq_true, if_false]
  rfl

/-- REG_PATCH of an image in order, by a tenant of the sleeve, with room for the patch (R109, R118, R441). -/
theorem exec_regPatch {d : PatchDesc} {i : SealedImage} (hacts : s.actsAs h (.regPatch d i) u r)
    (htenant : (u.tenants.any fun t => t.num == d.tenant && t.sleeve == v.id) = true) (hbase : d.base ≠ 0)
    (hbaseOk : u.baseOk d.base r.base = true) (hlayers : u.layersOk r.base d.layers = true)
    (hdarns : u.darnsOk (blankPatch d v r.base) = true)
    (himage : let fmt (k : Nat) : Nat := (r.recipe k).format
      let ts := u.tensors (blankPatch d v r.base)
      let n := plainLength ts d.train false (fmt 4) (fmt 5)
      imageOk d i n (plainLength ts d.train true (fmt 4) (fmt 5)) = true ∧
      pages (regionBytes ts d.train (d.train && decide (i.plain.length ≠ n)) (fmt 4) (fmt 5) (fmt 3)) ≤ u.pagesLeft v)
    (hroom : (u.patches.filter fun p => !p.lost).length < 65536) :
    exec (.regPatch h d i) s = .next ((({ u with
      freeCtr := u.freeCtr + 1
      patches := u.patches.filter (fun q => q.handle != (u.newPatch r v d i).handle) ++ [u.newPatch r v d i] } : State).unsettle
        (stateLines (u.newPatch r v d i).handle (u.newPatch r v d i).bytes)).done r { handle := (u.newPatch r v d i).handle }) := by
  obtain ⟨himage, hpages⟩ := himage
  rw [u.newPatch_handle, u.newPatch_bytes]
  change execRegPatch h d i s = _
  rw [execRegPatch, State.commandRow_acts hacts, State.commitRegPatch, State.onSleeve_found hv]
  unfold blankPatch at hdarns himage hpages
  simp only [htenant, hbase, hbaseOk, hlayers, hdarns, himage, Nat.not_le.mpr hroom, Nat.not_lt.mpr hpages, Bool.not_true,
    Bool.true_eq_false, Bool.false_eq_true, or_self, if_false]
  rfl

variable {n len : Nat} {p : Patch} {dest : Addr} (hacts : s.actsAs h (.exportPatch n dest len) u r) (hp : u.patch n = some p)
  (hown : p.sleeve = v.id) (hlost : p.lost = false)
  (hdest : u.destFault r.hdr.owner dest len (imageBytes p.plain.length) = none) (hent : u.sec.entropyFailing = false)
include hacts hp hown hlost hdest hent

/-- EXPORT_PATCH into a host window: the sealed image is a host write of the command (R443). -/
theorem exec_exportPatch_host {w : Window} (hspace : dest.space = 2)
    (hw : (u.winsOf r).find? (fun w => w.id == (windowOf dest.addr).1) = some w) :
    exec (.exportPatch h n dest len) s = .next (({ u with freeCtr := u.freeCtr + 1 } : State).done r
      { writes := [.sealedImage w.pasid (w.base + (windowOf dest.addr).2) p.tenant u.imageId p.plain] }) := by
  obtain ⟨q, hq⟩ := Option.isSome_iff_exists.mp (State.ownPatch_of_patch hp hown hlost)
  have hfind : u.patches.find? (fun p => p.handle == n) = some p := hp
  change execExportPatch h n dest len s = _
  rw [execExportPatch, State.commandRow_acts hacts, State.commitExportPatch, State.onSleeve_found hv]
  simp only [hq, hfind, hdest, hent, hspace, hw, Bool.false_eq_true, if_false, if_true]
  rfl

/-- EXPORT_PATCH into device memory: the sealed image's bytes are delivered there (R443). -/
theorem exec_exportPatch_device (hspace : dest.space = 1) :
    exec (.exportPatch h n dest len) s = .next ((({ u with freeCtr := u.freeCtr + 1 } : State).deliver (u.winsOf r) v.id dest
      (sealedBytes u.freeCtr p.tenant u.imageId p.plain)).1.done r {}) := by
  obtain ⟨q, hq⟩ := Option.isSome_iff_exists.mp (State.ownPatch_of_patch hp hown hlost)
  have hfind : u.patches.find? (fun p => p.handle == n) = some p := hp
  have hdev : ¬ dest.space = 2 := by simp [hspace]
  change execExportPatch h n dest len s = _
  rw [execExportPatch, State.commandRow_acts hacts, State.commitExportPatch, State.onSleeve_found hv]
  simp only [hq, hfind, hdest, hent, hdev, Bool.false_eq_true, if_false]
  rfl

end

/-- Settles O17: each row is its commit's lemma; the frame of DEREG_PATCH is what `updBolts` and a completion leave alone. -/
theorem tenantAndPatchCommands : Obligations.TenantAndPatchCommands := by
  intro s u h r v hv
  refine ⟨?_, ?_, ?_, ?_, ?_, ?_⟩
  · exact fun n key hacts hnew hroom hkey hent => exec_regTenant hv hacts hnew hroom hkey hent
  · exact fun n x hacts hx hgone => exec_deregTenant hv hacts hx hgone
  · intro d i hacts htenant hbase hbaseOk hlayers hdarns himage hroom
    have hlabel := u.newPatch_label r v d i
    exact ⟨u.newPatch r v d i, exec_regPatch hv hacts htenant hbase hbaseOk hlayers hdarns himage hroom,
      fun q => u.newPatch_unused r v d i, (congrArg Patch.tenant hlabel :), (congrArg Patch.sleeve hlabel :),
      (congrArg Patch.base hlabel :), (congrArg Patch.rank hlabel :), (congrArg Patch.layers hlabel :),
      (congrArg Patch.darns hlabel :), (congrArg Patch.train hlabel :), (congrArg Patch.version hlabel :),
      (congrArg Patch.lost hlabel :), (congrArg Patch.plain hlabel :)⟩
  · intro n hacts hown hfree
    obtain ⟨hpatches, htenants, hbolts⟩ := (u.updBolts (List.range 16) fun _ b => b.sansPockets n).patches_done
      (u.patches.filter fun p => p.handle != n) [patchArea n] r {}
    refine ⟨_, exec_deregPatch hv hacts hown hfree, hpatches, htenants.trans (State.updBolts_tenants ..), fun b hb => ?_⟩
    rw [hbolts, State.bolt_updBolts_mem List.nodup_range (List.mem_range.mpr hb)]
    exact ⟨rfl, rfl⟩
  · intro n p w dest len hacts hp hown hlost hspace hdest hent hw
    exact ⟨_, exec_exportPatch_host hv hacts hp hown hlost hdest hent hspace hw⟩
  · intro n p dest len hacts hp hown hlost hspace hdest hent
    refine ⟨_, sealedBytes_tag u.freeCtr p.tenant u.imageId p.plain,
      exec_exportPatch_device hv hacts hp hown hlost hdest hent hspace, ?_⟩
    have hid : ({ u with freeCtr := u.freeCtr + 1 } : State).hasSleeve v.id v := by
      rw [State.hasSleeve_id hv]
      exact hv
    exact State.deliver_device hid _ hspace (sealedBytes_ne_nil _ _ _ _)

end Sys2Proof.Machine
end

section
/-! SUPPORT. The lossless packing (R153, R156, R157): bit fields in bytes and back, a group's mask and shared exponent, one group,
a row of groups, and the row's payload. -/
namespace Sys2Proof.Machine
open Sys2Proof

/-! ### Little-endian bytes (R11) -/

@[simp] theorem length_leBytes (n v : Nat) : (leBytes n v).length = n := by simp [leBytes]

theorem leBytes_succ (n v : Nat) : leBytes (n + 1) v = BitVec.ofNat 8 v :: leBytes n (v / 256) := by
  have hshift (i : Nat) : v / 2 ^ (8 * (i + 1)) = v / 256 / 2 ^ (8 * i) := by
    rw [Nat.div_div_eq_div_mul, Nat.mul_succ, Nat.add_comm, Nat.pow_add]
  simp [leBytes, List.range_succ_eq_map, hshift]

/-- Bytes written little-endian read back as the number they hold, below whatever follows them. -/
theorem leNat_leBytes_append {n v : Nat} (hv : v < 256 ^ n) (rest : List Byte) :
    leNat (leBytes n v ++ rest) = v + 256 ^ n * leNat rest := by
  induction n generalizing v with
  | zero =>
    obtain rfl : v = 0 := by simpa using hv
    simp [leBytes]
  | succ n ih =>
    have hhigh : v / 256 < 256 ^ n := Nat.div_lt_of_lt_mul (by rwa [Nat.pow_succ'] at hv)
    have hcons (b : Byte) (l : List Byte) : leNat (b :: l) = leNat l * 256 + b.toNat := rfl
    calc leNat (leBytes (n + 1) v ++ rest)
        = (v / 256 + 256 ^ n * leNat rest) * 256 + v % 256 := by
          rw [leBytes_succ, List.cons_append, hcons, ih hhigh, BitVec.toNat_ofNat]
      _ = (v / 256 * 256 + v % 256) + 256 ^ (n + 1) * leNat rest := by
          rw [Nat.add_mul, Nat.add_right_comm, Nat.pow_succ, Nat.mul_right_comm]
      _ = v + 256 ^ (n + 1) * leNat rest := by rw [Nat.div_add_mod']

theorem leNat_leBytes {n v : Nat} (hv : v < 256 ^ n) : leNat (leBytes n v) = v := by
  simpa [leNat] using leNat_leBytes_append hv []

theorem fieldOf_leBytes_append {n v : Nat} (hv : v < 256 ^ n) (rest : List Byte) :
    fieldOf (leBytes n v ++ rest) 0 n = v := by
  rw [fieldOf, List.drop_zero, List.take_left' (length_leBytes n v), leNat_leBytes hv]

/-! ### Fields of equal width (R59) -/

/-- The number whose base `2 ^ w` digits are the elements. -/
def fieldsNat (w : Nat) (l : List Nat) : Nat := l.foldr (fun x acc => acc * 2 ^ w + x % 2 ^ w) 0

/-- The first `n` fields of `w` bits of a number. -/
def fieldsOf (w n big : Nat) : List Nat := (List.range n).map fun i => big / 2 ^ (w * i) % 2 ^ w

theorem packFields_eq (w : Nat) (l : List Nat) : packFields w l = leBytes ((w * l.length + 7) / 8) (fieldsNat w l) := rfl

/-- A row is packed like a group's fields. -/
theorem packRow_eq (f : Nat) (l : List Nat) : packRow f l = packFields (fmtWidth f) l := by
  rw [packFields_eq, Nat.mul_comm]
  rfl

theorem unpackRow_eq (f n : Nat) (row : List Byte) : unpackRow f n row = fieldsOf (fmtWidth f) n (leNat row) := rfl

theorem length_packFields (w : Nat) (l : List Nat) : (packFields w l).length = (w * l.length + 7) / 8 := by
  rw [packFields_eq, length_leBytes]

theorem fieldsNat_lt (w : Nat) (l : List Nat) : fieldsNat w l < 2 ^ (w * l.length) := by
  induction l with
  | nil => simp [fieldsNat]
  | cons x l ih =>
    have hx : x % 2 ^ w < 2 ^ w := Nat.mod_lt _ (Nat.two_pow_pos w)
    calc fieldsNat w l * 2 ^ w + x % 2 ^ w
        < (fieldsNat w l + 1) * 2 ^ w := by rw [Nat.succ_mul]; omega
      _ ≤ 2 ^ (w * l.length) * 2 ^ w := Nat.mul_le_mul_right _ ih
      _ = 2 ^ (w * (x :: l).length) := by rw [← Nat.pow_add, List.length_cons, Nat.mul_succ]

/-- The fields are read back whatever stands above them. -/
theorem fieldsOf_fieldsNat {w : Nat} {l : List Nat} (hl : ∀ x ∈ l, x < 2 ^ w) (high : Nat) :
    fieldsOf w l.length (fieldsNat w l + 2 ^ (w * l.length) * high) = l := by
  induction l with
  | nil => rfl
  | cons x l ih =>
    obtain ⟨hx, hl⟩ := List.forall_mem_cons.mp hl
    have hnum : fieldsNat w (x :: l) + 2 ^ (w * (x :: l).length) * high =
        x + 2 ^ w * (fieldsNat w l + 2 ^ (w * l.length) * high) := by
      simp only [fieldsNat, List.foldr_cons, List.length_cons, Nat.mod_eq_of_lt hx, Nat.mul_succ, Nat.pow_add]
      rw [Nat.mul_comm (2 ^ w), Nat.add_mul, Nat.mul_right_comm, Nat.add_comm _ x, Nat.add_assoc]
    have hhead (big : Nat) : (x + 2 ^ w * big) % 2 ^ w = x := by
      rw [Nat.add_mul_mod_self_left, Nat.mod_eq_of_lt hx]
    have hrest (big i : Nat) : (x + 2 ^ w * big) / 2 ^ (w * (i + 1)) = big / 2 ^ (w * i) := by
      rw [Nat.mul_succ, Nat.add_comm (w * i), Nat.pow_add, ← Nat.div_div_eq_div_mul,
        Nat.add_mul_div_left _ _ (Nat.two_pow_pos w), Nat.div_eq_of_lt hx, Nat.zero_add]
    have ih := ih hl
    rw [fieldsOf] at ih
    rw [hnum, fieldsOf, List.length_cons, List.range_succ_eq_map, List.map_cons, List.map_map]
    simp only [Nat.mul_zero, Nat.pow_zero, Nat.div_one, hhead, Function.comp_def, Nat.succ_eq_add_one, hrest, ih]

/-- Packed fields are read back, below whatever follows their last byte. -/
theorem fieldsOf_packFields {w : Nat} {l : List Nat} (hl : ∀ x ∈ l, x < 2 ^ w) (rest : List Byte) :
    fieldsOf w l.length (leNat (packFields w l ++ rest)) = l := by
  let bytes := (w * l.length + 7) / 8
  have hpow : 256 ^ bytes = 2 ^ (w * l.length) * 2 ^ (8 * bytes - w * l.length) := by
    rw [← Nat.pow_add, show w * l.length + (8 * bytes - w * l.length) = 8 * bytes by omega, Nat.pow_mul]
  have hfits : fieldsNat w l < 256 ^ bytes :=
    hpow ▸ Nat.lt_of_lt_of_le (fieldsNat_lt w l) (Nat.le_mul_of_pos_right _ (Nat.two_pow_pos _))
  rw [packFields_eq, leNat_leBytes_append hfits, hpow, Nat.mul_assoc]
  exact fieldsOf_fieldsNat hl _

/-- A packed row is read back. -/
theorem unpackRow_packRow {f : Nat} {l : List Nat} (hl : ∀ x ∈ l, x < 2 ^ fmtWidth f) (rest : List Byte) :
    unpackRow f l.length (packRow f l ++ rest) = l := by
  rw [unpackRow_eq, packRow_eq, fieldsOf_packFields hl]

theorem length_packRow (f : Nat) (l : List Nat) : (packRow f l).length = rowBytes f l.length := by
  rw [packRow_eq, length_packFields, Nat.mul_comm, rowBytes]

/-! ### The mask of present elements (R156) -/

/-- The present elements of a group: those that are not +0. -/
def presentOf (g : List Nat) : List Nat := g.filter (· != 0)

/-- Bit j is set where element j is present. -/
def maskOf : List Nat → Nat
  | [] => 0
  | x :: g => (if x = 0 then 0 else 1) + 2 * maskOf g

theorem presentOf_length_le (g : List Nat) : (presentOf g).length ≤ g.length := List.length_filter_le ..

theorem presentOf_eq_self {g : List Nat} (h : (presentOf g).length = g.length) : presentOf g = g :=
  List.filter_sublist.eq_of_length h

theorem maskOf_lt (g : List Nat) : maskOf g < 2 ^ g.length := by
  induction g with
  | nil => simp [maskOf]
  | cons x g ih =>
    rw [maskOf, List.length_cons, Nat.pow_succ']
    split <;> omega

/-- A full group has every bit of the mask. -/
theorem maskOf_full {g : List Nat} (hfull : presentOf g = g) : maskOf g = 2 ^ g.length - 1 := by
  have hne : ∀ x ∈ g, x ≠ 0 := by simpa [presentOf] using hfull
  clear hfull
  induction g with
  | nil => rfl
  | cons x g ih =>
    obtain ⟨hx, hg⟩ := List.forall_mem_cons.mp hne
    have hpos : 0 < 2 ^ g.length := Nat.two_pow_pos _
    rw [maskOf, ih hg, if_neg hx, List.length_cons, Nat.pow_succ']
    omega

theorem sumOf_eq_sum (l : List Nat) : sumOf l = l.sum := List.sum_eq_foldl_nat.symm

/-- The mask as the packing writes it down, from element `k` on. -/
theorem sumOf_mask (g : List Nat) (k : Nat) :
    sumOf ((g.zipIdx k).map fun e => if e.1 = 0 then 0 else 2 ^ e.2) = 2 ^ k * maskOf g := by
  rw [sumOf_eq_sum]
  induction g generalizing k with
  | nil => rfl
  | cons x g ih =>
    rw [List.zipIdx_cons, List.map_cons, List.sum_cons, ih, maskOf]
    split
    · rw [Nat.pow_succ, Nat.mul_assoc, Nat.zero_add, Nat.zero_add]
    · rw [Nat.pow_succ, Nat.mul_assoc, Nat.mul_add, Nat.mul_one]

theorem bitOf_maskOf_zero (x : Nat) (g : List Nat) : bitOf (maskOf (x :: g)) 0 = (x != 0) := by
  by_cases hx : x = 0 <;> simp [bitOf, maskOf, hx]

theorem bitOf_maskOf_succ (x : Nat) (g : List Nat) (i : Nat) : bitOf (maskOf (x :: g)) (i + 1) = bitOf (maskOf g) i := by
  have hhalf : maskOf (x :: g) / 2 = maskOf g := by
    rw [maskOf]
    split <;> omega
  rw [bitOf, bitOf, Nat.pow_succ', ← Nat.div_div_eq_div_mul, hhalf]

/-- The mask has a bit for each present element. -/
theorem count_maskOf (g : List Nat) :
    ((List.range g.length).filter fun i => bitOf (maskOf g) i).length = (presentOf g).length := by
  induction g with
  | nil => rfl
  | cons x g ih =>
    rw [List.length_cons, List.range_succ_eq_map, List.filter_cons, List.filter_map, bitOf_maskOf_zero, presentOf,
      List.filter_cons, ← presentOf]
    simp only [Function.comp_def, Nat.succ_eq_add_one, bitOf_maskOf_succ]
    split <;> simpa using ih

/-- Spreading reads from bit `i` on what spreading the shifted mask reads from bit 0 on. -/
theorem spread_shift (mask : Nat) (l : List Nat) (n i : Nat) : spread mask l n i = spread (mask / 2 ^ i) l n 0 := by
  induction n generalizing mask l i with
  | zero => rfl
  | succ n ih =>
    have hbit : bitOf mask i = bitOf (mask / 2 ^ i) 0 := by simp [bitOf]
    have hnext (k : List Nat) : spread mask k n (i + 1) = spread (mask / 2 ^ i) k n (0 + 1) := by
      rw [ih mask, ih (mask / 2 ^ i), Nat.div_div_eq_div_mul, ← Nat.pow_add, Nat.zero_add]
    rw [spread, spread, hbit, hnext, hnext]

/-- The present elements spread over their mask give the group back. -/
theorem spread_presentOf (g : List Nat) : spread (maskOf g) (presentOf g) g.length 0 = g := by
  induction g with
  | nil => rfl
  | cons x g ih =>
    have hhalf : maskOf (x :: g) / 2 ^ (0 + 1) = maskOf g := by
      rw [maskOf]
      split <;> omega
    rw [List.length_cons, spread, bitOf_maskOf_zero, spread_shift, spread_shift (i := 0 + 1), hhalf]
    by_cases hx : x = 0
    · subst hx
      simpa [presentOf] using ih
    · simpa [presentOf, hx] using ih

/-! ### The shared exponent (R156, R157) -/

/-- SHARED: the format has the form, and every present element has the exponent field of the first. -/
def sharesExp (f : Nat) (g : List Nat) : Bool :=
  (sharedWidth f).isSome && (presentOf g).all fun x => expField f x == expField f ((presentOf g).headD 0)

/-- Bits of a stored element. -/
def storedWidth (f : Nat) (shared : Bool) : Nat := if shared then (sharedWidth f).getD 0 else fmtWidth f

/-- The elements as they are stored. -/
def storedElems (f : Nat) (shared : Bool) (l : List Nat) : List Nat := if shared then l.map (dropExp f) else l

/-- The formats with a shared form are a sign, an exponent of at most 8 bits and a mantissa; the form keeps sign and mantissa. -/
theorem sharedWidth_layout {f k : Nat} (h : sharedWidth f = some k) :
    k = (layoutOf f).mb + 1 ∧ fmtWidth f = (layoutOf f).mb + (layoutOf f).eb + 1 ∧ (layoutOf f).eb ≤ 8 := by
  match f, h with
  | 0, h | 1, h | 2, h | 3, h =>
    cases h
    decide

theorem expField_lt {f k : Nat} (h : sharedWidth f = some k) (x : Nat) : expField f x < 256 := by
  obtain ⟨-, -, heb⟩ := sharedWidth_layout h
  exact Nat.lt_of_lt_of_le (Nat.mod_lt _ (Nat.two_pow_pos _)) (Nat.pow_le_pow_right (by decide) heb)

theorem dropExp_lt {f k : Nat} (h : sharedWidth f = some k) (x : Nat) : dropExp f x < 2 ^ k := by
  obtain ⟨rfl, -, -⟩ := sharedWidth_layout h
  have hmant : x % 2 ^ (layoutOf f).mb < 2 ^ (layoutOf f).mb := Nat.mod_lt _ (Nat.two_pow_pos _)
  have hsign : x / 2 ^ ((layoutOf f).mb + (layoutOf f).eb) % 2 * 2 ^ (layoutOf f).mb ≤ 1 * 2 ^ (layoutOf f).mb :=
    Nat.mul_le_mul_right _ (by omega)
  rw [dropExp, Nat.pow_succ]
  omega

/-- Sign and mantissa with the exponent field put back are the element. -/
theorem addExp_dropExp {f k x : Nat} (h : sharedWidth f = some k) (hx : x < 2 ^ fmtWidth f) :
    addExp f (expField f x) (dropExp f x) = x := by
  obtain ⟨-, hw, -⟩ := sharedWidth_layout h
  rw [hw, Nat.pow_succ, Nat.pow_add] at hx
  simp only [addExp, dropExp, expField]
  generalize hmb : 2 ^ (layoutOf f).mb = m at *
  generalize heb : 2 ^ (layoutOf f).eb = e at *
  have hm : 0 < m := hmb ▸ Nat.two_pow_pos _
  have hsign : x / (m * e) < 2 := Nat.div_lt_of_lt_mul hx
  rw [Nat.pow_add, hmb, heb, Nat.add_mul_mod_self_right, Nat.mod_mod, Nat.add_mul_div_right _ _ hm,
    Nat.div_eq_of_lt (Nat.mod_lt x hm), Nat.zero_add, Nat.mod_mod, Nat.mod_eq_of_lt hsign, ← Nat.div_div_eq_div_mul]
  calc x % m + x / m % e * m + x / m / e * (m * e)
      = x % m + (x / m % e + x / m / e * e) * m := by
        rw [Nat.add_mul, Nat.mul_assoc (x / m / e), Nat.mul_comm e m, Nat.add_assoc]
    _ = x := by rw [Nat.mod_add_div', Nat.mod_add_div']

theorem sharesExp_width {f : Nat} {g : List Nat} (h : sharesExp f g = true) : ∃ k, sharedWidth f = some k :=
  Option.isSome_iff_exists.mp (Bool.and_eq_true_iff.mp h).1

theorem sharesExp_expField {f : Nat} {g : List Nat} (h : sharesExp f g = true) :
    ∀ x ∈ presentOf g, expField f x = expField f ((presentOf g).headD 0) := by
  simpa using (Bool.and_eq_true_iff.mp h).2

theorem length_storedElems (f : Nat) (shared : Bool) (l : List Nat) : (storedElems f shared l).length = l.length := by
  cases shared with
  | false => rfl
  | true => exact List.length_map _

theorem packFields_stored (f : Nat) (shared : Bool) (l : List Nat) :
    packFields (storedWidth f shared) (storedElems f shared l) =
      if shared then packFields ((sharedWidth f).getD 0) (l.map (dropExp f)) else packFields (fmtWidth f) l := by
  cases shared <;> rfl

theorem storedElems_lt {f : Nat} {g : List Nat} (hg : ∀ x ∈ presentOf g, x < 2 ^ fmtWidth f) :
    ∀ x ∈ storedElems f (sharesExp f g) (presentOf g), x < 2 ^ storedWidth f (sharesExp f g) := by
  cases h : sharesExp f g with
  | false => exact hg
  | true =>
    obtain ⟨k, hk⟩ := sharesExp_width h
    simp only [storedElems, storedWidth, if_true, hk, Option.getD_some, List.forall_mem_map]
    exact fun x _ => dropExp_lt hk x

/-- What a reader makes of the stored elements: the present elements. -/
theorem storedElems_read {f : Nat} {g : List Nat} (hg : ∀ x ∈ presentOf g, x < 2 ^ fmtWidth f) :
    (if sharesExp f g then (storedElems f (sharesExp f g) (presentOf g)).map (addExp f (expField f ((presentOf g).headD 0)))
      else storedElems f (sharesExp f g) (presentOf g)) = presentOf g := by
  cases h : sharesExp f g with
  | false => rfl
  | true =>
    obtain ⟨k, hk⟩ := sharesExp_width h
    have hread : ∀ x ∈ presentOf g, addExp f (expField f ((presentOf g).headD 0)) (dropExp f x) = id x :=
      fun x hx => sharesExp_expField h x hx ▸ addExp_dropExp hk (hg x hx)
    simp only [storedElems, if_true, List.map_map]
    exact (List.map_congr_left hread).trans (List.map_id _)

/-! ### One group (R156) -/

/-- MODE of a group that is not all zero. -/
def modeByte (sparse shared : Bool) : Byte := BitVec.ofNat 8 ((if sparse then 1 else 0) + (if shared then 2 else 0))

theorem bitOf_modeByte (sparse shared : Bool) : bitOf (modeByte sparse shared).toNat 7 = false ∧
    bitOf (modeByte sparse shared).toNat 1 = shared ∧ bitOf (modeByte sparse shared).toNat 0 = sparse := by
  revert sparse shared
  decide

/-- A field of `n` bytes that a MODE bit selects. -/
def optField (on : Bool) (n v : Nat) : List Byte := if on then leBytes n v else []

theorem fieldOf_optField (on : Bool) {n v : Nat} (hv : on = true → v < 256 ^ n) (other : Nat) (rest : List Byte) :
    (if on then fieldOf (optField on n v ++ rest) 0 n else other) = if on then v else other := by
  cases on with
  | false => rfl
  | true => exact fieldOf_leBytes_append (hv rfl) rest

theorem drop_optField (on : Bool) (n v : Nat) (rest : List Byte) :
    (if on then (optField on n v ++ rest).drop n else optField on n v ++ rest) = rest := by
  cases on with
  | false => rfl
  | true => exact List.drop_left' (length_leBytes n v)

/-- The bytes of a group that is not all zero, from what they say. -/
def groupBytes (f : Nat) (sparse shared : Bool) (ex mask : Nat) (els : List Nat) : List Byte :=
  modeByte sparse shared :: (optField shared 1 ex ++ optField sparse 4 mask ++ packFields (storedWidth f shared) els)

/-- The reader of a group's elements, once MODE, the exponent and the mask are read. -/
def unpackFields (f : Nat) (shared : Bool) (mask ex : Nat) (l : List Byte) : List Nat × List Byte :=
  let n := ((List.range 32).filter fun i => bitOf mask i).length
  let bytes := (storedWidth f shared * n + 7) / 8
  let els := fieldsOf (storedWidth f shared) n (leNat (l.take bytes))
  (spread mask (if shared then els.map (addExp f ex) else els) 32 0, l.drop bytes)

theorem unpackFields_packFields {f mask : Nat} {shared : Bool} {els : List Nat}
    (hcount : ((List.range 32).filter fun i => bitOf mask i).length = els.length)
    (hels : ∀ x ∈ els, x < 2 ^ storedWidth f shared) (ex : Nat) (rest : List Byte) :
    unpackFields f shared mask ex (packFields (storedWidth f shared) els ++ rest) =
      (spread mask (if shared then els.map (addExp f ex) else els) 32 0, rest) := by
  have hread : fieldsOf (storedWidth f shared) els.length (leNat (packFields (storedWidth f shared) els)) = els := by
    simpa using fieldsOf_packFields hels []
  rw [unpackFields, hcount, List.take_left' (length_packFields ..), List.drop_left' (length_packFields ..), hread]

theorem unpackGroup_mode {f : Nat} {m : Byte} {rest : List Byte} (h : bitOf m.toNat 7 = false) :
    unpackGroup f (m :: rest) =
      let shared := bitOf m.toNat 1
      let sparse := bitOf m.toNat 0
      let r1 := if shared then rest.drop 1 else rest
      unpackFields f shared (if sparse then fieldOf r1 0 4 else 2 ^ 32 - 1) (if shared then fieldOf rest 0 1 else 0)
        (if sparse then r1.drop 4 else r1) := by
  rw [unpackGroup, h]
  rfl

theorem packGroup_allZero {f : Nat} {g : List Nat} (h : g.all (· == 0) = true) : packGroup f g = [0x80] := if_pos h

theorem packGroup_present {f : Nat} {g : List Nat} (h : g.all (· == 0) ≠ true) :
    packGroup f g = groupBytes f (decide ((presentOf g).length < g.length)) (sharesExp f g)
      (expField f ((presentOf g).headD 0)) (maskOf g) (storedElems f (sharesExp f g) (presentOf g)) := by
  have hmask : sumOf (g.zipIdx.map fun e => if e.1 = 0 then 0 else 2 ^ e.2) = maskOf g := by
    rw [sumOf_mask, Nat.pow_zero, Nat.one_mul]
  rw [packGroup, if_neg h, groupBytes, packFields_stored, ← hmask]
  rfl

/-- The reader takes a group's fields apart as they were written. -/
theorem unpackGroup_groupBytes {f ex mask : Nat} {sparse shared : Bool} {els : List Nat}
    (hex : shared = true → ex < 256 ^ 1) (hmask : mask < 256 ^ 4) (hdense : sparse = false → mask = 2 ^ 32 - 1)
    (hcount : ((List.range 32).filter fun i => bitOf mask i).length = els.length)
    (hels : ∀ x ∈ els, x < 2 ^ storedWidth f shared) (rest : List Byte) :
    unpackGroup f (groupBytes f sparse shared ex mask els ++ rest) =
      (spread mask (if shared then els.map (addExp f ex) else els) 32 0, rest) := by
  obtain ⟨hallZero, hshared, hsparse⟩ := bitOf_modeByte sparse shared
  have hmaskRead : (if sparse then mask else 2 ^ 32 - 1) = mask := by
    cases sparse with
    | false => exact (hdense rfl).symm
    | true => rfl
  rw [groupBytes, List.cons_append, unpackGroup_mode hallZero, hshared, hsparse, List.append_assoc, List.append_assoc]
  simp only [drop_optField, fieldOf_optField shared hex, fieldOf_optField sparse fun _ => hmask, hmaskRead]
  rw [unpackFields_packFields hcount hels]
  cases shared <;> rfl

/-- A packed group is read back (R156, R157). -/
theorem unpackGroup_packGroup {f : Nat} {g : List Nat} (hlen : g.length = 32) (hg : ∀ x ∈ g, x < 2 ^ fmtWidth f)
    (rest : List Byte) : unpackGroup f (packGroup f g ++ rest) = (g, rest) := by
  have hp : ∀ x ∈ presentOf g, x < 2 ^ fmtWidth f := fun x hx => hg x (List.mem_filter.mp hx).1
  by_cases hzero : g.all (· == 0) = true
  · have hrep : g = List.replicate 32 0 := List.eq_replicate_iff.mpr ⟨hlen, by simpa using hzero⟩
    rw [packGroup_allZero hzero, hrep]
    rfl
  · rw [packGroup_present hzero, unpackGroup_groupBytes, storedElems_read hp, ← hlen, spread_presentOf]
    case hex =>
      intro hshared
      obtain ⟨k, hk⟩ := sharesExp_width hshared
      exact expField_lt hk _
    case hmask => exact Nat.lt_of_lt_of_eq (maskOf_lt g) (congrArg (2 ^ ·) hlen)
    case hdense =>
      intro hsparse
      have hle : g.length ≤ (presentOf g).length := Nat.le_of_not_lt (of_decide_eq_false hsparse)
      exact hlen ▸ maskOf_full (presentOf_eq_self (Nat.le_antisymm (presentOf_length_le g) hle))
    case hcount => rw [length_storedElems, ← count_maskOf, hlen]
    case hels => exact storedElems_lt hp

/-! ### A row of groups (R153, R156) -/

theorem groups32_nil (n : Nat) : groups32 n [] = [] := by cases n <;> rfl

/-- Whole groups packed back to back are read back, and what follows them is left. -/
theorem unpackGroups_packed {f g : Nat} {bits : List Nat} (hlen : bits.length = 32 * g) (hbits : ∀ x ∈ bits, x < 2 ^ fmtWidth f)
    {n : Nat} (hn : g ≤ n) (rest : List Byte) :
    unpackGroups f g ((groups32 n bits).flatMap (packGroup f) ++ rest) = (bits, rest) := by
  induction g generalizing bits n with
  | zero =>
    obtain rfl : bits = [] := List.length_eq_zero_iff.mp hlen
    rw [groups32_nil]
    rfl
  | succ g ih =>
    obtain ⟨n, rfl⟩ : ∃ m, n = m + 1 := Nat.exists_eq_add_one.mpr (Nat.zero_lt_of_lt hn)
    have hne : bits.isEmpty = false := by
      cases bits with
      | nil => simp at hlen
      | cons => rfl
    have hfirst : (bits.take 32).length = 32 := by rw [List.length_take]; omega
    have hlater : (bits.drop 32).length = 32 * g := by rw [List.length_drop]; omega
    rw [groups32, hne, if_neg Bool.false_ne_true, List.flatMap_cons, List.append_assoc, unpackGroups]
    simp only [unpackGroup_packGroup hfirst fun x hx => hbits x (List.mem_of_mem_take hx),
      ih hlater (fun x hx => hbits x (List.mem_of_mem_drop hx)) (Nat.le_of_succ_le_succ hn), List.take_append_drop]

/-! ### The row's payload (R153, R157) -/

/-- The bytes of block scales (R54). -/
def scaleBytes (scales : List Nat) : List Byte := scales.map (BitVec.ofNat 8 ·)

@[simp] theorem length_scaleBytes (scales : List Nat) : (scaleBytes scales).length = scales.length := List.length_map _

theorem take_scaleBytes (scales : List Nat) : (scaleBytes scales).take scales.length = scaleBytes scales :=
  List.take_of_length_le (Nat.le_of_eq (length_scaleBytes scales))

theorem toNat_scaleBytes {scales : List Nat} (h : ∀ x ∈ scales, x < 256) : (scaleBytes scales).map (·.toNat) = scales := by
  have hbyte : ∀ x ∈ scales, (BitVec.ofNat 8 x).toNat = id x := fun x hx => Nat.mod_eq_of_lt (h x hx)
  rw [scaleBytes, List.map_map]
  exact (List.map_congr_left hbyte).trans (List.map_id _)

/-- A row stored raw, with its scales. -/
def rawPayload (f : Nat) (bits scales : List Nat) : List Byte := packRow f bits ++ scaleBytes scales

/-- A row's packed groups, with its scales. -/
def packedPayload (f : Nat) (bits scales : List Nat) : List Byte :=
  (groups32 (bits.length + 1) bits).flatMap (packGroup f) ++ scaleBytes scales

theorem length_rawPayload (f : Nat) (bits scales : List Nat) :
    (rawPayload f bits scales).length = (packRow f bits).length + scales.length := by
  rw [rawPayload, List.length_append, length_scaleBytes]

/-- What a row of a lossless frame is: packed, where that takes no more lines than raw, or raw and marked so (R157). -/
theorem makeRow_lossless {codec : Nat} (hc : codec = 1 ∨ codec = 3) (f : Nat) (sel : BitVec 16) (len : Nat)
    (bits scales : List Nat) :
    (makeRow codec f sel len bits scales = ⟨sel, len, false, packedPayload f bits scales⟩ ∧
      ceilDiv (packedPayload f bits scales).length 128 ≤ ceilDiv (rawPayload f bits scales).length 128) ∨
    makeRow codec f sel len bits scales = ⟨sel, len, true, rawPayload f bits scales⟩ := by
  by_cases hfits : ceilDiv (packedPayload f bits scales).length 128 ≤ ceilDiv (rawPayload f bits scales).length 128
  · exact .inl ⟨if_pos ⟨hc, hfits⟩, hfits⟩
  · refine .inr ((if_neg fun h => hfits h.2).trans ?_)
    rw [decide_eq_true hc]
    rfl

/-- Block scales of a row of `n` elements. -/
def scaleCount (f n : Nat) : Nat := if isMx f then n / 32 else 0

theorem openRow_of_packed {codec : Nat} (hc : codec = 1 ∨ codec = 3) (f n : Nat) (sel : BitVec 16) (len : Nat)
    (payload : List Byte) :
    openRow codec f n ⟨sel, len, false, payload⟩ = ((unpackGroups f (n / 32) payload).1,
      ((unpackGroups f (n / 32) payload).2.take (scaleCount f n)).map (·.toNat)) := if_pos ⟨hc, rfl⟩

theorem openRow_of_raw (codec f n : Nat) (sel : BitVec 16) (len : Nat) (payload : List Byte) :
    openRow codec f n ⟨sel, len, true, payload⟩ = (unpackRow f n payload,
      ((payload.drop (rowBytes f n)).take (scaleCount f n)).map (·.toNat)) := if_neg fun h => Bool.noConfusion h.2

section Row
variable {codec f g : Nat} {bits scales : List Nat} (hlen : bits.length = 32 * g) (hbits : ∀ x ∈ bits, x < 2 ^ fmtWidth f)
  (hscales : scales.length = scaleCount f (32 * g)) (hbytes : ∀ x ∈ scales, x < 256)
include hlen hbits hscales hbytes

theorem openRow_packed (hc : codec = 1 ∨ codec = 3) (sel : BitVec 16) (len : Nat) :
    openRow codec f (32 * g) ⟨sel, len, false, packedPayload f bits scales⟩ = (bits, scales) := by
  have hread : unpackGroups f (32 * g / 32) (packedPayload f bits scales) = (bits, scaleBytes scales) := by
    rw [Nat.mul_div_cancel_left g (by decide)]
    exact unpackGroups_packed hlen hbits (by omega) _
  rw [openRow_of_packed hc, hread, ← hscales, take_scaleBytes, toNat_scaleBytes hbytes]

theorem openRow_raw (sel : BitVec 16) (len : Nat) :
    openRow codec f (32 * g) ⟨sel, len, true, rawPayload f bits scales⟩ = (bits, scales) := by
  have hrow : unpackRow f (32 * g) (rawPayload f bits scales) = bits := hlen ▸ unpackRow_packRow hbits _
  have hdrop : (rawPayload f bits scales).drop (rowBytes f (32 * g)) = scaleBytes scales :=
    List.drop_left' (by rw [length_packRow, hlen])
  rw [openRow_of_raw, hrow, hdrop, ← hscales, take_scaleBytes, toNat_scaleBytes hbytes]

end Row

/-- Settles O36: a packed row reads back by its groups, a raw one by its fields, and the packed form is taken only where it
needs no more lines. -/
theorem losslessPackingRoundTrips : Obligations.LosslessPackingRoundTrips := by
  intro codec f g sel len bits scales hc _ hlen hbits hsc row
  have hscales : scales.length = scaleCount f (32 * g) ∧ ∀ x ∈ scales, x < 256 := by
    rw [scaleCount, Nat.mul_div_cancel_left g (by decide)]
    split at hsc
    next hmx => rwa [if_pos hmx]
    next hmx => rw [if_neg hmx, hsc]; exact ⟨rfl, List.forall_mem_nil _⟩
  obtain ⟨hcount, hbytes⟩ := hscales
  rw [← length_rawPayload]
  rcases makeRow_lossless hc f sel len bits scales with ⟨hrow, hfits⟩ | hrow
  · rw [show row = _ from hrow]
    exact ⟨openRow_packed hlen hbits hcount hbytes hc sel len, rfl, rfl, hfits⟩
  · rw [show row = _ from hrow]
    exact ⟨openRow_raw hlen hbits hcount hbytes sel len, rfl, rfl, Nat.le_refl _⟩

end Sys2Proof.Machine
end

section
/-! SUPPORT. Mappings and host windows (R246 to R248, R250): the leaves of a mapping, what a memory reads once pages are dropped, a
sleeve after a completion, and the commits of the mapping and window rows. -/
namespace Sys2Proof.Machine
open Sys2Proof

/-! ### What is left of a map -/

/-- A map without the entries of some keys reads the default there and as before elsewhere. -/
theorem look_filter {α : Type} (d : α) (m : Sparse α) (p : Nat → Bool) (k : Nat) :
    look d (m.filter fun e => p e.1) k = if p k then look d m k else d := by
  induction m with
  | nil => exact (ite_self d).symm
  | cons e m ih =>
    obtain ⟨i, v⟩ := e
    by_cases hik : i = k
    · subst hik
      cases hp : p i <;> simp [hp, ih, look]
    · cases hp : p i <;> simp [hp, ih, look, hik]

/-- A dropped page's bytes read 0; every other byte stays (R246). -/
theorem Sleeve.memGet_dropLeaves (v : Sleeve) (gone : List Leaf) (a : Nat) :
    memGet (v.dropLeaves gone).mem a = if inLeaves gone a then 0 else memGet v.mem a := by
  refine (look_filter blankByte v.mem (fun k => !inLeaves gone k) a).trans ?_
  cases inLeaves gone a <;> rfl

/-! ### The leaves of a mapping -/

/-- The leaves lie one page after another from the mapping's start (R246). -/
theorem newLeaves_dva (v : Sleeve) (pick : BitVec 25) (base len page : Nat) (w : Bool) (node : Nat) :
    (newLeaves v pick base len page w node).map (·.dva) =
      (List.range (len / pageBytes page)).map fun i => base + pageBytes page * i := List.map_map

/-- Every leaf has the mapping's page size and right, and the sleeve's OWNER (R247). -/
theorem newLeaves_fields {v : Sleeve} {pick : BitVec 25} {base len page : Nat} {w : Bool} {node : Nat} {l : Leaf}
    (hl : l ∈ newLeaves v pick base len page w node) : l.code = page ∧ l.w = w ∧ l.owner = v.id := by
  obtain ⟨i, -, rfl⟩ := List.mem_map.mp hl
  exact ⟨rfl, rfl, rfl⟩

/-! ### A sleeve after a completion -/

/-- The accepted descriptors with the status that a completion gives the run's own (R386). -/
def State.acceptedDone (s : State) (r : Run) (l : List Accepted) : List Accepted :=
  l.map fun a => if a.run = r.id then { a with status := some (s.onTime r) } else a

theorem State.sleeves_done (s : State) (r : Run) (d : Done) :
    (s.done r d).sleeves = (s.updAccepted r.hdr.owner (s.acceptedDone r)).sleeves := by
  simp only [State.done, State.complete, State.meetsPred_onTime, if_true]
  rfl

/-- A completion changes no more of a sleeve than its list of accepted descriptors. -/
theorem State.hasSleeve_done {s : State} {n : Nat} {v : Sleeve} (hv : s.hasSleeve n v) (r : Run) (d : Done) :
    ∃ l, (s.done r d).hasSleeve n { v with accepted := l } := by
  have hread (w : Sleeve) (hw : (s.updAccepted r.hdr.owner (s.acceptedDone r)).hasSleeve n w) : (s.done r d).hasSleeve n w := by
    rwa [State.hasSleeve, State.sleeve, State.sleeves_done]
  cases howner : r.hdr.owner with
  | admin => exact ⟨v.accepted, hread v (by rw [howner]; exact hv)⟩
  | sleeve m =>
    rw [howner] at hread
    by_cases hm : n = m
    · subst hm
      exact ⟨_, hread _ (State.hasSleeve_updSleeve_same (fun _ => rfl) hv)⟩
    · exact ⟨v.accepted, hread v (State.hasSleeve_updSleeve_other (fun _ => rfl) hm hv)⟩

/-! ### The commits -/

section
variable {s u : State} {h : QHdr} {r : Run} {v : Sleeve} (hv : u.hasSleeve (ownerNum r.hdr.owner) v)
include hv

/-- MAP of whole pages inside the address space that meet no mapped page and fit the sleeve's share (R246, R342, R404). -/
theorem exec_map {base len page : Nat} {w : Bool} {node : Nat} (hacts : s.actsAs h (.map base len page w node) u r)
    (hpage : page ≤ 2) (hlen : len ≠ 0) (hbase : base % pageBytes page = 0) (hwhole : len % pageBytes page = 0)
    (hend : base + len ≤ 2 ^ 48) (hnode : node = 0xFFFF ∨ page = 1)
    (hfree : ∀ l ∈ v.leaves, rangesMeet l.dva (pageBytes l.code) base len = false)
    (hroom : u.chargedPages { v with leaves := v.leaves ++ newLeaves v (Config.dpaPick u.freeCtr) base len page w node } ≤
      16384 * v.memGib) :
    exec (.map h base len page w node) s = .next ((({ u with freeCtr := u.freeCtr + 1 } : State).updSleeve v.id fun x =>
      { x with leaves := x.leaves ++ newLeaves v (Config.dpaPick u.freeCtr) base len page w node }).done r {}) := by
  have hform : ¬ (len = 0 ∨ base % pageBytes page ≠ 0 ∨ len % pageBytes page ≠ 0 ∨ 2 ^ 48 < base + len ∨
      (node ≠ 0xFFFF ∧ page ≠ 1)) := by
    rintro (hl | hb | hw | he | ⟨hn, hp⟩)
    · exact hlen hl
    · exact hb hbase
    · exact hw hwhole
    · exact Nat.not_lt.mpr hend he
    · exact hnode.elim hn hp
  have hclear : ¬ (v.leaves.any fun l => rangesMeet l.dva (pageBytes l.code) base len) = true := by simpa using hfree
  change execMap h base len page w node s = _
  rw [execMap, State.commandRow_acts hacts, State.commitMap, State.onSleeve_found hv]
  dsimp only
  rw [if_neg (Nat.not_lt.mpr hpage), if_neg hform, if_neg hclear, State.fresh, if_neg (Nat.not_lt.mpr hroom)]

/-- UNMAP of a range whose ends keep to the mapped pages and whose pages no admitted command uses (R246, R248). -/
theorem exec_unmap {base len : Nat} (hacts : s.actsAs h (.unmap base len) u r) (hlen : len ≠ 0) (hends : endsOk v base len = true)
    {gone : List Leaf} (hgone : gone = v.leaves.filter fun l => decide (base ≤ l.dva ∧ l.dva + pageBytes l.code ≤ base + len))
    (hunused : (u.otherRun r fun q => decide (q.hdr.owner = r.hdr.owner) &&
      (q.readGran.any (fun g => inLeaves gone (65536 * g)) || q.writeGran.any (fun g => inLeaves gone (65536 * g)))) = false) :
    exec (.unmap h base len) s = .next (((((u.updSleeve v.id fun x => x.dropLeaves gone).forgetLines fun a l =>
      a == v.id && inLeaves gone (128 * l)).forgetPages fun a p => a == v.id && inLeaves gone (65536 * p))).done r {}) := by
  subst hgone
  change execUnmap h base len s = _
  rw [execUnmap, State.commandRow_acts hacts, State.commitUnmap, State.onSleeve_found hv]
  dsimp only
  rw [if_neg hlen, hends, if_neg (by decide), if_neg (ne_true_of_eq_false hunused)]

/-- SET_WINDOW of a window that is not set, for a PASID of the sleeve (R250, R411). -/
theorem exec_setWindow {n p b len : Nat} {rd wr : Bool} (hacts : s.actsAs h (.setWindow n rd wr p b len) u r) (hn : n ≤ 15)
    (hb : b % 4096 = 0) (hlen : len % 4096 = 0) (hmax : len ≤ 2 ^ 44) (hpasid : v.pasids.contains p = true)
    (hnew : (v.windows.any fun x => x.id == n) = false) :
    exec (.setWindow h n rd wr p b len) s = .next ((u.updSleeve v.id fun x =>
      { x with windows := x.windows.filter (fun y => y.id != n) ++ [⟨n, p, b, len, rd, wr⟩] }).done r {}) := by
  have hform : ¬ (15 < n ∨ b % 4096 ≠ 0 ∨ len % 4096 ≠ 0 ∨ 2 ^ 44 < len) := by omega
  change execSetWindow h n rd wr p b len s = _
  rw [execSetWindow, State.commandRow_acts hacts, State.commitSetWindow, State.onSleeve_found hv]
  dsimp only
  rw [if_neg hform, hpasid, if_neg (by decide), hnew, if_neg (by decide)]

/-- CLEAR_WINDOW of a window that is set: the commands that name it are withdrawn (R250). -/
theorem exec_clearWindow {n : Nat} (hacts : s.actsAs h (.clearWindow n) u r) (hset : (v.windows.any fun x => x.id == n) = true) :
    exec (.clearWindow h n) s = .next (((u.updSleeve v.id fun x =>
      { x with windows := x.windows.filter fun y => y.id != n }).windowGone v.id n).done r {}) := by
  change execClearWindow h n s = _
  rw [execClearWindow, State.commandRow_acts hacts, State.commitClearWindow, State.onSleeve_found hv]
  dsimp only
  rw [hset, if_neg (by decide)]

end

/-- Settles O19: each row is its commit's lemma; the unmapped sleeve is the one whose leaves were dropped, with nothing but its
accepted descriptors changed by the completion. -/
theorem mappingAndWindowCommands : Obligations.MappingAndWindowCommands := by
  intro s u h r v hv
  refine ⟨?_, ?_, ?_, ?_⟩
  · intro base len page w node hacts hpage hlen hbase hwhole hend hnode hfree ls hroom
    exact ⟨newLeaves_dva _ _ _ _ _ _ _, fun l hl => newLeaves_fields hl,
      exec_map hv hacts hpage hlen hbase hwhole hend hnode hfree hroom⟩
  · intro base len hacts hlen hends gone hunused
    have hdropped : (u.updSleeve v.id fun x => x.dropLeaves gone).hasSleeve (ownerNum r.hdr.owner) (v.dropLeaves gone) := by
      rw [State.hasSleeve_id hv]
      exact State.hasSleeve_updSleeve_same (fun _ => rfl) hv
    obtain ⟨l, hw⟩ := State.hasSleeve_done (s := ((u.updSleeve v.id fun x => x.dropLeaves gone).forgetLines fun a l =>
      a == v.id && inLeaves gone (128 * l)).forgetPages fun a p => a == v.id && inLeaves gone (65536 * p)) hdropped r {}
    exact ⟨_, exec_unmap hv hacts hlen hends rfl hunused, _, hw, rfl, v.memGet_dropLeaves gone⟩
  · exact fun n rd wr p b len hacts hn hb hlen hmax hpasid hnew => exec_setWindow hv hacts hn hb hlen hmax hpasid hnew
  · exact fun n hacts hset => exec_clearWindow hv hacts hset

end Sys2Proof.Machine
end

section
/-! SUPPORT. Memory care (R244, R249, R339): the leaves that a switch of one page makes, what a switch leaves of the state, and the
commands of retirement, scrub, settling and base refetch. -/
namespace Sys2Proof.Machine
open Sys2Proof

/-! ### One page of a leaf switched (R249) -/

/-- Whether a leaf holds an address. -/
def Leaf.holds (a : Nat) (l : Leaf) : Bool := decide (l.dva ≤ a ∧ a < l.dva + pageBytes l.code)

theorem Leaf.holds_iff {l : Leaf} {a : Nat} : l.holds a = true ↔ l.dva ≤ a ∧ a < l.dva + pageBytes l.code := decide_eq_true_iff

theorem Sleeve.leafAt_eq (v : Sleeve) (a : Nat) : v.leafAt a = v.leaves.find? (Leaf.holds a) := rfl

/-- What a leaf grants: its right, OWNER and key generation (R247). -/
def Leaf.grant (l : Leaf) : Bool × Nat × Nat := (l.w, l.owner, l.keygen)

/-- Every page is a whole number of 64 KiB pages (R246). -/
theorem pageBytes_whole (code : Nat) : 65536 * (pageBytes code / 65536) = pageBytes code := by
  unfold pageBytes
  split <;> rfl

/-- What the switch of a page makes of one leaf. -/
def switchLeaf (page : Nat) (dpa : BitVec 25) (l : Leaf) : List Leaf :=
  if l.dva ≤ 65536 * page ∧ 65536 * page < l.dva + pageBytes l.code then
    (splitLeaf l).map fun x => if x.dva = 65536 * page then { x with addr := dpa } else x
  else [l]

theorem switchPage_cons (l : Leaf) (ls : List Leaf) (page : Nat) (dpa : BitVec 25) :
    switchPage (l :: ls) page dpa = switchLeaf page dpa l ++ switchPage ls page dpa := List.flatMap_cons

/-- The pieces of a leaf that holds the page: 64 KiB each, one after another, with the leaf's grant; the page's own piece has the
new address. -/
theorem mem_switchLeaf_of_holds {page : Nat} {dpa : BitVec 25} {l x : Leaf} (hl : l.holds (65536 * page) = true) :
    x ∈ switchLeaf page dpa l → ∃ i < pageBytes l.code / 65536, x.dva = l.dva + 65536 * i ∧ x.code = 0 ∧ x.grant = l.grant ∧
      (x.dva = 65536 * page → x.addr = dpa) := by
  rw [switchLeaf, if_pos (Leaf.holds_iff.mp hl)]
  intro hx
  obtain ⟨y, hy, rfl⟩ := List.mem_map.mp hx
  obtain ⟨i, hi, rfl⟩ := List.mem_map.mp hy
  refine ⟨i, List.mem_range.mp hi, ?_⟩
  split
  · exact ⟨rfl, rfl, rfl, fun _ => rfl⟩
  · exact ⟨rfl, rfl, rfl, fun hpage => absurd hpage ‹_›⟩

/-- A piece holds addresses of its leaf only; it has the leaf's grant, and the new address where it holds one of the page. -/
theorem of_mem_switchLeaf {page : Nat} {dpa : BitVec 25} {l x : Leaf} {a : Nat} (hx : x ∈ switchLeaf page dpa l)
    (ha : x.holds a = true) :
    l.holds a = true ∧ x.grant = l.grant ∧ (l.dva % 65536 = 0 → a / 65536 = page → x.addr = dpa) := by
  have hwhole := pageBytes_whole l.code
  simp only [Leaf.holds_iff] at ha ⊢
  by_cases hl : l.holds (65536 * page) = true
  · obtain ⟨i, hi, hdva, hcode, hgrant, haddr⟩ := mem_switchLeaf_of_holds hl hx
    have hsize : pageBytes x.code = 65536 := by rw [hcode]; rfl
    refine ⟨by omega, hgrant, fun halign hpage => haddr ?_⟩
    omega
  · rw [switchLeaf, if_neg (mt Leaf.holds_iff.mpr hl), List.mem_singleton] at hx
    subst hx
    rw [Leaf.holds_iff] at hl
    refine ⟨ha, rfl, fun halign hpage => ?_⟩
    omega

/-- Each address of a leaf lies in one of its pieces. -/
theorem exists_mem_switchLeaf (page : Nat) (dpa : BitVec 25) {l : Leaf} {a : Nat} (ha : l.holds a = true) :
    ∃ x ∈ switchLeaf page dpa l, x.holds a = true := by
  have hwhole := pageBytes_whole l.code
  rw [switchLeaf]
  split
  · rw [Leaf.holds_iff] at ha
    have hi : (a - l.dva) / 65536 < pageBytes l.code / 65536 := by omega
    refine ⟨_, List.mem_map_of_mem (List.mem_map_of_mem (List.mem_range.mpr hi)), Leaf.holds_iff.mpr ?_⟩
    have hsize : pageBytes 0 = 65536 := rfl
    split <;> dsimp only <;> omega
  · exact ⟨l, List.mem_singleton.mpr rfl, ha⟩

/-- The piece of a leaf that an address is read through, or none where the leaf does not hold it. -/
theorem find_switchLeaf (page : Nat) (dpa : BitVec 25) (l : Leaf) (a : Nat) :
    (l.holds a = false ∧ (switchLeaf page dpa l).find? (Leaf.holds a) = none) ∨
    (l.holds a = true ∧ ∃ x ∈ switchLeaf page dpa l, x.holds a = true ∧ (switchLeaf page dpa l).find? (Leaf.holds a) = some x) := by
  cases hfind : (switchLeaf page dpa l).find? (Leaf.holds a) with
  | none =>
    refine .inl ⟨Bool.eq_false_iff.mpr fun ha => ?_, rfl⟩
    obtain ⟨x, hx, hxa⟩ := exists_mem_switchLeaf page dpa ha
    exact List.find?_eq_none.mp hfind x hx hxa
  | some x =>
    have hx := List.mem_of_find?_eq_some hfind
    have hxa : x.holds a = true := List.find?_some hfind
    exact .inr ⟨(of_mem_switchLeaf hx hxa).1, x, hx, hxa, rfl⟩

/-- After a switch an address is read through a piece of the leaf that it was read through before. -/
theorem find_switchPage (ls : List Leaf) (page : Nat) (dpa : BitVec 25) (a : Nat) :
    (ls.find? (Leaf.holds a) = none ∧ (switchPage ls page dpa).find? (Leaf.holds a) = none) ∨
    ∃ l ∈ ls, ∃ x ∈ switchLeaf page dpa l, x.holds a = true ∧ ls.find? (Leaf.holds a) = some l ∧
      (switchPage ls page dpa).find? (Leaf.holds a) = some x := by
  induction ls with
  | nil => exact .inl ⟨rfl, rfl⟩
  | cons l ls ih =>
    rw [switchPage_cons, List.find?_append]
    rcases find_switchLeaf page dpa l a with ⟨hl, hnone⟩ | ⟨hl, x, hx, hxa, hfind⟩
    · rw [List.find?_cons_of_neg (ne_true_of_eq_false hl), hnone, Option.none_or]
      refine ih.imp_right ?_
      rintro ⟨k, hk, hrest⟩
      exact ⟨k, List.mem_cons_of_mem l hk, hrest⟩
    · rw [List.find?_cons_of_pos hl, hfind]
      exact .inr ⟨l, List.mem_cons_self, x, hx, hxa, rfl, rfl⟩

/-- A switch leaves every address its right, OWNER and key generation (R249). -/
theorem find_switchPage_grant (ls : List Leaf) (page : Nat) (dpa : BitVec 25) (a : Nat) :
    ((switchPage ls page dpa).find? (Leaf.holds a)).map Leaf.grant = (ls.find? (Leaf.holds a)).map Leaf.grant := by
  rcases find_switchPage ls page dpa a with ⟨hold, hnew⟩ | ⟨l, -, x, hx, hxa, hold, hnew⟩
  · rw [hold, hnew]
  · rw [hold, hnew, Option.map_some, (of_mem_switchLeaf hx hxa).2.1, Option.map_some]

/-- A mapped address of the switched page lies at the new device page (R249). -/
theorem find_switchPage_addr {ls : List Leaf} (halign : ∀ l ∈ ls, l.dva % 65536 = 0) (dpa : BitVec 25) {a page : Nat}
    (hpage : a / 65536 = page) (hmapped : (ls.find? (Leaf.holds a)).isSome = true) :
    ((switchPage ls page dpa).find? (Leaf.holds a)).map (·.addr) = some dpa := by
  rcases find_switchPage ls page dpa a with ⟨hold, -⟩ | ⟨l, hl, x, hx, hxa, -, hnew⟩
  · rw [hold] at hmapped
    exact absurd hmapped (by decide)
  · obtain ⟨-, -, haddr⟩ := of_mem_switchLeaf hx hxa
    rw [hnew, Option.map_some, haddr (halign l hl) hpage]

/-! ### What a record and an event leave alone -/

@[simp] theorem State.logError_memSide (s : State) (e : LogEntry) : (s.logError e).memSide = s.memSide := by
  unfold State.logError; dsimp only; split <;> rfl
@[simp] theorem State.logError_time (s : State) (e : LogEntry) : (s.logError e).time = s.time := by
  unfold State.logError; dsimp only; split <;> rfl
@[simp] theorem State.logError_runs (s : State) (e : LogEntry) : (s.logError e).runs = s.runs := by
  unfold State.logError; dsimp only; split <;> rfl
@[simp] theorem State.logError_sleeves (s : State) (e : LogEntry) : (s.logError e).sleeves = s.sleeves := by
  unfold State.logError; dsimp only; split <;> rfl
@[simp] theorem State.logError_bases (s : State) (e : LogEntry) : (s.logError e).bases = s.bases := by
  unfold State.logError; dsimp only; split <;> rfl
@[simp] theorem State.logError_retired (s : State) (e : LogEntry) : (s.logError e).rel.retired = s.rel.retired := by
  unfold State.logError; dsimp only; split <;> rfl
@[simp] theorem State.logError_refetched (s : State) (e : LogEntry) : (s.logError e).rel.refetched = s.rel.refetched := by
  unfold State.logError; dsimp only; split <;> rfl

/-! ### A copied page takes the place of the old one (R249) -/

@[simp] theorem State.switchCopied_runs (s : State) (e : Nat × Nat × BitVec 25) : (s.switchCopied e).runs = s.runs := by
  simp only [State.switchCopied, State.event_runs, State.logError_runs]
  split <;> rfl
@[simp] theorem State.switchCopied_time (s : State) (e : Nat × Nat × BitVec 25) : (s.switchCopied e).time = s.time := by
  simp only [State.switchCopied, State.event_time, State.logError_time]
  split <;> rfl
@[simp] theorem State.switchCopied_bases (s : State) (e : Nat × Nat × BitVec 25) : (s.switchCopied e).bases = s.bases := by
  simp only [State.switchCopied, State.event_bases, State.logError_bases]
  split <;> rfl
@[simp] theorem State.switchCopied_retired (s : State) (e : Nat × Nat × BitVec 25) :
    (s.switchCopied e).rel.retired = sat32 s.rel.retired := by
  simp only [State.switchCopied, State.event_rel, State.logError_retired]
  split <;> rfl
@[simp] theorem State.switchCopied_refetched (s : State) (e : Nat × Nat × BitVec 25) :
    (s.switchCopied e).rel.refetched = s.rel.refetched := by
  simp only [State.switchCopied, State.event_rel, State.logError_refetched]
  split <;> rfl

@[simp] theorem State.switchCopied_pageCorr (s : State) (e : Nat × Nat × BitVec 25) :
    (s.switchCopied e).memSide.pageCorr = s.memSide.pageCorr.filter fun x => !(x.1 == e.1 && x.2.1 == e.2.1) := by
  simp only [State.switchCopied, State.event_memSide, State.logError_memSide]
  split <;> rfl
@[simp] theorem State.switchCopied_pageBad (s : State) (e : Nat × Nat × BitVec 25) :
    (s.switchCopied e).memSide.pageBad = s.memSide.pageBad.filter fun x => !(x.1 == e.1 && x.2 == e.2.1) := by
  simp only [State.switchCopied, State.event_memSide, State.logError_memSide]
  split <;> rfl

/-- What was counted against the page is forgotten. -/
theorem State.pageFails_switchCopied (s : State) (n page : Nat) (dpa : BitVec 25) :
    (s.switchCopied (n, page, dpa)).pageFails n page = false := by
  have hbad : (s.switchCopied (n, page, dpa)).memSide.pageBad.contains (n, page) = false := by simp
  have hcount : (s.switchCopied (n, page, dpa)).corrections n page = 0 := by
    rw [State.corrections, List.length_eq_zero_iff, List.filter_eq_nil_iff, State.switchCopied_pageCorr]
    intro x hx
    have hother : (x.1 == n && x.2.1 == page) = false := (Bool.not_eq_true' _).mp (List.mem_filter.mp hx).2
    rw [hother, Bool.false_and]
    exact Bool.false_ne_true
  rw [State.pageFails, hbad, hcount]
  rfl

/-- In a sleeve's space the page's leaf is the one that changes. -/
theorem State.hasSleeve_switchCopied {s : State} {n page : Nat} {dpa : BitVec 25} {v : Sleeve} (hn : n < 16) (hv : s.hasSleeve n v) :
    (s.switchCopied (n, page, dpa)).hasSleeve n { v with leaves := switchPage v.leaves page dpa } := by
  have hsleeves : (s.switchCopied (n, page, dpa)).sleeves =
      (s.updSleeve n fun v => { v with leaves := switchPage v.leaves page dpa }).sleeves := by
    simp only [State.switchCopied, State.event_sleeves, State.logError_sleeves, if_pos hn]
  rw [State.hasSleeve, State.sleeve, hsleeves]
  exact State.hasSleeve_updSleeve_same (fun _ => rfl) hv

/-- Outside the sleeves' spaces no table is split: the spare pool stays, and the page is listed with the one that replaced it. -/
theorem State.memSide_switchCopied {s : State} {e : Nat × Nat × BitVec 25} (harea : ¬ e.1 < 16) :
    (s.switchCopied e).memSide.spares = s.memSide.spares ∧ (s.switchCopied e).memSide.moved.head? = some e := by
  simp only [State.switchCopied, State.event_memSide, State.logError_memSide, if_neg harea]
  exact ⟨by simp [State.sleeve], rfl⟩

/-! ### Retirement (R249) -/

section
variable {s : State} {n dva : Nat}

/-- A page that must not be retired now is left alone. -/
theorem exec_pageRetire_idle (h : s.time.hem = true ∨ s.pageFails n (dva / 65536) = false) : exec (.pageRetire n dva) s = .next s := by
  change execPageRetire n dva s = _
  rw [execPageRetire]
  exact congrArg _ (if_pos (h.imp_right fun hf => .inr (.inl hf)))

variable (hhem : s.time.hem = false) (hexists : s.pageExists n dva = true) (hfails : s.pageFails n (dva / 65536) = true)
  (hunwritten : s.writesPage n (dva / 65536) = false)
  (honce : ∀ e ∈ s.memSide.retiring, ¬(e.1 = n ∧ e.2.1 = dva / 65536))
include hhem hexists hfails hunwritten honce

theorem exec_pageRetire_due : exec (.pageRetire n dva) s = .next (if s.memSide.spares = 0 then s.sparesEmpty else
    { s with freeCtr := s.freeCtr + 1, memSide := { s.memSide with
        spares := s.memSide.spares - 1
        retiring := s.memSide.retiring ++ [(n, dva / 65536, Config.dpaPick s.freeCtr)] } }) := by
  have hnew : (s.memSide.retiring.any fun e => e.1 == n && e.2.1 == dva / 65536) = false := by simpa using honce
  change execPageRetire n dva s = _
  rw [execPageRetire]
  simp only [hhem, hexists, hfails, hunwritten, hnew, Bool.true_eq_false, Bool.false_eq_true, or_self, if_false, State.fresh]

end

/-- An empty spare pool is reported once (R249). -/
theorem State.sparesEmpty_reports {s : State} (hfirst : s.memSide.sparesReported = false) (hen : s.evq.en = true)
    (hmask : s.evq.mask.getLsbD 10 = false) : s.sparesEmpty = { s with
      memSide := { s.memSide with sparesReported := true }
      evq := { s.evq with waiting := s.evq.waiting ++ [⟨10, 255, s.time.stitch.toNat, detailOf []⟩] } } := by
  rw [State.sparesEmpty, if_neg (ne_true_of_eq_false hfirst), State.event, hen, hmask]
  rfl

/-! ### Scrub and settling (R244, R249) -/

/-- One corrected line counts against its page and its die. -/
theorem exec_patrolScrub_one {s : State} (n dva : Nat) (hspares : 0 < s.memSide.spares) :
    exec (.patrolScrub [(n, dva)]) s = .next { s with
      memSide := { s.memSide with
        pageCorr := (n, dva / 65536, s.time.us) :: s.memSide.pageCorr
        dies := put {} s.memSide.dies (s.dieOf n (dva / 128))
          { look {} s.memSide.dies (s.dieOf n (dva / 128)) with
            corrected := (look {} s.memSide.dies (s.dieOf n (dva / 128))).corrected + 1 } }
      rel := { s.rel with corrected := s.rel.corrected + 1 } } := by
  change execPatrolScrub [(n, dva)] s = _
  rw [execPatrolScrub]
  exact congrArg _ (if_neg fun h => Nat.ne_of_gt hspares h.1)

/-- A correction made now is one of the last 24 hours. -/
theorem State.corrections_cons {s t : State} {n page : Nat}
    (hcorr : t.memSide.pageCorr = (n, page, s.time.us) :: s.memSide.pageCorr) (hus : t.time.us = s.time.us) :
    t.corrections n page = s.corrections n page + 1 := by
  have hday : s.time.us < s.time.us + dayUs := Nat.lt_add_of_pos_right (by decide)
  rw [State.corrections, State.corrections, hcorr, hus, List.filter_cons_of_pos (by simp [hday]), List.length_cons]

theorem exec_lineSettle (s : State) (n l : Nat) :
    exec (.lineSettle n l) s = .next (s.forgetLines fun a k => a == n && k == l) := rfl

theorem mem_filter_settled {es : List (Nat × Nat)} {n l : Nat} {e : Nat × Nat} :
    e ∈ es.filter (fun e => !(e.1 == n && e.2 == l)) ↔ e ∈ es ∧ e ≠ (n, l) := by
  have hother : (!(e.1 == n && e.2 == l)) = true ↔ e ≠ (n, l) := by
    rw [Bool.not_eq_true', Bool.eq_false_iff, Ne, Ne, Bool.and_eq_true, beq_iff_eq, beq_iff_eq, Prod.ext_iff]
  rw [List.mem_filter, hother]

/-! ### Base refetch (R339) -/

/-- A slot with a peer's bytes at one of its pages, which is no longer asked for. -/
def Slot.refilled (q : Slot) (page : Nat) (data : List Byte) : Slot :=
  { q with refetch := q.refetch.filter (· != page), mem := memWrite q.mem (65536 * page) (data.take 65536) }

/-- The slot's page refilled and counted, before its replacement page is taken. -/
def State.refilled (s : State) (n page : Nat) (data : List Byte) : State :=
  { s.updSlot n fun q => q.refilled page data with rel := { s.rel with refetched := sat32 s.rel.refetched } }

/-- A spare page replaces the refilled one. -/
def State.replaced (s : State) (n page : Nat) : State :=
  ({ s with freeCtr := s.freeCtr + 1, memSide := { s.memSide with spares := s.memSide.spares - 1 } } : State).switchCopied
    (slotArea n, page, Config.dpaPick s.freeCtr)

theorem exec_basePageRefetch {s : State} {n page : Nat} (data : List Byte) (hasked : page ∈ (s.slot n).refetch) :
    exec (.basePageRefetch n page data) s = .next (if s.memSide.spares = 0 then (s.refilled n page data).sparesEmpty
      else (s.refilled n page data).replaced n page) := by
  change execBasePageRefetch n page data s = _
  rw [execBasePageRefetch]
  exact congrArg _ (if_pos (List.contains_iff_mem.mpr hasked))

@[simp] theorem State.sparesEmpty_bases (s : State) : s.sparesEmpty.bases = s.bases := by
  unfold State.sparesEmpty
  split
  · rfl
  · exact State.event_bases _ _ _ _
@[simp] theorem State.sparesEmpty_rel (s : State) : s.sparesEmpty.rel = s.rel := by
  unfold State.sparesEmpty
  split
  · rfl
  · exact State.event_rel _ _ _ _

@[simp] theorem State.slot_refilled (s : State) (n page : Nat) (data : List Byte) :
    (s.refilled n page data).slot n = (s.slot n).refilled page data := s.slot_updSlot_same n fun q => q.refilled page data

/-- A refilled page holds the bytes that came, is asked for no more, and leaves every other byte alone. -/
theorem Slot.refilled_reads (q : Slot) (page : Nat) {data : List Byte} (hlen : data.length = 65536) :
    page ∉ (q.refilled page data).refetch ∧ memRead (q.refilled page data).mem (65536 * page) 65536 = data ∧
    ∀ a, a < 65536 * page ∨ 65536 * (page + 1) ≤ a → memGet (q.refilled page data).mem a = memGet q.mem a := by
  have hmem : (q.refilled page data).mem = memWrite q.mem (65536 * page) data := by
    rw [Slot.refilled, List.take_of_length_le (Nat.le_of_eq hlen)]
  refine ⟨by simp [Slot.refilled], ?_, fun a ha => ?_⟩
  · rw [hmem]
    exact hlen ▸ memRead_memWrite q.mem (65536 * page) data
  · rw [hmem]
    exact memGet_memWrite_outside _ _ _ _ (by omega)

/-- Settles O45: the switch through `find_switchPage`, the other clauses each by the command's own lemma. -/
theorem memoryCare : Obligations.MemoryCare := by
  intro s
  refine ⟨?_, ?_, ?_, ?_, ?_, ?_, ?_⟩
  · intro n dva page hhem hexists hfails hunwritten honce
    have hdue := exec_pageRetire_due hhem hexists hfails hunwritten honce
    refine ⟨fun hspares => ?_, fun hspares hfirst hen hmask => ⟨_, hdue, ?_⟩⟩
    · rw [hdue, if_neg (Nat.ne_of_gt hspares)]
    · rw [if_pos hspares, State.sparesEmpty_reports hfirst hen hmask]
      exact ⟨rfl, rfl⟩
  · intro n page dpa v hn hv t
    simp only [Sleeve.leafAt_eq]
    refine ⟨s.pageFails_switchCopied n page dpa, s.switchCopied_retired _, s.switchCopied_runs _,
      _, State.hasSleeve_switchCopied hn hv, rfl, fun dva => ?_, fun halign dva hmapped hpage => ?_⟩
    · exact find_switchPage_grant v.leaves page dpa dva
    · exact find_switchPage_addr halign dpa hpage hmapped
  · exact fun n dva hsound => exec_pageRetire_idle (.inr hsound)
  · intro n dva hspares
    exact ⟨_, exec_patrolScrub_one n dva hspares, rfl, State.corrections_cons rfl rfl, by rw [look_put_same]⟩
  · exact fun n l => ⟨_, exec_lineSettle s n l, rfl, fun e => mem_filter_settled, fun e => mem_filter_settled⟩
  · exact fun n dva hhem => exec_pageRetire_idle (.inl hhem)
  · intro n page data hasked hlen
    obtain ⟨hrefetch, hread, hrest⟩ := (s.slot n).refilled_reads page hlen
    refine ⟨_, exec_basePageRefetch data hasked, ?_⟩
    rw [← State.slot_refilled] at hrefetch hread hrest
    by_cases hspares : s.memSide.spares = 0
    · rw [if_pos hspares, State.slot, State.sparesEmpty_bases, State.sparesEmpty_rel]
      exact ⟨hrefetch, hread, hrest, rfl, fun hpos => absurd hspares (Nat.ne_of_gt hpos)⟩
    · have harea : ¬ slotArea n < 16 := by unfold slotArea; omega
      rw [if_neg hspares, State.replaced, State.slot, State.switchCopied_bases, State.switchCopied_refetched]
      exact ⟨hrefetch, hread, hrest, rfl, fun _ => State.memSide_switchCopied harea⟩

end Sys2Proof.Machine
end

section
/-! SUPPORT. A granted page request (R24, R251, R364): while an accepted stitch length waits for its edge, the grant places no
command. -/
namespace Sys2Proof.Machine
open Sys2Proof

/-- The commands in the book, and the time. -/
def State.book (s : State) : List Run × Time := (s.runs, s.time)

theorem State.book_emit (s : State) (o : Output) : (s.emit o).book = s.book := rfl

/-- Sending page requests leaves the book alone. -/
theorem State.book_sendGroup (s : State) (q : PageReq) : (s.sendGroup q).book = s.book := by
  unfold State.sendGroup
  dsimp only
  split
  · rfl
  · exact foldl_keeps State.book (fun t _ => t.book_emit _) _ _

theorem State.book_sendGroups (s : State) : s.sendGroups.book = s.book := foldl_keeps State.book State.book_sendGroup _ s

/-- Between the acceptance of a stitch length and its edge no command is placed (R24, log entry 115). -/
theorem State.placeWaiters_of_lengthPending {s : State} (h : s.lengthPending = true) (tau fuel : Nat) :
    s.placeWaiters tau fuel = s := by
  cases fuel with
  | zero => rfl
  | succ fuel =>
    have hnone : (s.runs.find? fun r => decide (r.phase = .waiting ∧ r.stop = none) && !s.mustWait r && !s.lengthPending) = none := by
      rw [List.find?_eq_none]
      intro r _
      rw [h, Bool.not_true, Bool.and_false]
      exact Bool.false_ne_true
    rw [State.placeWaiters, hnone]

theorem State.book_placeReady {s : State} (h : s.lengthPending = true) : s.placeReady.book = s.book := by
  have htau : s.tauNow.2.lengthPending = true := h
  rw [State.placeReady, State.placeWaiters_of_lengthPending htau]
  rfl

theorem State.lengthPending_of_book {s t : State} (hbook : t.book = s.book) : t.lengthPending = s.lengthPending := by
  obtain ⟨-, htime⟩ := Prod.mk.inj hbook
  rw [State.lengthPending, htime, State.lengthPending]

/-- A grant meanwhile leaves the book as it is: the commands that waited for the pages go on waiting. -/
theorem State.book_grantGroup {s : State} (h : s.lengthPending = true) (g : PageReq) : (s.grantGroup g).book = s.book := by
  have hasked (qs : List PageReq) (t : State) :
      (qs.foldl (fun (t : State) q => t.emit (.atsRequest q.pasid q.page)) t).dropStopped.sendGroups.book = t.book :=
    (State.book_sendGroups _).trans (foldl_keeps State.book (fun t _ => t.book_emit _) qs t)
  rw [State.grantGroup, State.book_placeReady, hasked]
  · rfl
  · rw [State.lengthPending_of_book (hasked _ _)]
    exact h

/-! ### A grant in the hem in which a stitch length was accepted -/

/-- The sleeve of the command that waits. -/
def waitingSleeve : Sleeve :=
  { id := 0, bolts := 1, memGib := 2, cxl := 10, seam := 10, power := 50, born := 0, keygen := 1, pasids := [7] }

/-- A RUN that waits in the book for a host page. -/
def waitingRun : Run :=
  { id := 1, body := .run ⟨List.replicate 30 0, 0, [], false⟩, submit := 0, place := 0, phase := .waiting
    hdr :=
      { owner := .sleeve 0, queue := 0, slot := 2, seq := 6, tag := 0x1234, cls := false, watch := 0, gradMode := 0, deadline := 8
        bolts := 1, base := 0, pattern := 1, preds := [], oppt := none, args := ⟨0, 0⟩, argsLen := 0, statsAddr := ⟨0, 0⟩
        statsLen := 0, reserved := false } }

/-- The page that it waits for; its page request is out. -/
def waitedPage : PageReq := { group := 5, sleeve := 0, pasid := 7, page := 0, write := false, run := 1 }

/-- The hem after SET_STITCH has committed, with the page request still out. -/
def lengthChangeHem : State :=
  { sleeves := [waitingSleeve], runs := [waitingRun], hif := { link := .l0, pageReqs := [waitedPage] }
    time := { hem := true, lenNext := some 2 } }

/-- Refutes O46: a page granted between the acceptance of a stitch length and its edge does not place the command that waited for it
(R24, log entry 115). -/
theorem not_hostPageEvents : ¬ Obligations.HostPageEvents := by
  intro h
  obtain ⟨-, -, -, -, hgroups⟩ := h lengthChangeHem
  obtain ⟨-, hgrant, -⟩ := hgroups waitedPage rfl
  obtain ⟨t, hexec, -, -, -, hplaced⟩ := hgrant (by decide)
  have hgranted : lengthChangeHem.grantGroup waitedPage = t := Host.Outcome.next.inj hexec
  have hruns : t.runs = [waitingRun] :=
    hgranted ▸ congrArg Prod.fst (State.book_grantGroup (s := lengthChangeHem) rfl waitedPage)
  obtain ⟨-, hall⟩ := hplaced waitingRun waitingSleeve rfl rfl rfl rfl rfl (by decide)
  exact absurd (hall waitingRun (by rw [hruns]; exact List.mem_singleton.mpr rfl)) (by decide)

end Sys2Proof.Machine
end
